-- ==== Sys2Proof/Word.lean ====
section
/-! DEFINITION. The word types of the HDN-4160 (R2, R96): lane words, 64-bit words, bytes. -/
namespace Sys2Proof

/-- A lane word (R96). -/
abbrev Word := BitVec 32
/-- A scalar register or a 64-bit pair (R96). -/
abbrev Dword := BitVec 64
/-- One location (R345). -/
abbrev Byte := BitVec 8

end Sys2Proof
end

