-- ==== Sys2Proof/Machine/Table.lean ====
section
/-! DEFINITION. Machine/Table: association tables, lists read by index, and lane masks. -/
namespace Sys2Proof.Machine

/-- The entry of a table at a key. -/
def lookup {α : Type} : List (Nat × α) → Nat → Option α
  | [], _ => none
  | (a, x) :: r, k => if a == k then some x else lookup r k

/-- Writes the entry at a key, in place where it exists, else at the end. -/
def insert {α : Type} : List (Nat × α) → Nat → α → List (Nat × α)
  | [], k, x => [(k, x)]
  | (a, y) :: r, k, x => if a == k then (a, x) :: r else (a, y) :: insert r k x

/-- Removes the entries at a key. -/
def erase {α : Type} : List (Nat × α) → Nat → List (Nat × α)
  | [], _ => []
  | (a, y) :: r, k => if a == k then erase r k else (a, y) :: erase r k

/-- The lowest number from `k` on that is no key, found within `n` tries. -/
def freshKey {α : Type} (t : List (Nat × α)) : Nat → Nat → Nat
  | 0, k => k
  | n + 1, k => if (lookup t k).isNone then k else freshKey t n (k + 1)

/-- A number that no entry of the table has. -/
def fresh {α : Type} (t : List (Nat × α)) : Nat := freshKey t t.length 0

/-- `List.replicate` under one name for register files. -/
def fill {α : Type} (n : Nat) (x : α) : List α := List.replicate n x

/-- A lane mask: bit l stands for lane l. -/
abbrev Mask := BitVec 64

/-- Lane `l` is in the mask. -/
def Mask.has (m : Mask) (l : Nat) : Bool := m.getLsbD l

/-- The mask with lane `l` alone. -/
def Mask.bit (l : Nat) : Mask := 1#64 <<< l

/-- The mask with lane `l` set. -/
def Mask.add (m : Mask) (l : Nat) : Mask := m ||| Mask.bit l

/-- The mask with lane `l` clear. -/
def Mask.del (m : Mask) (l : Nat) : Mask := m &&& ~~~(Mask.bit l)

/-- All of the first `w` lanes. -/
def Mask.below (w : Nat) : Mask := BitVec.ofNat 64 (2 ^ w - 1)

/-- The lanes of a mask below `w`, ascending. -/
def Mask.lanes (m : Mask) (w : Nat) : List Nat := (List.range w).filter (fun l => m.getLsbD l)

/-- The mask of the lanes below `w` that meet a test. -/
def Mask.of (w : Nat) (f : Nat → Bool) : Mask :=
  (List.range w).foldl (fun m l => if f l then Mask.add m l else m) 0

/-- `a` lies within `b`. -/
def Mask.within (a b : Mask) : Bool := a &&& ~~~b == 0

/-- The smallest number of a list. -/
def minimum : List Nat → Option Nat
  | [] => none
  | x :: r => match minimum r with
    | none => some x
    | some y => some (if x ≤ y then x else y)

/-- `n` rounded up to a multiple of `k`. -/
def roundUp (n k : Nat) : Nat := (n + k - 1) / k * k

/-- `n ÷ k` rounded up. -/
def ceilDiv (n k : Nat) : Nat := (n + k - 1) / k

/-- Two's complement value of the low `n` bits of `x`. -/
def signed (n x : Nat) : Int := if x % 2 ^ n < 2 ^ (n - 1) then (x % 2 ^ n : Int) else (x % 2 ^ n : Int) - 2 ^ n

end Sys2Proof.Machine
end

