-- ==== Sys2Proof/Syntax.lean ====
section
/-! DEFINITION. Syntax: one constructor of `Instr` per row of the opcode table. The Lumlia instructions carry the fields of their format (R82 to R89), the Busoron instructions those of R149, `spawn` those of R167; the device's own steps carry what they act on and the choices the manual leaves open to the device or its environment. -/
namespace Sys2Proof

/-- An operand specifier (R77). `none` is `0xff`; `resv k` is `0xe3 + k`, which raises ILLEGAL_OPERAND. -/
inductive Opnd where
  | v (n : Fin 128)
  | s (n : Fin 64)
  | p (n : Fin 8)
  | j (n : Fin 8)
  | cc (n : Fin 16)
  | lpc
  | lsp
  | gs
  | resv (k : Fin 28)
  | none
  deriving DecidableEq, Repr

/-- The type field (R80). -/
inductive Ty where
  | b32 | i32 | n32 | i64 | n64 | f32 | bf16x2 | f16x2 | e4m3x4 | e5m2x4 | i16x2 | i8x4
  deriving DecidableEq, Repr

/-- The rounding field (R33). -/
inductive Rnd where
  | rn | rz | rd | ru
  deriving DecidableEq, Repr

/-- The space field of format M (R86). -/
inductive Space where
  | generic | global | cistern | private_ | host
  deriving DecidableEq, Repr

/-- The size field of format M (R86, R249). -/
inductive Size where
  | b8 | b16 | b32 | b64 | b128
  deriving DecidableEq, Repr

/-- The class field of format M (R250). -/
inductive Cls where
  | plain | vol | acq | rel | ar
  deriving DecidableEq, Repr

/-- The scope field of format M (R86, R346). -/
inductive Scope where
  | tm | pr | dv | sy
  deriving DecidableEq, Repr

/-- Format V (R82). -/
structure VOps where
  look : BitVec 4
  d : Opnd
  a : Opnd
  b : Opnd
  c : Opnd
  ka : BitVec 3
  kb : BitVec 3
  kc : BitVec 3
  pub : Bool
  pred : Fin 8
  neg : Bool
  ty : Ty
  rnd : Rnd
  sat : Bool
  imm : BitVec 25
  deriving DecidableEq, Repr

/-- Format I (R84). -/
structure IOps where
  d : Opnd
  a : Opnd
  pred : Fin 8
  neg : Bool
  ty : Ty
  imm : BitVec 48
  deriving DecidableEq, Repr

/-- Format S (R85). -/
structure SOps where
  d : Opnd
  a : Opnd
  pred : Fin 8
  neg : Bool
  imm : BitVec 48
  deriving DecidableEq, Repr

/-- Format M (R86). -/
structure MOps where
  look : BitVec 4
  d : Opnd
  base : Opnd
  index : Opnd
  scale : Fin 4
  space : Space
  size : Size
  cls : Cls
  scope : Scope
  pred : Fin 8
  neg : Bool
  aop : BitVec 4
  off : BitVec 32
  deriving DecidableEq, Repr

/-- Format B (R87). -/
structure BOps where
  pred : Fin 8
  neg : Bool
  treg : Opnd
  disp : BitVec 48
  deriving DecidableEq, Repr

/-- Format E (R89). The five operand fields stay bytes: each is a specifier or an object number, as the instruction says. -/
structure EOps where
  look : BitVec 4
  d : Byte
  a : Byte
  b : Byte
  c : Byte
  e : Byte
  cnt : Fin 16
  pred : Fin 8
  neg : Bool
  ctl : BitVec 30
  deriving DecidableEq, Repr

/-- Busoron format A (R149). -/
structure QA where
  rd : Fin 16
  ra : Fin 16
  rb : Fin 16
  deriving DecidableEq, Repr

/-- Busoron format K (R149). -/
structure QK where
  rd : Fin 16
  ra : Fin 16
  imm : BitVec 18
  deriving DecidableEq, Repr

/-- Busoron format M (R149): `size` is log2 of the bytes. -/
structure QM where
  rd : Fin 16
  ra : Fin 16
  win : Fin 8
  size : Fin 4
  off : BitVec 13
  deriving DecidableEq, Repr

/-- Busoron format J (R149). -/
structure QJ where
  ra : Fin 16
  rb : Fin 16
  disp : BitVec 18
  deriving DecidableEq, Repr

/-- A fabric flit (R428): the payload to LEN, the rest of bytes 16 to 247 being zero; `crc` is bytes 248 to 251, `tail` bytes 252 to 255. -/
structure Flit where
  type : Byte
  flags : Byte
  dst : BitVec 16
  src : BitVec 16
  gid : Byte
  inc : Byte
  rank : Byte
  len : Nat
  seq : Word
  payload : List Byte
  crc : Word
  tail : Word
  deriving DecidableEq, Repr, Inhabited

/-- Where a host write lands (R356, R472): a host bus address, or device memory through the function's BAR. -/
inductive HostTarget where
  | bus (a : Nat)
  | device (pa : Nat)
  deriving DecidableEq, Repr

/-- What the next step of bring-up comes to (R25): the next stack is trained or fails, or before a C-die's first stack the die itself fails. -/
inductive BringUp where
  | trained | stackFails | dieFails
  deriving DecidableEq, Repr

/-- The rows of the opcode table. A group is named by its core (R12) and slot (R14), a queue, context, function, die, port or run by its number, a launch, job or request by the number the model gave it. -/
inductive Instr where
  -- bring-up and the core's housekeeping
  | reset
  | stackTrainingComplete (x : BringUp)
  | autoRestore (ctx : Nat)
  | planeArrayIdle (core : Nat)
  | rampStep (core : Nat)
  | coreIdle (core : Nat)
  | placementRateLimitEnd (core : Nat)
  | teamPlacement (launch : Nat) (slots : List Nat)
  | groupRetire (core slot : Nat)
  | lineRefetch (core slot : Nat)
  | longLatencyResult (core slot : Nat)
  | standpipeRotation (core : Nat)
  | partitionHandover (core holder taker : Nat)
  | evictedGroupRestore (core slot : Nat)
  | duplicateCopy (core slot : Nat) (reg : Opnd)
  -- contexts
  | create (fn ctx : Nat)
  | resume (fn ctx : Nat)
  | suspend (fn ctx : Nat)
  | kill (fn ctx : Nat)
  | killComplete (ctx : Nat)
  | checkpoint (fn ctx : Nat)
  | checkpointInterval (ctx : Nat)
  | checkpointComplete (ctx : Nat)
  | sliceInstant (ctx : Nat)
  | saveComplete (ctx : Nat)
  | deadline (launch : Nat)
  | sliceTableExchange (ctx : Nat) (gang : List Nat)
  | timeSyncLost
  | errqHeadPoll (ctx : Option Nat)
  | registerWrite (fn off : Nat) (value : Dword)
  -- queues and packets
  | enable (fn queue : Nat)
  | disable (fn queue : Nat)
  | restart (fn queue : Nat)
  | drainComplete (queue : Nat)
  | doorbell (queue : Nat)
  | queuePoll (queue : Nat)
  | unitAssignment (unit : Nat)
  | packetFetch (queue : Nat)
  | nopPacket (queue : Nat)
  | launch (queue : Nat)
  | copy (queue : Nat)
  | copyComplete (id : Nat)
  | waitval (queue : Nat)
  | waitvalRecheck (queue : Nat)
  | writeval (queue : Nat)
  | run (queue : Nat)
  | program (queue : Nat)
  | programRerun (queue : Nat)
  -- Busoron
  | qli (o : QK)
  | qlis (o : QK)
  | qadd (o : QA)
  | qsub (o : QA)
  | qand (o : QA)
  | qor (o : QA)
  | qxor (o : QA)
  | qshl (o : QA)
  | qshr (o : QA)
  | qmul (o : QA)
  | qminu (o : QA)
  | qmaxu (o : QA)
  | qaddi (o : QK)
  | qandi (o : QK)
  | qshli (o : QK)
  | qshri (o : QK)
  | qld (o : QM)
  | qst (o : QM)
  | qldp (o : QM)
  | qstp (o : QM)
  | qbeq (o : QJ)
  | qbne (o : QJ)
  | qbltu (o : QJ)
  | qbgeu (o : QJ)
  | qjmp (o : QJ)
  | qrep (o : QK)
  | qbucket (o : QA)
  | qact
  | qnvme (o : QM)
  | qdone
  | qpass
  | qhold
  | qfail (ra : Fin 16)
  -- application harts
  | spawn (rd rs1 : Fin 32)
  -- system, major 0x00
  | nop (o : SOps)
  | trap (o : SOps)
  | tret (o : SOps)
  | rsp (o : SOps)
  | wsp (o : SOps)
  | rgn (o : SOps)
  | pause (o : SOps)
  | pauseExpiry (core slot : Nat)
  -- branch, major 0x01
  | bra (o : BOps)
  | brx (o : BOps)
  | call (o : BOps)
  | callx (o : BOps)
  | ret (o : BOps)
  | exit (o : BOps)
  -- rejoin, major 0x02
  | jenter (o : VOps)
  | jquit (o : VOps)
  | jwait (o : VOps)
  | jget (o : VOps)
  | jsave (o : VOps)
  | jrest (o : VOps)
  -- lane and chain, major 0x03
  | vote (o : VOps)
  | ballot (o : VOps)
  | shfl (o : VOps)
  | lanes (o : VOps)
  | pub (o : VOps)
  | chst (o : VOps)
  | shape (o : VOps)
  | chainValueArrival (core slot : Nat)
  -- integer, major 0x10
  | add (o : VOps)
  | sub (o : VOps)
  | mul (o : VOps)
  | mulhi (o : VOps)
  | mad (o : VOps)
  | div (o : VOps)
  | rem (o : VOps)
  | min (o : VOps)
  | max (o : VOps)
  | abs (o : VOps)
  | neg (o : VOps)
  | and (o : VOps)
  | or (o : VOps)
  | xor (o : VOps)
  | andn (o : VOps)
  | shl (o : VOps)
  | shr (o : VOps)
  | sar (o : VOps)
  | rot (o : VOps)
  | clz (o : VOps)
  | popc (o : VOps)
  | brev (o : VOps)
  | bfe (o : VOps)
  | bfi (o : VOps)
  | cmp (o : VOps)
  | sel (o : VOps)
  | mov (o : VOps)
  | lea (o : VOps)
  | movi (o : IOps)
  -- floating point, major 0x20
  | fadd (o : VOps)
  | fsub (o : VOps)
  | fmul (o : VOps)
  | fma (o : VOps)
  | fmin (o : VOps)
  | fmax (o : VOps)
  | fdiv (o : VOps)
  | fsqrt (o : VOps)
  | frcp (o : VOps)
  | frsq (o : VOps)
  | fexp2 (o : VOps)
  | flog2 (o : VOps)
  | fsin (o : VOps)
  | fcos (o : VOps)
  | fround (o : VOps)
  | fscale (o : VOps)
  | fclass (o : VOps)
  | fdot2 (o : VOps)
  -- conversion, major 0x30
  | cvt (o : VOps)
  | cvtPlane (o : VOps)
  | pk (o : VOps)
  | unpk (o : VOps)
  | mxun (o : VOps)
  | tern (o : VOps)
  -- lane-combining, major 0x38
  | dist (o : VOps)
  | topk (o : VOps)
  | topm (o : VOps)
  | redadd (o : VOps)
  | redmax (o : VOps)
  | redmin (o : VOps)
  | scan (o : VOps)
  -- memory, majors 0x40 to 0x48
  | ld (o : MOps)
  | st (o : MOps)
  | ldb (o : MOps)
  | stb (o : MOps)
  | prf (o : MOps)
  | ctag (o : MOps)
  | cins (o : MOps)
  | cinv (o : MOps)
  | halloc (o : MOps)
  | hfree (o : MOps)
  | atom (o : MOps)
  | red (o : MOps)
  | fence (o : MOps)
  | ratom (o : MOps)
  | rpoll (o : MOps)
  | ratomTimeout (req : Nat)
  -- tiles and identifiers, major 0x50
  | tcfg (o : EOps)
  | tget (o : EOps)
  | tset (o : EOps)
  | trel (o : EOps)
  | tld (o : EOps)
  | tst (o : EOps)
  | tidw (o : EOps)
  | tidr (o : EOps)
  | tidv (o : EOps)
  -- matrix and gate, major 0x58
  | mma (o : EOps)
  | mmaz (o : EOps)
  | matrixOpComplete (op : Nat)
  | mbank (o : EOps)
  | gate (o : EOps)
  | gateOpComplete (core : Nat)
  | gcfg (o : EOps)
  -- jobs and counters, major 0x60
  | cpy (o : EOps)
  | plane (o : EOps)
  | ccget (o : EOps)
  | ccwait (o : EOps)
  | ccset (o : EOps)
  | sexp (o : EOps)
  | simp (o : EOps)
  | srst (o : EOps)
  | jobStart (job : Nat)
  | pumpSector (job : Nat)
  | streamJobComplete (job : Nat)
  -- barriers and handoff queues, major 0x68
  | bar (o : EOps)
  | barv (o : EOps)
  | barw (o : EOps)
  | barp (o : EOps)
  | qcfg (o : EOps)
  | qpush (o : EOps)
  | qpop (o : EOps)
  -- pages and faults
  | inval (fn ctx : Nat)
  | replayRetry (fn : Nat) (ticket : Word)
  | replayFail (fn : Nat) (ticket : Word)
  | pin (fn ctx : Nat)
  | unpin (fn ctx : Nat)
  | faultRecordWrite (fn : Nat)
  | placementHint (ctx page : Nat)
  -- runs, major 0x70 and the sequencer
  | ivtab (o : EOps)
  | ivopen (o : EOps)
  | ivgo (o : EOps)
  | ivq (o : EOps)
  | ivstat (o : EOps)
  | ivwait (o : EOps)
  | ivarg (o : EOps)
  | ivclose (o : EOps)
  | stageFormed (run : Nat)
  | stageLaunchDone (run : Nat)
  | solveLaunchDone (run : Nat)
  | estimateFormed (run : Nat)
  | eventLaunchDone (run : Nat)
  -- links, collectives, exchange
  | dieLinkBeat (link : Nat) (crcOk : Bool)
  | fabricPortTraining (port lanes : Nat)
  | flitWrite (port : Nat) (f : Flit)
  | flitReadRequest (port : Nat) (f : Flit)
  | flitReadReply (port : Nat) (f : Flit)
  | flitAtomicRequest (port : Nat) (f : Flit)
  | flitAtomicReply (port : Nat) (f : Flit)
  | flitContribution (port : Nat) (f : Flit)
  | flitResult (port : Nat) (f : Flit)
  | flitExchangeToken (port : Nat) (f : Flit)
  | flitTime (port : Nat) (f : Flit)
  | flitControl (port : Nat) (f : Flit)
  | collectiveTimeout (gid off : Nat)
  | bind (fn gid : Nat)
  | free (fn gid : Nat)
  | exchange (fn : Nat)
  -- pools, firmware, host port
  | assign (fn target : Nat)
  | load (fn : Nat)
  | portFirmwareStart
  | fuse (fn kind : Nat)
  | attest (fn : Nat)
  | cert (fn : Nat)
  | fabcfgInboundLoad (fn : Nat)
  | cxlCacheDown (linkUp : Bool)
  | hostWrite (t : HostTarget) (bytes : List Byte)
  | cxlCacheUp
  | peerRequestTimeout (req : Nat)
  deriving DecidableEq, Repr

end Sys2Proof
end

