-- ==== Sys2Proof/Machine/Encoding.lean ====
section
/-! DEFINITION. Machine/Encoding: the encoding checks of R76 to R89 and of each instruction's own table, in the order of R95 (ILLEGAL_OP before ILLEGAL_OPERAND). A check that needs the group's state (R234, R337, R194, R198) is made by the instruction's meaning. -/
namespace Sys2Proof

/-- The two faults an encoding can raise (R94). -/
inductive EncFault where
  | illegalOp
  | illegalOperand
  deriving DecidableEq, Repr

/-- R95: ILLEGAL_OP comes before ILLEGAL_OPERAND. -/
def encResult (opOk operandOk : Bool) : Option EncFault :=
  if !opOk then some .illegalOp else if !operandOk then some .illegalOperand else none

def Opnd.isV : Opnd → Bool
  | .v _ => true
  | _ => false

def Opnd.isS : Opnd → Bool
  | .s _ => true
  | _ => false

/-- What an operand position accepts (R206): vector, scalar, immediate, predicate; a wide vector must be even (R29). -/
structure Pos where
  v : Bool := false
  s : Bool := false
  i : Bool := false
  p : Bool := false
  wide : Bool := false
  deriving DecidableEq, Repr

namespace Pos
def none : Pos := {}
def vs (w : Bool) : Pos := { v := true, s := true, wide := w }
def vsi (w : Bool) : Pos := { v := true, s := true, i := true, wide := w }
def vec (w : Bool) : Pos := { v := true, wide := w }
def scal : Pos := { s := true }
def pr : Pos := { p := true }

/-- R78: the specifier is of an accepted kind; an unused position holds 0xff. -/
def ok (x : Pos) (o : Opnd) : Bool :=
  match o with
  | .v n => x.v && (!x.wide || n.val % 2 == 0)
  | .s _ => x.s
  | .p _ => x.p
  | .none => x.i || (!x.v && !x.s && !x.p)
  | _ => false

/-- The position holds an immediate (R82). -/
def isImm (x : Pos) (o : Opnd) : Bool := x.i && o == .none

/-- R82, R181: a chain distance is 0, or 1 to 4 on a 32-bit vector operand that is read. -/
def chainOk (x : Pos) (o : Opnd) (k : BitVec 3) : Bool :=
  k == 0 || (k.toNat ≤ 4 && x.v && !x.wide && o.isV)
end Pos

def Ty.wide : Ty → Bool
  | .i64 | .n64 => true
  | _ => false

/-- R30, R232: elements of one operand of the type. -/
def Ty.elems : Ty → Nat
  | .bf16x2 | .f16x2 | .i16x2 => 2
  | .e4m3x4 | .e5m2x4 | .i8x4 => 4
  | _ => 1

/-- R83: the bits of a packed integer immediate above the element repeat its sign. -/
def immFits (t : Ty) (imm : BitVec 25) : Bool :=
  match t with
  | .i16x2 => (imm.extractLsb' 0 16).signExtend 25 == imm
  | .i8x4 => (imm.extractLsb' 0 8).signExtend 25 == imm
  | _ => true

/-- What a format V instruction accepts. `ctl`: the c position is K and this says its imm25 is legal (R207). `immAny`: the immediate is not read under R83. -/
structure VSpec where
  types : List Ty
  d : Pos
  a : Pos := .none
  b : Pos := .none
  c : Pos := .none
  long : Bool := false
  chains : Bool := true
  ctl : Option Bool := Option.none
  immAny : Bool := false
  opOk : Bool := true
  operandOk : Bool := true
  deriving DecidableEq, Repr

/-- R78 to R82 for one format V instruction. -/
def VOps.check (o : VOps) (x : VSpec) : Option EncFault :=
  let imms := (if x.a.isImm o.a then 1 else 0) + (if x.b.isImm o.b then 1 else 0) + (if x.c.isImm o.c then 1 else 0)
  let immOk := match x.ctl with
    | some ok => ok && imms == 0
    | Option.none => if imms == 0 then o.imm == 0 else imms == 1 && (x.immAny || immFits o.ty o.imm)
  let chainOk := if x.chains then x.a.chainOk o.a o.ka && x.b.chainOk o.b o.kb && x.c.chainOk o.c o.kc
    else o.ka == 0 && o.kb == 0 && o.kc == 0
  let pubOk := !o.pub || (x.chains && x.d.v && !x.d.wide && o.d.isV)
  encResult ((x.long || o.look == 0) && x.types.contains o.ty && x.opOk)
    (x.d.ok o.d && x.a.ok o.a && x.b.ok o.b && x.c.ok o.c && chainOk && pubOk && immOk && x.operandOk)

/-- Two sources and a destination of one width. -/
def VOps.bin (o : VOps) (types : List Ty) : VSpec :=
  { types, d := .vs o.ty.wide, a := .vsi o.ty.wide, b := .vsi o.ty.wide }

def VOps.un (o : VOps) (types : List Ty) : VSpec :=
  { types, d := .vs o.ty.wide, a := .vsi o.ty.wide }

def VOps.tri (o : VOps) (types : List Ty) : VSpec :=
  { types, d := .vs o.ty.wide, a := .vsi o.ty.wide, b := .vsi o.ty.wide, c := .vsi o.ty.wide }

/-- b is a 32-bit shift amount (R212). -/
def VOps.shift (o : VOps) (types : List Ty) : VSpec :=
  { types, d := .vs o.ty.wide, a := .vsi o.ty.wide, b := .vsi false }

def tyInt : List Ty := [.i32, .n32, .i64, .n64, .i16x2, .i8x4]
def tyF : List Ty := [.f32, .bf16x2, .f16x2]

/-- The condition code of `cmp` (R220). -/
def VOps.cond (o : VOps) : Nat :=
  (if o.sat then 4 else 0) + (match o.rnd with | .rn => 0 | .rz => 1 | .rd => 2 | .ru => 3)

/-- `mov` (R99, R100, R212). -/
def movCheck (o : VOps) : Option EncFault :=
  let w := o.ty.wide
  let aOk := match o.a with
    | .lpc | .lsp => w
    | .gs => o.ty == .n64 && o.d.isS
    | x => (Pos.vsi w).ok x
  let dOk := match o.d with
    | .lsp => w && o.a != .gs
    | .gs => o.ty == .n64 && o.a.isS
    | x => (Pos.vs w).ok x
  let imm := o.a == .none
  encResult (o.look == 0 && [Ty.b32, .i64, .n64].contains o.ty)
    (aOk && dOk && o.b == .none && o.c == .none && (Pos.vsi w).chainOk o.a o.ka && o.kb == 0 && o.kc == 0 &&
      (!o.pub || (!w && o.d.isV)) && (imm || o.imm == 0))

def Ty.ofCode : Nat → Option Ty
  | 0 => some .b32 | 1 => some .i32 | 2 => some .n32 | 3 => some .i64 | 4 => some .n64 | 5 => some .f32
  | 6 => some .bf16x2 | 7 => some .f16x2 | 8 => some .e4m3x4 | 9 => some .e5m2x4 | 10 => some .i16x2
  | 11 => some .i8x4 | _ => Option.none

/-- The fields of `cvt`'s imm25 (R231). -/
def cvtST (o : VOps) : Option Ty := Ty.ofCode (o.imm.extractLsb' 0 4).toNat
def cvtSEL (o : VOps) : Nat := (o.imm.extractLsb' 4 2).toNat
def cvtP (o : VOps) : Nat := (o.imm.extractLsb' 6 5).toNat

/-- R232: the values SEL may take. -/
def cvtSelCount (src dst : Nat) : Nat :=
  if src == 1 then (if dst == 4 then 2 else 1)
  else if src == 2 then (if dst == 2 then 1 else 2)
  else if dst == 1 then 4 else if dst == 2 then 2 else 1

/-- R232: b is read when one element fills part of a packed destination. -/
def cvtReadsB (src dst : Nat) : Bool := src == 1 && dst != 1

def cvtCheck (o : VOps) : Option EncFault :=
  match cvtST o with
  | Option.none | some .b32 => some .illegalOp
  | some st =>
    let n := st.elems; let m := o.ty.elems
    o.check { types := [.i32, .n32, .i64, .n64, .f32, .bf16x2, .f16x2, .e4m3x4, .e5m2x4, .i16x2, .i8x4],
              d := .vs o.ty.wide, a := .vs st.wide, b := if cvtReadsB n m then .vs st.wide else .none,
              ctl := some (o.imm.extractLsb' 11 14 == 0 && cvtP o == 0 && cvtSEL o < cvtSelCount n m) }

def cvtPlaneCheck (o : VOps) : Option EncFault :=
  o.check { types := [.b32], opOk := cvtST o == some .f32, d := .vec false, a := .vec false,
            ctl := some (o.imm.extractLsb' 11 14 == 0 && 1 ≤ cvtP o && cvtP o ≤ 16 && cvtSEL o == 0) }

/-- R210: an instruction of major 0x38 may not read and publish one chain register. -/
def noSerial (o : VOps) : Bool :=
  !(o.pub && ((o.ka != 0 && o.a == o.d) || (o.kb != 0 && o.b == o.d) || (o.kc != 0 && o.c == o.d)))

def moviCheck (o : IOps) : Option EncFault :=
  let z := o.imm.toNat; let x := o.imm.toInt
  let fits := match o.ty with
    | .b32 => -(2 : Int)^31 ≤ x && x ≤ 2^32 - 1
    | .i32 => -(2 : Int)^31 ≤ x && x ≤ 2^31 - 1
    | .n32 => z < 2^32
    | .i64 | .n64 => true
    | _ => z < 2^32
  encResult true ((Pos.vs o.ty.wide).ok o.d && o.a == .none && fits)

/-- Number of set bits of rgn's list (R108). -/
def onesBelow (w : Nat) : Nat → Nat
  | 0 => 0
  | n + 1 => (if w.testBit n then 1 else 0) + onesBelow w n

def rgnCheck (o : SOps) : Option EncFault :=
  let ok := match o.d with
    | .none => o.imm == 0
    | .v b => onesBelow o.imm.toNat 48 ≤ 16 && (o.imm.toNat >>> (128 - b.val)) == 0
    | _ => false
  encResult true (ok && o.a == .none)

def SOps.check (o : SOps) (opOk operandOk : Bool) : Option EncFault :=
  encResult opOk (operandOk && o.a == .none)

def BOps.check (o : BOps) (reg : Bool) (noDisp : Bool) : Option EncFault :=
  encResult (!noDisp || o.disp == 0) (if reg then (Pos.vs true).ok o.treg else o.treg == .none)

/-- R249: the register operand of an access. -/
def dataOk (sz : Size) (scalar : Bool) (o : Opnd) : Bool :=
  match o, sz with
  | .v n, .b64 => n.val % 2 == 0
  | .v n, .b128 => n.val % 4 == 0
  | .v _, _ => true
  | .s _, .b128 => false
  | .s _, _ => scalar
  | _, _ => false

def MOps.memrefOk (o : MOps) : Bool :=
  (o.base == .none || o.base.isS) && (o.index == .none || o.index.isV)

/-- R253: in the loads and stores of major `0x40` a scale needs an index. DESIGN CHOICE (log 32): the manual names no such fault for the other memory instructions, and there the scale is not looked at. -/
def MOps.scaleOk (o : MOps) : Bool := o.index != .none || o.scale == 0

/-- R251: class and scope. A plain or volatile access carries scope 0; in cistern space only team and pair. -/
def MOps.orderOk (o : MOps) (classes : List Cls) : Bool :=
  classes.contains o.cls &&
  (match o.cls with
   | .plain | .vol => o.scope == .tm
   | _ => o.space != .cistern || o.scope == .tm || o.scope == .pr)

/-- R251: class and scope fields that must be 0. -/
def MOps.noOrder (o : MOps) : Bool := o.cls == .plain && o.scope == .tm

/-- R262: an aop with its size. -/
def aopOk (aop : BitVec 4) (sz : Size) : Bool :=
  match sz with
  | .b32 => aop.toNat ≤ 12
  | .b64 => aop.toNat ≤ 9
  | _ => false

/-- R263: the data operand of an atomic. -/
def atomDataOk (o : MOps) : Bool :=
  match o.d, o.size with
  | .v n, .b32 => o.aop != 1 || n.val % 2 == 0
  | .v n, _ => if o.aop == 1 then n.val % 4 == 0 else n.val % 2 == 0
  | .s n, .b64 => o.aop != 1 || n.val % 2 == 0
  | .s _, _ => true
  | _, _ => false

def MOps.check (o : MOps) (long : Bool) (opOk operandOk : Bool) : Option EncFault :=
  encResult ((long || o.look == 0) && opOk) (o.memrefOk && operandOk)

def Opnd.ofByte (b : Byte) : Opnd :=
  let n := b.toNat
  if h : n < 128 then .v ⟨n, h⟩
  else if h : n - 128 < 64 then .s ⟨n - 128, h⟩
  else if h : n - 192 < 8 then .p ⟨n - 192, h⟩
  else if h : n - 200 < 8 then .j ⟨n - 200, h⟩
  else if h : n - 208 < 16 then .cc ⟨n - 208, h⟩
  else if n = 224 then .lpc
  else if n = 225 then .lsp
  else if n = 226 then .gs
  else if h : n - 227 < 28 then .resv ⟨n - 227, h⟩
  else .none

/-- Field kinds of format E. -/
def isNone (b : Byte) : Bool := b == 0xff#8
/-- A scalar s0 to s(63 - room). -/
def isScal (b : Byte) (room : Nat) : Bool := 128 ≤ b.toNat && b.toNat + room < 192
def isVec (b : Byte) (align : Nat) : Bool := b.toNat < 128 && b.toNat % align == 0

/-- Format E: `cntUsed` and the mask of ctl bits in use (R89, R94). -/
def EOps.check (o : EOps) (long cntUsed : Bool) (ctlMask : Nat) (opOk operandOk : Bool) : Option EncFault :=
  encResult ((long || o.look == 0) && (cntUsed || o.cnt == 0) &&
      (o.ctl &&& ~~~(BitVec.ofNat 30 ctlMask)) == 0 && opOk) operandOk

def EOps.bit (o : EOps) (k : Nat) : Bool := o.ctl.getLsbD k

def none5 (l : List Byte) : Bool := l.all isNone

/-- `tld` and `tst` (R281): sizes 2, 3, 4. -/
def tileAccessCheck (o : EOps) (long : Bool) : Option EncFault :=
  let sz := (o.ctl.extractLsb' 12 3).toNat
  o.check long false 0x7fff (sz == 2 || sz == 3 || sz == 4)
    (isVec o.d (if sz == 4 then 4 else if sz == 3 then 2 else 1) &&
     (isVec o.b 1 || isScal o.b 0) && (isNone o.c || isVec o.c 1 || isScal o.c 0) && isNone o.e)

def mmaCheck (o : EOps) : Option EncFault :=
  o.check false (o.bit 8) 0x3ffff (o.bit 9 || o.ctl.extractLsb' 10 8 == 0) (isVec o.c 2 && isVec o.e 1)

def gateCheck (o : EOps) : Option EncFault :=
  o.check false (o.bit 16) 0x1ffff (o.bit 5 || o.ctl.extractLsb' 6 10 == 0)
    ((o.bit 3 || isNone o.b) && (o.bit 4 || isNone o.c) && (!o.bit 4 || o.bit 3) && isNone o.e)

/-- The encoding check of an instruction; the device's own steps and Busoron words have none (R151 checks those when a program is loaded). -/
def Instr.check : Instr → Option EncFault
  | .nop o => o.check (o.imm == 0) (o.d == .none)
  | .trap o => o.check (o.imm.extractLsb' 16 32 == 0) (o.d == .none)
  | .tret o => o.check (o.imm == 0) (o.d == .none)
  | .rsp o => o.check true ((Pos.vs true).ok o.d)
  | .wsp o => o.check true (o.d == .none && o.imm.extractLsb' 0 3 == 0)
  | .rgn o => rgnCheck o
  | .pause o => o.check (o.imm.extractLsb' 12 36 == 0) (o.d == .none)
  | .bra o => o.check false false
  | .brx o => o.check true false
  | .call o => o.check false false
  | .callx o => o.check true false
  | .ret o => o.check false true
  | .exit o => o.check false true
  | .jenter o => jCheck o (fun d => d == .none) isJ Option.none
  | .jquit o => jCheck o (fun d => d == .none) isJ Option.none
  | .jwait o => jCheck o (fun d => d == .none) isJ Option.none
  | .jget o => jCheck o Opnd.isS isJ (some (o.imm.toNat ≤ 2))
  | .jsave o => jCheck o isS61 isJ Option.none
  | .jrest o => jCheck o isJ isS61 Option.none
  | .vote o => o.check { types := [.b32], d := .pr, a := .pr, chains := false, ctl := some (o.imm.toNat ≤ 2) }
  | .ballot o => o.check { types := [.b32], d := .scal, a := .pr, chains := false, ctl := some (o.imm == 0) }
  | .shfl o => o.check { types := [.b32], d := .vec false, a := .vec false, b := .vs false, chains := false, ctl := some (o.imm.toNat ≤ 3) }
  | .lanes o => o.check { types := [.b32], d := .vec false, chains := false, ctl := some (o.imm == 0) }
  | .pub o => { o with pub := false }.check { types := [.b32], d := .vec false, chains := false, ctl := some (o.imm == 0), operandOk := o.pub }
  | .chst o => o.check { types := [.b32], d := .vec false, a := .vec false, chains := false, ctl := some (o.imm.toNat ≤ 2) }
  | .shape o => o.check { types := [.b32], d := .vs false, a := .vec false, chains := false, ctl := some (o.imm == 0) }
  | .add o => o.check (o.bin (.b32 :: tyInt))
  | .sub o => o.check (o.bin (.b32 :: tyInt))
  | .mul o => o.check (o.bin (.b32 :: tyInt))
  | .mulhi o => o.check (o.bin [.i32, .n32, .i64, .n64])
  | .mad o => o.check (o.tri tyInt)
  | .div o => o.check { o.bin [.i32, .n32, .i64, .n64] with long := true }
  | .rem o => o.check { o.bin [.i32, .n32, .i64, .n64] with long := true }
  | .min o => o.check (o.bin tyInt)
  | .max o => o.check (o.bin tyInt)
  | .abs o => o.check (o.un [.i32, .i64, .i16x2, .i8x4])
  | .neg o => o.check (o.un [.b32, .i32, .i64, .i16x2, .i8x4])
  | .and o => o.check (o.bin [.b32, .n64])
  | .or o => o.check (o.bin [.b32, .n64])
  | .xor o => o.check (o.bin [.b32, .n64])
  | .andn o => o.check (o.bin [.b32, .n64])
  | .shl o => o.check (o.shift [.b32, .i32, .n32, .i64, .n64])
  | .shr o => o.check (o.shift [.b32, .n32, .n64])
  | .sar o => o.check (o.shift [.i32, .i64])
  | .rot o => o.check (o.shift [.b32, .n64])
  | .clz o => o.check { o.un [.b32, .n64] with d := .vs false }
  | .popc o => o.check { o.un [.b32, .n64] with d := .vs false }
  | .brev o => o.check (o.un [.b32, .n64])
  | .bfe o => o.check (o.bin [.i32, .n32])
  | .bfi o => o.check (o.tri [.b32])
  | .cmp o => o.check { o.bin [.i32, .n32, .i64, .n64, .f32] with d := .pr, opOk := o.ty == .f32 || o.cond < 6 }
  | .sel o => o.check { o.bin [.b32, .n64] with c := .pr }
  | .mov o => movCheck o
  | .lea o => o.check { types := [.n64], d := .vs true, a := .vs true, b := .vs false, ctl := some (o.imm.toNat ≤ 3) }
  | .movi o => moviCheck o
  | .fadd o => o.check (o.bin tyF)
  | .fsub o => o.check (o.bin tyF)
  | .fmul o => o.check (o.bin tyF)
  | .fma o => o.check (o.tri tyF)
  | .fmin o => o.check (o.bin tyF)
  | .fmax o => o.check (o.bin tyF)
  | .fdiv o => o.check { o.bin [.f32] with long := true }
  | .fsqrt o => o.check { o.un [.f32] with long := true }
  | .frcp o => o.check { o.un [.f32] with long := true }
  | .frsq o => o.check { o.un [.f32] with long := true }
  | .fexp2 o => o.check { o.un [.f32] with long := true }
  | .flog2 o => o.check { o.un [.f32] with long := true }
  | .fsin o => o.check { o.un [.f32] with long := true }
  | .fcos o => o.check { o.un [.f32] with long := true }
  | .fround o => o.check (o.un tyF)
  | .fscale o => o.check { o.bin [.f32] with immAny := true }
  | .fclass o => o.check (o.un [.f32])
  | .fdot2 o => o.check (o.tri [.bf16x2, .f16x2])
  | .cvt o => cvtCheck o
  | .cvtPlane o => cvtPlaneCheck o
  | .pk o => o.check (o.bin [.bf16x2, .f16x2, .i16x2, .e4m3x4, .e5m2x4, .i8x4])
  | .unpk o => o.check { types := [.bf16x2, .f16x2, .i16x2, .e4m3x4, .e5m2x4, .i8x4], d := .vs false, a := .vs false, b := .vsi false, immAny := true }
  | .mxun o => o.check { types := [.f32, .bf16x2, .f16x2, .e4m3x4, .e5m2x4], d := .vs false, a := .vs false, b := .vs false,
                         ctl := some (o.imm.toNat < 8 / o.ty.elems) }
  | .tern o => o.check { types := [.e4m3x4, .e5m2x4], d := .vec true, a := .vs false, ctl := some (o.imm.toNat < 4) }
  | .dist o => o.check { types := [.f32], d := .vec false, a := .vec false, b := .vs false, long := true,
                         ctl := some (o.imm.extractLsb' 17 8 == 0), operandOk := noSerial o }
  | .topk o => o.check { types := [.f32], d := .none, a := .vec false, b := .vs false, c := .scal }
  | .topm o => o.check { types := [.f32], d := .none, a := .scal, b := .scal }
  | .redadd o => redCheck o
  | .redmax o => redCheck o
  | .redmin o => redCheck o
  | .scan o => o.check { types := [.f32, .i32, .n32], d := .vec false, a := .vs false, ctl := some (o.imm.toNat ≤ 1), operandOk := noSerial o }
  | .ld o => o.check true (o.aop == 0 && o.orderOk [.plain, .vol, .acq]) (dataOk o.size true o.d && o.scaleOk)
  | .st o => o.check false (o.aop == 0 && o.orderOk [.plain, .vol, .rel]) (dataOk o.size true o.d && o.scaleOk)
  | .ldb o => o.check true (o.aop == 0 && o.orderOk [.plain, .vol, .acq]) (dataOk o.size false o.d && o.index == .none && o.scale == 0)
  | .stb o => o.check false (o.aop == 0 && o.orderOk [.plain, .vol, .rel]) (dataOk o.size false o.d && o.index == .none && o.scale == 0)
  | .prf o => o.check false (o.aop == 0 && o.noOrder && o.space != .cistern && o.space != .private_) (o.d == .none && o.scaleOk)
  | .ctag o => o.check true (tagFields o) (o.d.isV || o.d.isS)
  | .cins o => o.check false (tagFields o) (o.d.isV || o.d.isS)
  | .cinv o => o.check false (tagFields o) (o.d == .none)
  | .halloc o => o.check true (o.space == .generic && o.size == .b64 && o.noOrder && o.aop == 0) (dataOk .b64 true o.d)
  | .hfree o => o.check false ((o.space == .generic || o.space == .global) && o.size == .b64 && o.noOrder && o.aop == 0) (o.d == .none)
  | .atom o => o.check true (o.space != .private_ && aopOk o.aop o.size && o.orderOk [.plain, .acq, .rel, .ar]) (atomDataOk o)
  | .red o => o.check false (o.space != .private_ && aopOk o.aop o.size && 2 ≤ o.aop.toNat && o.orderOk [.plain, .rel]) (atomDataOk o)
  | .fence o => o.check false (o.scale == 0 && o.space == .generic && o.size == .b8 && o.aop == 0 && o.off == 0 && o.orderOk [.acq, .rel, .ar])
      (o.d == .none && o.base == .none && o.index == .none)
  | .ratom o => o.check true ((o.space == .generic || o.space == .global) && aopOk o.aop o.size &&
      (o.cls == .plain || o.cls == .rel) && o.scope == .sy) (atomDataOk o)
  | .rpoll o => o.check false (o.space != .cistern && o.size == .b128 && o.aop == 0 && (o.cls == .plain || o.cls == .acq) && (o.scope == .dv || o.scope == .sy))
      (dataOk .b128 false o.d)
  | .tcfg o => o.check false false 0 true (isScal o.a 0 && isScal o.b 0 && none5 [o.c, o.e])
  | .tget o => o.check false false 0 true (isScal o.d 1 && none5 [o.b, o.c, o.e])
  | .tset o => o.check false false 1 true (none5 [o.a, o.b, o.c, o.e])
  | .trel o => o.check false false 0 true (none5 [o.a, o.b, o.c, o.e])
  | .tld o => tileAccessCheck o true
  | .tst o => tileAccessCheck o false
  | .tidw o => o.check false false 0 true (isScal o.a 7 && none5 [o.b, o.c, o.e])
  | .tidr o => o.check false false 0 true (isScal o.d 7 && none5 [o.b, o.c, o.e])
  | .tidv o => o.check false false 0 true (isScal o.d 0 && none5 [o.b, o.c, o.e])
  | .mma o => mmaCheck o
  | .mmaz o => mmaCheck o
  | .mbank o => o.check false false 0 true (isScal o.d 0 && none5 [o.a, o.b, o.c, o.e])
  | .gate o => gateCheck o
  | .gcfg o => o.check false false 7 true (isScal o.d 0 && isScal o.a 0 && none5 [o.b, o.c, o.e])
  | .cpy o => o.check false false 3 true (isScal o.a 0 && (o.bit 0 || isNone o.d) && (o.bit 1 || isNone o.b) && none5 [o.c, o.e])
  | .plane o => o.check false (o.bit 0) 3 true ((isNone o.b || isScal o.b 2) && (o.bit 1 || isNone o.c) && isNone o.e)
  | .ccget o => o.check false true 0 true ((isVec o.d 1 || isScal o.d 0) && none5 [o.a, o.b, o.c, o.e])
  | .ccwait o => o.check false true 0xffff true (none5 [o.d, o.a, o.b, o.c, o.e] && o.ctl != 0)
  | .ccset o => o.check false true (if isNone o.a then 0xffff else 0) true ((isNone o.a || isScal o.a 0) && none5 [o.d, o.b, o.c, o.e])
  | .sexp o => o.check false (o.bit 10) 0x7ff true (isScal o.a 0 && none5 [o.d, o.b, o.c, o.e])
  | .simp o => o.check false (o.bit 10) 0x7ff true (isScal o.a 0 && none5 [o.d, o.b, o.c, o.e])
  | .srst o => o.check false false 0x7ff true (isScal o.a 2 && none5 [o.d, o.b, o.c, o.e])
  | .bar o => o.check false false 0xf true (none5 [o.d, o.a, o.b, o.c, o.e])
  | .barv o => o.check false false 0xf true (isScal o.d 0 && none5 [o.a, o.b, o.c, o.e])
  | .barw o => o.check false false 0xf true (isScal o.a 0 && none5 [o.d, o.b, o.c, o.e])
  | .barp o => o.check false false 0xf true (none5 [o.d, o.a, o.b, o.c, o.e])
  | .qcfg o => o.check false false 0x1fff true (isScal o.a 0 && (o.ctl.extractLsb' 4 9).toNat ≤ 256 && none5 [o.d, o.b, o.c, o.e])
  | .qpush o => o.check false false 0xf true ((isNone o.b || isScal o.b 0) && none5 [o.d, o.c, o.e])
  | .qpop o => o.check false false 0xf true (isScal o.d 0 && none5 [o.a, o.b, o.c, o.e])
  | .ivtab o => o.check false false 0 true (isScal o.d 0 && o.a.toNat < 64 && isScal o.b 0 && none5 [o.c, o.e])
  | .ivopen o => o.check false false 0 true (isScal o.d 0 && o.a.toNat < 64 && isScal o.b 0 && none5 [o.c, o.e])
  | .ivgo o => o.check false false 0xfffff true (isScal o.d 0 && isScal o.a 0 && none5 [o.b, o.c, o.e])
  | .ivq o => o.check true false 0 true (isVec o.d 2 && isScal o.a 0 && isVec o.b 1 && isVec o.c 1 && isNone o.e)
  | .ivstat o => o.check false false 3 true (isScal o.d 3 && isScal o.a 0 && none5 [o.b, o.c, o.e])
  | .ivwait o => o.check false false 0 true (isScal o.d 0 && isScal o.a 0 && none5 [o.b, o.c, o.e])
  | .ivarg o => o.check false false 0xf true (isScal o.d 0 && o.ctl.toNat ≤ 10 && none5 [o.a, o.b, o.c, o.e])
  | .ivclose o => o.check false false 0 true (isScal o.d 0 && isScal o.a 0 && none5 [o.b, o.c, o.e])
  | .reset | .stackTrainingComplete _ | .autoRestore _ | .planeArrayIdle _ | .rampStep _ | .coreIdle _
  | .placementRateLimitEnd _ | .teamPlacement _ _ | .groupRetire _ _ | .lineRefetch _ _ | .longLatencyResult _ _
  | .standpipeRotation _ | .partitionHandover _ _ _ | .evictedGroupRestore _ _ | .duplicateCopy _ _ _ | .create _ _
  | .resume _ _ | .suspend _ _ | .kill _ _ | .killComplete _ | .checkpoint _ _ | .checkpointInterval _
  | .checkpointComplete _ | .sliceInstant _ | .saveComplete _ | .deadline _ | .sliceTableExchange _ _ | .timeSyncLost
  | .errqHeadPoll _ | .registerWrite _ _ _ | .enable _ _ | .disable _ _ | .restart _ _ | .drainComplete _
  | .doorbell _ | .queuePoll _ | .unitAssignment _ | .packetFetch _ | .nopPacket _ | .launch _ | .copy _
  | .copyComplete _ | .waitval _ | .waitvalRecheck _ | .writeval _ | .run _ | .program _ | .programRerun _ | .qli _
  | .qlis _ | .qadd _ | .qsub _ | .qand _ | .qor _ | .qxor _ | .qshl _ | .qshr _ | .qmul _ | .qminu _ | .qmaxu _
  | .qaddi _ | .qandi _ | .qshli _ | .qshri _ | .qld _ | .qst _ | .qldp _ | .qstp _ | .qbeq _ | .qbne _ | .qbltu _
  | .qbgeu _ | .qjmp _ | .qrep _ | .qbucket _ | .qact | .qnvme _ | .qdone | .qpass | .qhold | .qfail _ | .spawn _ _
  | .pauseExpiry _ _ | .chainValueArrival _ _ | .ratomTimeout _ | .matrixOpComplete _ | .gateOpComplete _
  | .jobStart _ | .pumpSector _ | .streamJobComplete _ | .inval _ _ | .replayRetry _ _ | .replayFail _ _ | .pin _ _
  | .unpin _ _ | .faultRecordWrite _ | .placementHint _ _ | .stageFormed _ | .stageLaunchDone _ | .solveLaunchDone _
  | .estimateFormed _ | .eventLaunchDone _ | .dieLinkBeat _ _ | .fabricPortTraining _ _ | .flitWrite _ _
  | .flitReadRequest _ _ | .flitReadReply _ _ | .flitAtomicRequest _ _ | .flitAtomicReply _ _ | .flitContribution _ _
  | .flitResult _ _ | .flitExchangeToken _ _ | .flitTime _ _ | .flitControl _ _ | .collectiveTimeout _ _ | .bind _ _
  | .free _ _ | .exchange _ | .assign _ _ | .load _ | .portFirmwareStart | .fuse _ _ | .attest _ | .cert _
  | .fabcfgInboundLoad _ | .cxlCacheDown _ | .hostWrite _ _ | .cxlCacheUp | .peerRequestTimeout _ => Option.none
where
  isJ : Opnd → Bool
    | .j _ => true
    | _ => false
  isS61 : Opnd → Bool
    | .s n => n.val ≤ 61
    | _ => false
  /-- R202: the rejoin instructions. -/
  jCheck (o : VOps) (dOk aOk : Opnd → Bool) (ctl : Option Bool) : Option EncFault :=
    encResult (o.look == 0 && o.ty == .b32)
      (dOk o.d && aOk o.a && o.b == .none && o.c == .none && o.ka == 0 && o.kb == 0 && o.kc == 0 && !o.pub &&
        (match ctl with | some ok => ok | Option.none => o.imm == 0))
  /-- R238: the reductions. -/
  redCheck (o : VOps) : Option EncFault :=
    o.check { types := [.f32, .i32, .n32, .i64, .n64], d := .vs o.ty.wide, a := .vs o.ty.wide, operandOk := noSerial o }
  /-- R257: size, class, scope and aop 0, space 0 or 1. -/
  tagFields (o : MOps) : Bool :=
    (o.space == .generic || o.space == .global) && o.size == .b8 && o.noOrder && o.aop == 0

/-- Fields of a Busoron instruction that it does not use are zero (R150); a limit of R150 or R151 on a used field is checked when a program is loaded. -/
def qUnused : Instr → Bool
  | .qli o => o.ra == 0
  | .qldp o => o.ra == 0 && o.win == 0
  | .qstp o => o.ra == 0 && o.win == 0
  | .qjmp o => o.ra == 0 && o.rb == 0
  | .qrep o => o.rd == 0 && o.ra == 0
  | .qbucket o => o.rb == 0
  | _ => true

end Sys2Proof
end

