-- ==== Sys2Proof/WellFormed.lean ====
section
/-! DEFINITION. WellFormed: an instruction that passes every encoding check of R76 to R95, or for a Busoron instruction of R150. -/
namespace Sys2Proof

/-- The instruction passes every encoding check, and a Busoron instruction has zeros in the fields it does not use. -/
def WellFormed (i : Instr) : Bool := i.check == Option.none && qUnused i

end Sys2Proof
end

