-- ==== Sys2Proof/Decode.lean ====
section
/-! DEFINITION. Decode: instruction words to instructions and back, from the field tables of R76 to R94, R149, R150 and R167. Total on any word; a word that is no instruction is refused by name. -/
namespace Sys2Proof

/-- Fields of a word, from the least significant: each is a width and a value. -/
def packFields : List (Nat × Nat) → Nat
  | [] => 0
  | (n, x) :: r => x % 2 ^ n + 2 ^ n * packFields r

/-- Cuts a word into fields of the given widths, from the least significant. -/
def cutFields : List Nat → Nat → List Nat
  | [], _ => []
  | n :: r, w => w % 2 ^ n :: cutFields r (w / 2 ^ n)

def Ty.code : Ty → Nat
  | .b32 => 0
  | .i32 => 1
  | .n32 => 2
  | .i64 => 3
  | .n64 => 4
  | .f32 => 5
  | .bf16x2 => 6
  | .f16x2 => 7
  | .e4m3x4 => 8
  | .e5m2x4 => 9
  | .i16x2 => 10
  | .i8x4 => 11

def Rnd.code : Rnd → Nat
  | .rn => 0
  | .rz => 1
  | .rd => 2
  | .ru => 3

def Rnd.ofCode : Nat → Rnd
  | 0 => .rn
  | 1 => .rz
  | 2 => .rd
  | _ => .ru

def Space.code : Space → Nat
  | .generic => 0
  | .global => 1
  | .cistern => 2
  | .private_ => 3
  | .host => 4

def Space.ofCode : Nat → Option Space
  | 0 => some .generic
  | 1 => some .global
  | 2 => some .cistern
  | 3 => some .private_
  | 4 => some .host
  | _ => Option.none

def Size.code : Size → Nat
  | .b8 => 0
  | .b16 => 1
  | .b32 => 2
  | .b64 => 3
  | .b128 => 4

def Size.ofCode : Nat → Option Size
  | 0 => some .b8
  | 1 => some .b16
  | 2 => some .b32
  | 3 => some .b64
  | 4 => some .b128
  | _ => Option.none

def Cls.code : Cls → Nat
  | .plain => 0
  | .vol => 1
  | .acq => 2
  | .rel => 3
  | .ar => 4

def Cls.ofCode : Nat → Option Cls
  | 0 => some .plain
  | 1 => some .vol
  | 2 => some .acq
  | 3 => some .rel
  | 4 => some .ar
  | _ => Option.none

def Scope.code : Scope → Nat
  | .tm => 0
  | .pr => 1
  | .dv => 2
  | .sy => 3

def Scope.ofCode : Nat → Scope
  | 0 => .tm
  | 1 => .pr
  | 2 => .dv
  | _ => .sy

/-- R77, from a specifier to its code. -/
def Opnd.code : Opnd → Nat
  | .v n => n.val
  | .s n => 128 + n.val
  | .p n => 192 + n.val
  | .j n => 200 + n.val
  | .cc n => 208 + n.val
  | .lpc => 224
  | .lsp => 225
  | .gs => 226
  | .resv k => 227 + k.val
  | .none => 255

def Opnd.ofCode (n : Nat) : Opnd := Opnd.ofByte (BitVec.ofNat 8 n)
def bitOf (n : Nat) : Bool := n % 2 == 1
def bitCode (b : Bool) : Nat := if b then 1 else 0
def fin8 (n : Nat) : Fin 8 := ⟨n % 8, Nat.mod_lt _ (by decide)⟩
def fin4 (n : Nat) : Fin 4 := ⟨n % 4, Nat.mod_lt _ (by decide)⟩
def fin16 (n : Nat) : Fin 16 := ⟨n % 16, Nat.mod_lt _ (by decide)⟩
def fin32 (n : Nat) : Fin 32 := ⟨n % 32, Nat.mod_lt _ (by decide)⟩

/-- R82: imm25, sat, rnd, type, neg, pred, pub, kc, kb, ka, c, b, a, d. -/
def widthsV : List Nat := [25, 1, 2, 4, 1, 3, 1, 3, 3, 3, 8, 8, 8, 8]
/-- R84: imm48, zero, type, neg, pred, a, d. -/
def widthsI : List Nat := [48, 6, 4, 1, 3, 8, 8]
/-- R85: imm48, z, neg, pred, a, d. -/
def widthsS : List Nat := [48, 10, 1, 3, 8, 8]
/-- R86: offset, aop, neg, pred, scope, class, size, space, scale, index, base, d. -/
def widthsM : List Nat := [32, 4, 1, 3, 2, 3, 3, 3, 3, 8, 8, 8]
/-- R87: disp, z, treg, neg, pred. -/
def widthsB : List Nat := [48, 18, 8, 1, 3]
/-- R89: ctl, neg, pred, cnt, e, c, b, a, d. -/
def widthsE : List Nat := [30, 1, 3, 4, 8, 8, 8, 8, 8]

def VOps.decode (look w : Nat) : Option VOps :=
  match cutFields widthsV w with
  | [imm, sat, rnd, ty, neg, pred, pub, kc, kb, ka, c, b, a, d] =>
    (Ty.ofCode ty).map fun ty =>
      { look := BitVec.ofNat 4 look, d := .ofCode d, a := .ofCode a, b := .ofCode b, c := .ofCode c,
        ka := BitVec.ofNat 3 ka, kb := BitVec.ofNat 3 kb, kc := BitVec.ofNat 3 kc, pub := bitOf pub, pred := fin8 pred,
        neg := bitOf neg, ty, rnd := .ofCode rnd, sat := bitOf sat, imm := BitVec.ofNat 25 imm }
  | _ => Option.none

def VOps.fields (o : VOps) : List (Nat × Nat) :=
  [(25, o.imm.toNat), (1, bitCode o.sat), (2, o.rnd.code), (4, o.ty.code), (1, bitCode o.neg), (3, o.pred.val), (1, bitCode o.pub),
   (3, o.kc.toNat), (3, o.kb.toNat), (3, o.ka.toNat), (8, o.c.code), (8, o.b.code), (8, o.a.code), (8, o.d.code)]

def IOps.decode (look w : Nat) : Option IOps :=
  match cutFields widthsI w with
  | [imm, z, ty, neg, pred, a, d] =>
    if look != 0 || z != 0 then Option.none
    else (Ty.ofCode ty).map fun ty =>
      { d := .ofCode d, a := .ofCode a, pred := fin8 pred, neg := bitOf neg, ty, imm := BitVec.ofNat 48 imm }
  | _ => Option.none

def IOps.fields (o : IOps) : List (Nat × Nat) :=
  [(48, o.imm.toNat), (6, 0), (4, o.ty.code), (1, bitCode o.neg), (3, o.pred.val), (8, o.a.code), (8, o.d.code)]

def SOps.decode (look w : Nat) : Option SOps :=
  match cutFields widthsS w with
  | [imm, z, neg, pred, a, d] =>
    if look != 0 || z != 0 then Option.none
    else some { d := .ofCode d, a := .ofCode a, pred := fin8 pred, neg := bitOf neg, imm := BitVec.ofNat 48 imm }
  | _ => Option.none

def SOps.fields (o : SOps) : List (Nat × Nat) :=
  [(48, o.imm.toNat), (10, 0), (1, bitCode o.neg), (3, o.pred.val), (8, o.a.code), (8, o.d.code)]

/-- A scale of 4 to 7, and a space, size or class of 5 to 7, are no instruction (R86). -/
def MOps.decode (look w : Nat) : Option MOps :=
  match cutFields widthsM w with
  | [off, aop, neg, pred, scope, cls, size, space, scale, index, base, d] =>
    match Cls.ofCode cls, Size.ofCode size, Space.ofCode space with
    | some cls, some size, some space =>
      if scale < 4 then
        some { look := BitVec.ofNat 4 look, d := .ofCode d, base := .ofCode base, index := .ofCode index, scale := fin4 scale,
               space, size, cls, scope := .ofCode scope, pred := fin8 pred, neg := bitOf neg, aop := BitVec.ofNat 4 aop,
               off := BitVec.ofNat 32 off }
      else Option.none
    | _, _, _ => Option.none
  | _ => Option.none

def MOps.fields (o : MOps) : List (Nat × Nat) :=
  [(32, o.off.toNat), (4, o.aop.toNat), (1, bitCode o.neg), (3, o.pred.val), (2, o.scope.code), (3, o.cls.code), (3, o.size.code),
   (3, o.space.code), (3, o.scale.val), (8, o.index.code), (8, o.base.code), (8, o.d.code)]

def BOps.decode (look w : Nat) : Option BOps :=
  match cutFields widthsB w with
  | [disp, z, treg, neg, pred] =>
    if look != 0 || z != 0 then Option.none
    else some { pred := fin8 pred, neg := bitOf neg, treg := .ofCode treg, disp := BitVec.ofNat 48 disp }
  | _ => Option.none

def BOps.fields (o : BOps) : List (Nat × Nat) :=
  [(48, o.disp.toNat), (18, 0), (8, o.treg.code), (1, bitCode o.neg), (3, o.pred.val)]

def EOps.decode (look w : Nat) : Option EOps :=
  match cutFields widthsE w with
  | [ctl, neg, pred, cnt, e, c, b, a, d] =>
    some { look := BitVec.ofNat 4 look, d := BitVec.ofNat 8 d, a := BitVec.ofNat 8 a, b := BitVec.ofNat 8 b, c := BitVec.ofNat 8 c,
           e := BitVec.ofNat 8 e, cnt := fin16 cnt, pred := fin8 pred, neg := bitOf neg, ctl := BitVec.ofNat 30 ctl }
  | _ => Option.none

def EOps.fields (o : EOps) : List (Nat × Nat) :=
  [(30, o.ctl.toNat), (1, bitCode o.neg), (3, o.pred.val), (4, o.cnt.val), (8, o.e.toNat), (8, o.c.toNat), (8, o.b.toNat),
   (8, o.a.toNat), (8, o.d.toNat)]

/-- The minors of major `0x00` (R92). -/
def minor00 (look w : Nat) : Nat → Option Instr
  | 0 => (SOps.decode look w).map .nop
  | 1 => (SOps.decode look w).map .trap
  | 2 => (SOps.decode look w).map .tret
  | 3 => (SOps.decode look w).map .rsp
  | 4 => (SOps.decode look w).map .wsp
  | 5 => (SOps.decode look w).map .rgn
  | 6 => (SOps.decode look w).map .pause
  | _ => Option.none

/-- The minors of major `0x01` (R92). -/
def minor01 (look w : Nat) : Nat → Option Instr
  | 0 => (BOps.decode look w).map .bra
  | 1 => (BOps.decode look w).map .brx
  | 2 => (BOps.decode look w).map .call
  | 3 => (BOps.decode look w).map .callx
  | 4 => (BOps.decode look w).map .ret
  | 5 => (BOps.decode look w).map .exit
  | _ => Option.none

/-- The minors of major `0x02` (R92). -/
def minor02 (look w : Nat) : Nat → Option Instr
  | 0 => (VOps.decode look w).map .jenter
  | 1 => (VOps.decode look w).map .jquit
  | 2 => (VOps.decode look w).map .jwait
  | 3 => (VOps.decode look w).map .jget
  | 4 => (VOps.decode look w).map .jsave
  | 5 => (VOps.decode look w).map .jrest
  | _ => Option.none

/-- The minors of major `0x03` (R92). -/
def minor03 (look w : Nat) : Nat → Option Instr
  | 0 => (VOps.decode look w).map .vote
  | 1 => (VOps.decode look w).map .ballot
  | 2 => (VOps.decode look w).map .shfl
  | 3 => (VOps.decode look w).map .lanes
  | 4 => (VOps.decode look w).map .pub
  | 5 => (VOps.decode look w).map .chst
  | 6 => (VOps.decode look w).map .shape
  | _ => Option.none

/-- The minors of major `0x10` (R92). -/
def minor10 (look w : Nat) : Nat → Option Instr
  | 0 => (VOps.decode look w).map .add
  | 1 => (VOps.decode look w).map .sub
  | 2 => (VOps.decode look w).map .mul
  | 3 => (VOps.decode look w).map .mulhi
  | 4 => (VOps.decode look w).map .mad
  | 5 => (VOps.decode look w).map .div
  | 6 => (VOps.decode look w).map .rem
  | 7 => (VOps.decode look w).map .min
  | 8 => (VOps.decode look w).map .max
  | 9 => (VOps.decode look w).map .abs
  | 10 => (VOps.decode look w).map .neg
  | 11 => (VOps.decode look w).map .and
  | 12 => (VOps.decode look w).map .or
  | 13 => (VOps.decode look w).map .xor
  | 14 => (VOps.decode look w).map .andn
  | 15 => (VOps.decode look w).map .shl
  | 16 => (VOps.decode look w).map .shr
  | 17 => (VOps.decode look w).map .sar
  | 18 => (VOps.decode look w).map .rot
  | 19 => (VOps.decode look w).map .clz
  | 20 => (VOps.decode look w).map .popc
  | 21 => (VOps.decode look w).map .brev
  | 22 => (VOps.decode look w).map .bfe
  | 23 => (VOps.decode look w).map .bfi
  | 24 => (VOps.decode look w).map .cmp
  | 25 => (VOps.decode look w).map .sel
  | 26 => (VOps.decode look w).map .mov
  | 27 => (VOps.decode look w).map .lea
  | _ => Option.none

/-- The minors of major `0x11` (R92). -/
def minor11 (look w : Nat) : Nat → Option Instr
  | 0 => (IOps.decode look w).map .movi
  | _ => Option.none

/-- The minors of major `0x20` (R92). -/
def minor20 (look w : Nat) : Nat → Option Instr
  | 0 => (VOps.decode look w).map .fadd
  | 1 => (VOps.decode look w).map .fsub
  | 2 => (VOps.decode look w).map .fmul
  | 3 => (VOps.decode look w).map .fma
  | 4 => (VOps.decode look w).map .fmin
  | 5 => (VOps.decode look w).map .fmax
  | 6 => (VOps.decode look w).map .fdiv
  | 7 => (VOps.decode look w).map .fsqrt
  | 8 => (VOps.decode look w).map .frcp
  | 9 => (VOps.decode look w).map .frsq
  | 10 => (VOps.decode look w).map .fexp2
  | 11 => (VOps.decode look w).map .flog2
  | 12 => (VOps.decode look w).map .fsin
  | 13 => (VOps.decode look w).map .fcos
  | 14 => (VOps.decode look w).map .fround
  | 15 => (VOps.decode look w).map .fscale
  | 16 => (VOps.decode look w).map .fclass
  | 17 => (VOps.decode look w).map .fdot2
  | _ => Option.none

/-- The minors of major `0x30` (R92). -/
def minor30 (look w : Nat) : Nat → Option Instr
  | 0 => (VOps.decode look w).map fun o => if o.ty == .b32 then .cvtPlane o else .cvt o
  | 1 => (VOps.decode look w).map .pk
  | 2 => (VOps.decode look w).map .unpk
  | 3 => (VOps.decode look w).map .mxun
  | 4 => (VOps.decode look w).map .tern
  | _ => Option.none

/-- The minors of major `0x38` (R92). -/
def minor38 (look w : Nat) : Nat → Option Instr
  | 0 => (VOps.decode look w).map .dist
  | 1 => (VOps.decode look w).map .topk
  | 2 => (VOps.decode look w).map .topm
  | 3 => (VOps.decode look w).map .redadd
  | 4 => (VOps.decode look w).map .redmax
  | 5 => (VOps.decode look w).map .redmin
  | 6 => (VOps.decode look w).map .scan
  | _ => Option.none

/-- The minors of major `0x40` (R92). -/
def minor40 (look w : Nat) : Nat → Option Instr
  | 0 => (MOps.decode look w).map .ld
  | 1 => (MOps.decode look w).map .st
  | 2 => (MOps.decode look w).map .ldb
  | 3 => (MOps.decode look w).map .stb
  | 4 => (MOps.decode look w).map .prf
  | _ => Option.none

/-- The minors of major `0x41` (R92). -/
def minor41 (look w : Nat) : Nat → Option Instr
  | 0 => (MOps.decode look w).map .ctag
  | 1 => (MOps.decode look w).map .cins
  | 2 => (MOps.decode look w).map .cinv
  | _ => Option.none

/-- The minors of major `0x42` (R92). -/
def minor42 (look w : Nat) : Nat → Option Instr
  | 0 => (MOps.decode look w).map .halloc
  | 1 => (MOps.decode look w).map .hfree
  | _ => Option.none

/-- The minors of major `0x48` (R92). -/
def minor48 (look w : Nat) : Nat → Option Instr
  | 0 => (MOps.decode look w).map .atom
  | 1 => (MOps.decode look w).map .red
  | 2 => (MOps.decode look w).map .fence
  | 3 => (MOps.decode look w).map .ratom
  | 4 => (MOps.decode look w).map .rpoll
  | _ => Option.none

/-- The minors of major `0x50` (R92). -/
def minor50 (look w : Nat) : Nat → Option Instr
  | 0 => (EOps.decode look w).map .tcfg
  | 1 => (EOps.decode look w).map .tget
  | 2 => (EOps.decode look w).map .tset
  | 3 => (EOps.decode look w).map .trel
  | 4 => (EOps.decode look w).map .tld
  | 5 => (EOps.decode look w).map .tst
  | 6 => (EOps.decode look w).map .tidw
  | 7 => (EOps.decode look w).map .tidr
  | 8 => (EOps.decode look w).map .tidv
  | _ => Option.none

/-- The minors of major `0x58` (R92). -/
def minor58 (look w : Nat) : Nat → Option Instr
  | 0 => (EOps.decode look w).map .mma
  | 1 => (EOps.decode look w).map .mmaz
  | 2 => (EOps.decode look w).map .mbank
  | 3 => (EOps.decode look w).map .gate
  | 4 => (EOps.decode look w).map .gcfg
  | _ => Option.none

/-- The minors of major `0x60` (R92). -/
def minor60 (look w : Nat) : Nat → Option Instr
  | 0 => (EOps.decode look w).map .cpy
  | 1 => (EOps.decode look w).map .plane
  | 2 => (EOps.decode look w).map .ccget
  | 3 => (EOps.decode look w).map .ccwait
  | 4 => (EOps.decode look w).map .ccset
  | 5 => (EOps.decode look w).map .sexp
  | 6 => (EOps.decode look w).map .simp
  | 7 => (EOps.decode look w).map .srst
  | _ => Option.none

/-- The minors of major `0x68` (R92). -/
def minor68 (look w : Nat) : Nat → Option Instr
  | 0 => (EOps.decode look w).map .bar
  | 1 => (EOps.decode look w).map .barv
  | 2 => (EOps.decode look w).map .barw
  | 3 => (EOps.decode look w).map .barp
  | 4 => (EOps.decode look w).map .qcfg
  | 5 => (EOps.decode look w).map .qpush
  | 6 => (EOps.decode look w).map .qpop
  | _ => Option.none

/-- The minors of major `0x70` (R92). -/
def minor70 (look w : Nat) : Nat → Option Instr
  | 0 => (EOps.decode look w).map .ivtab
  | 1 => (EOps.decode look w).map .ivopen
  | 2 => (EOps.decode look w).map .ivgo
  | 3 => (EOps.decode look w).map .ivq
  | 4 => (EOps.decode look w).map .ivstat
  | 5 => (EOps.decode look w).map .ivwait
  | 6 => (EOps.decode look w).map .ivarg
  | 7 => (EOps.decode look w).map .ivclose
  | _ => Option.none

/-- The opcode map (R92), before the operand checks. -/
def rawDecode (w : Nat) : Option Instr :=
  let look := w / 2 ^ 84 % 16
  let minor := w / 2 ^ 78 % 64
  match w / 2 ^ 88 % 256 with
  | 0x00 => minor00 look w minor
  | 0x01 => minor01 look w minor
  | 0x02 => minor02 look w minor
  | 0x03 => minor03 look w minor
  | 0x10 => minor10 look w minor
  | 0x11 => minor11 look w minor
  | 0x20 => minor20 look w minor
  | 0x30 => minor30 look w minor
  | 0x38 => minor38 look w minor
  | 0x40 => minor40 look w minor
  | 0x41 => minor41 look w minor
  | 0x42 => minor42 look w minor
  | 0x48 => minor48 look w minor
  | 0x50 => minor50 look w minor
  | 0x58 => minor58 look w minor
  | 0x60 => minor60 look w minor
  | 0x68 => minor68 look w minor
  | 0x70 => minor70 look w minor
  | _ => Option.none

/-- What a slot holds: an instruction, or an encoding that raises a fault. -/
inductive Decoded where
  | instr (i : Instr)
  | bad (f : EncFault)
  deriving DecidableEq, Repr

/-- R94, R95: the instruction of a 96-bit slot, or the fault its encoding raises. -/
def decode96 (w : Nat) : Decoded :=
  match rawDecode w with
  | Option.none => .bad .illegalOp
  | some i =>
    match i.check with
    | some f => .bad f
    | Option.none => .instr i

/-- R149, formats A, K, M and J. -/
def QA.decode (w : Nat) : Option QA :=
  match cutFields [14, 4, 4, 4] w with
  | [z, rb, ra, rd] => if z == 0 then some { rd := fin16 rd, ra := fin16 ra, rb := fin16 rb } else Option.none
  | _ => Option.none

def QA.fields (o : QA) : List (Nat × Nat) := [(14, 0), (4, o.rb.val), (4, o.ra.val), (4, o.rd.val)]

def QK.decode (w : Nat) : Option QK :=
  match cutFields [18, 4, 4] w with
  | [imm, ra, rd] => some { rd := fin16 rd, ra := fin16 ra, imm := BitVec.ofNat 18 imm }
  | _ => Option.none

def QK.fields (o : QK) : List (Nat × Nat) := [(18, o.imm.toNat), (4, o.ra.val), (4, o.rd.val)]

def QM.decode (w : Nat) : Option QM :=
  match cutFields [13, 2, 3, 4, 4] w with
  | [off, size, win, ra, rd] => some { rd := fin16 rd, ra := fin16 ra, win := fin8 win, size := fin4 size, off := BitVec.ofNat 13 off }
  | _ => Option.none

def QM.fields (o : QM) : List (Nat × Nat) :=
  [(13, o.off.toNat), (2, o.size.val), (3, o.win.val), (4, o.ra.val), (4, o.rd.val)]

def QJ.decode (w : Nat) : Option QJ :=
  match cutFields [18, 4, 4] w with
  | [disp, rb, ra] => some { ra := fin16 ra, rb := fin16 rb, disp := BitVec.ofNat 18 disp }
  | _ => Option.none

def QJ.fields (o : QJ) : List (Nat × Nat) := [(18, o.disp.toNat), (4, o.rb.val), (4, o.ra.val)]

/-- R150: the opcodes. -/
def rawDecodeQ (w : Nat) : Option Instr :=
  match w / 2 ^ 26 % 64 with
  | 0x01 => (QK.decode w).map .qli
  | 0x02 => (QK.decode w).map .qlis
  | 0x03 => (QA.decode w).map .qadd
  | 0x04 => (QA.decode w).map .qsub
  | 0x05 => (QA.decode w).map .qand
  | 0x06 => (QA.decode w).map .qor
  | 0x07 => (QA.decode w).map .qxor
  | 0x08 => (QA.decode w).map .qshl
  | 0x09 => (QA.decode w).map .qshr
  | 0x0a => (QA.decode w).map .qmul
  | 0x0b => (QA.decode w).map .qminu
  | 0x0c => (QA.decode w).map .qmaxu
  | 0x10 => (QK.decode w).map .qaddi
  | 0x11 => (QK.decode w).map .qandi
  | 0x12 => (QK.decode w).map .qshli
  | 0x13 => (QK.decode w).map .qshri
  | 0x18 => (QM.decode w).map .qld
  | 0x19 => (QM.decode w).map .qst
  | 0x1a => (QM.decode w).map .qldp
  | 0x1b => (QM.decode w).map .qstp
  | 0x20 => (QJ.decode w).map .qbeq
  | 0x21 => (QJ.decode w).map .qbne
  | 0x22 => (QJ.decode w).map .qbltu
  | 0x23 => (QJ.decode w).map .qbgeu
  | 0x24 => (QJ.decode w).map .qjmp
  | 0x28 => (QK.decode w).map .qrep
  | 0x30 => (QA.decode w).map .qbucket
  | 0x31 => if w % 2 ^ 26 == 0 then some .qact else Option.none
  | 0x32 => (QM.decode w).map .qnvme
  | 0x38 => if w % 2 ^ 26 == 0 then some .qdone else Option.none
  | 0x39 => if w % 2 ^ 26 == 0 then some .qpass else Option.none
  | 0x3a => if w % 2 ^ 26 == 0 then some .qhold else Option.none
  | 0x3b => (QA.decode w).bind fun o => if o.rd == 0 && o.rb == 0 then some (.qfail o.ra) else Option.none
  | _ => Option.none

/-- The Busoron instruction of a 32-bit word. -/
def decodeQ (w : Nat) : Option Instr := (rawDecodeQ w).filter qUnused

/-- R167: `spawn`, in the custom-0 opcode of the application harts. -/
def decodeSpawn (w : Nat) : Option Instr :=
  match cutFields [7, 5, 3, 5, 5, 7] w with
  | [op, rd, f3, rs1, rs2, f7] =>
    if op == 0x0b && f3 == 1 && rs2 == 0 && f7 == 0 then some (.spawn (fin32 rd) (fin32 rs1)) else Option.none
  | _ => Option.none

/-- The opcode a Busoron or `spawn` word begins with tells the two apart: bits 31 to 26 are zero in `spawn` and in no Busoron word. -/
def decode32 (w : Nat) : Option Instr := if w / 2 ^ 26 % 64 == 0 then decodeSpawn w else decodeQ w

/-- The instruction whose bits are `w`, numbered as the opcode table numbers them: 96 bits a Lumlia slot, 32 a Busoron word or `spawn`. -/
def decodeTableWord (nbits w : Nat) : Option Instr :=
  if nbits == 96 then
    match decode96 w with
    | .instr i => some i
    | .bad _ => Option.none
  else if nbits == 32 then decode32 w
  else Option.none

/-- Major, minor and look with a format's fields below them (R76). -/
def word96 (major minor look : Nat) (fields : List (Nat × Nat)) : Nat :=
  packFields (fields ++ [(6, minor), (4, look), (8, major)])

/-- A Busoron opcode over its fields (R149). -/
def word32 (op : Nat) (fields : List (Nat × Nat)) : Nat := packFields (fields ++ [(6, op)])

/-- The word of an instruction, as a number, with its width in bits; a step of the device has none. -/
def encode : Instr → Option (Nat × Nat)
  | .nop o => some (96, word96 0x00 0 0 o.fields)
  | .trap o => some (96, word96 0x00 1 0 o.fields)
  | .tret o => some (96, word96 0x00 2 0 o.fields)
  | .rsp o => some (96, word96 0x00 3 0 o.fields)
  | .wsp o => some (96, word96 0x00 4 0 o.fields)
  | .rgn o => some (96, word96 0x00 5 0 o.fields)
  | .pause o => some (96, word96 0x00 6 0 o.fields)
  | .bra o => some (96, word96 0x01 0 0 o.fields)
  | .brx o => some (96, word96 0x01 1 0 o.fields)
  | .call o => some (96, word96 0x01 2 0 o.fields)
  | .callx o => some (96, word96 0x01 3 0 o.fields)
  | .ret o => some (96, word96 0x01 4 0 o.fields)
  | .exit o => some (96, word96 0x01 5 0 o.fields)
  | .jenter o => some (96, word96 0x02 0 o.look.toNat o.fields)
  | .jquit o => some (96, word96 0x02 1 o.look.toNat o.fields)
  | .jwait o => some (96, word96 0x02 2 o.look.toNat o.fields)
  | .jget o => some (96, word96 0x02 3 o.look.toNat o.fields)
  | .jsave o => some (96, word96 0x02 4 o.look.toNat o.fields)
  | .jrest o => some (96, word96 0x02 5 o.look.toNat o.fields)
  | .vote o => some (96, word96 0x03 0 o.look.toNat o.fields)
  | .ballot o => some (96, word96 0x03 1 o.look.toNat o.fields)
  | .shfl o => some (96, word96 0x03 2 o.look.toNat o.fields)
  | .lanes o => some (96, word96 0x03 3 o.look.toNat o.fields)
  | .pub o => some (96, word96 0x03 4 o.look.toNat o.fields)
  | .chst o => some (96, word96 0x03 5 o.look.toNat o.fields)
  | .shape o => some (96, word96 0x03 6 o.look.toNat o.fields)
  | .add o => some (96, word96 0x10 0 o.look.toNat o.fields)
  | .sub o => some (96, word96 0x10 1 o.look.toNat o.fields)
  | .mul o => some (96, word96 0x10 2 o.look.toNat o.fields)
  | .mulhi o => some (96, word96 0x10 3 o.look.toNat o.fields)
  | .mad o => some (96, word96 0x10 4 o.look.toNat o.fields)
  | .div o => some (96, word96 0x10 5 o.look.toNat o.fields)
  | .rem o => some (96, word96 0x10 6 o.look.toNat o.fields)
  | .min o => some (96, word96 0x10 7 o.look.toNat o.fields)
  | .max o => some (96, word96 0x10 8 o.look.toNat o.fields)
  | .abs o => some (96, word96 0x10 9 o.look.toNat o.fields)
  | .neg o => some (96, word96 0x10 10 o.look.toNat o.fields)
  | .and o => some (96, word96 0x10 11 o.look.toNat o.fields)
  | .or o => some (96, word96 0x10 12 o.look.toNat o.fields)
  | .xor o => some (96, word96 0x10 13 o.look.toNat o.fields)
  | .andn o => some (96, word96 0x10 14 o.look.toNat o.fields)
  | .shl o => some (96, word96 0x10 15 o.look.toNat o.fields)
  | .shr o => some (96, word96 0x10 16 o.look.toNat o.fields)
  | .sar o => some (96, word96 0x10 17 o.look.toNat o.fields)
  | .rot o => some (96, word96 0x10 18 o.look.toNat o.fields)
  | .clz o => some (96, word96 0x10 19 o.look.toNat o.fields)
  | .popc o => some (96, word96 0x10 20 o.look.toNat o.fields)
  | .brev o => some (96, word96 0x10 21 o.look.toNat o.fields)
  | .bfe o => some (96, word96 0x10 22 o.look.toNat o.fields)
  | .bfi o => some (96, word96 0x10 23 o.look.toNat o.fields)
  | .cmp o => some (96, word96 0x10 24 o.look.toNat o.fields)
  | .sel o => some (96, word96 0x10 25 o.look.toNat o.fields)
  | .mov o => some (96, word96 0x10 26 o.look.toNat o.fields)
  | .lea o => some (96, word96 0x10 27 o.look.toNat o.fields)
  | .movi o => some (96, word96 0x11 0 0 o.fields)
  | .fadd o => some (96, word96 0x20 0 o.look.toNat o.fields)
  | .fsub o => some (96, word96 0x20 1 o.look.toNat o.fields)
  | .fmul o => some (96, word96 0x20 2 o.look.toNat o.fields)
  | .fma o => some (96, word96 0x20 3 o.look.toNat o.fields)
  | .fmin o => some (96, word96 0x20 4 o.look.toNat o.fields)
  | .fmax o => some (96, word96 0x20 5 o.look.toNat o.fields)
  | .fdiv o => some (96, word96 0x20 6 o.look.toNat o.fields)
  | .fsqrt o => some (96, word96 0x20 7 o.look.toNat o.fields)
  | .frcp o => some (96, word96 0x20 8 o.look.toNat o.fields)
  | .frsq o => some (96, word96 0x20 9 o.look.toNat o.fields)
  | .fexp2 o => some (96, word96 0x20 10 o.look.toNat o.fields)
  | .flog2 o => some (96, word96 0x20 11 o.look.toNat o.fields)
  | .fsin o => some (96, word96 0x20 12 o.look.toNat o.fields)
  | .fcos o => some (96, word96 0x20 13 o.look.toNat o.fields)
  | .fround o => some (96, word96 0x20 14 o.look.toNat o.fields)
  | .fscale o => some (96, word96 0x20 15 o.look.toNat o.fields)
  | .fclass o => some (96, word96 0x20 16 o.look.toNat o.fields)
  | .fdot2 o => some (96, word96 0x20 17 o.look.toNat o.fields)
  | .cvt o => some (96, word96 0x30 0 o.look.toNat o.fields)
  | .cvtPlane o => some (96, word96 0x30 0 o.look.toNat o.fields)
  | .pk o => some (96, word96 0x30 1 o.look.toNat o.fields)
  | .unpk o => some (96, word96 0x30 2 o.look.toNat o.fields)
  | .mxun o => some (96, word96 0x30 3 o.look.toNat o.fields)
  | .tern o => some (96, word96 0x30 4 o.look.toNat o.fields)
  | .dist o => some (96, word96 0x38 0 o.look.toNat o.fields)
  | .topk o => some (96, word96 0x38 1 o.look.toNat o.fields)
  | .topm o => some (96, word96 0x38 2 o.look.toNat o.fields)
  | .redadd o => some (96, word96 0x38 3 o.look.toNat o.fields)
  | .redmax o => some (96, word96 0x38 4 o.look.toNat o.fields)
  | .redmin o => some (96, word96 0x38 5 o.look.toNat o.fields)
  | .scan o => some (96, word96 0x38 6 o.look.toNat o.fields)
  | .ld o => some (96, word96 0x40 0 o.look.toNat o.fields)
  | .st o => some (96, word96 0x40 1 o.look.toNat o.fields)
  | .ldb o => some (96, word96 0x40 2 o.look.toNat o.fields)
  | .stb o => some (96, word96 0x40 3 o.look.toNat o.fields)
  | .prf o => some (96, word96 0x40 4 o.look.toNat o.fields)
  | .ctag o => some (96, word96 0x41 0 o.look.toNat o.fields)
  | .cins o => some (96, word96 0x41 1 o.look.toNat o.fields)
  | .cinv o => some (96, word96 0x41 2 o.look.toNat o.fields)
  | .halloc o => some (96, word96 0x42 0 o.look.toNat o.fields)
  | .hfree o => some (96, word96 0x42 1 o.look.toNat o.fields)
  | .atom o => some (96, word96 0x48 0 o.look.toNat o.fields)
  | .red o => some (96, word96 0x48 1 o.look.toNat o.fields)
  | .fence o => some (96, word96 0x48 2 o.look.toNat o.fields)
  | .ratom o => some (96, word96 0x48 3 o.look.toNat o.fields)
  | .rpoll o => some (96, word96 0x48 4 o.look.toNat o.fields)
  | .tcfg o => some (96, word96 0x50 0 o.look.toNat o.fields)
  | .tget o => some (96, word96 0x50 1 o.look.toNat o.fields)
  | .tset o => some (96, word96 0x50 2 o.look.toNat o.fields)
  | .trel o => some (96, word96 0x50 3 o.look.toNat o.fields)
  | .tld o => some (96, word96 0x50 4 o.look.toNat o.fields)
  | .tst o => some (96, word96 0x50 5 o.look.toNat o.fields)
  | .tidw o => some (96, word96 0x50 6 o.look.toNat o.fields)
  | .tidr o => some (96, word96 0x50 7 o.look.toNat o.fields)
  | .tidv o => some (96, word96 0x50 8 o.look.toNat o.fields)
  | .mma o => some (96, word96 0x58 0 o.look.toNat o.fields)
  | .mmaz o => some (96, word96 0x58 1 o.look.toNat o.fields)
  | .mbank o => some (96, word96 0x58 2 o.look.toNat o.fields)
  | .gate o => some (96, word96 0x58 3 o.look.toNat o.fields)
  | .gcfg o => some (96, word96 0x58 4 o.look.toNat o.fields)
  | .cpy o => some (96, word96 0x60 0 o.look.toNat o.fields)
  | .plane o => some (96, word96 0x60 1 o.look.toNat o.fields)
  | .ccget o => some (96, word96 0x60 2 o.look.toNat o.fields)
  | .ccwait o => some (96, word96 0x60 3 o.look.toNat o.fields)
  | .ccset o => some (96, word96 0x60 4 o.look.toNat o.fields)
  | .sexp o => some (96, word96 0x60 5 o.look.toNat o.fields)
  | .simp o => some (96, word96 0x60 6 o.look.toNat o.fields)
  | .srst o => some (96, word96 0x60 7 o.look.toNat o.fields)
  | .bar o => some (96, word96 0x68 0 o.look.toNat o.fields)
  | .barv o => some (96, word96 0x68 1 o.look.toNat o.fields)
  | .barw o => some (96, word96 0x68 2 o.look.toNat o.fields)
  | .barp o => some (96, word96 0x68 3 o.look.toNat o.fields)
  | .qcfg o => some (96, word96 0x68 4 o.look.toNat o.fields)
  | .qpush o => some (96, word96 0x68 5 o.look.toNat o.fields)
  | .qpop o => some (96, word96 0x68 6 o.look.toNat o.fields)
  | .ivtab o => some (96, word96 0x70 0 o.look.toNat o.fields)
  | .ivopen o => some (96, word96 0x70 1 o.look.toNat o.fields)
  | .ivgo o => some (96, word96 0x70 2 o.look.toNat o.fields)
  | .ivq o => some (96, word96 0x70 3 o.look.toNat o.fields)
  | .ivstat o => some (96, word96 0x70 4 o.look.toNat o.fields)
  | .ivwait o => some (96, word96 0x70 5 o.look.toNat o.fields)
  | .ivarg o => some (96, word96 0x70 6 o.look.toNat o.fields)
  | .ivclose o => some (96, word96 0x70 7 o.look.toNat o.fields)
  | .qadd o => some (32, word32 0x03 o.fields)
  | .qsub o => some (32, word32 0x04 o.fields)
  | .qand o => some (32, word32 0x05 o.fields)
  | .qor o => some (32, word32 0x06 o.fields)
  | .qxor o => some (32, word32 0x07 o.fields)
  | .qshl o => some (32, word32 0x08 o.fields)
  | .qshr o => some (32, word32 0x09 o.fields)
  | .qmul o => some (32, word32 0x0a o.fields)
  | .qminu o => some (32, word32 0x0b o.fields)
  | .qmaxu o => some (32, word32 0x0c o.fields)
  | .qbucket o => some (32, word32 0x30 o.fields)
  | .qli o => some (32, word32 0x01 o.fields)
  | .qlis o => some (32, word32 0x02 o.fields)
  | .qaddi o => some (32, word32 0x10 o.fields)
  | .qandi o => some (32, word32 0x11 o.fields)
  | .qshli o => some (32, word32 0x12 o.fields)
  | .qshri o => some (32, word32 0x13 o.fields)
  | .qrep o => some (32, word32 0x28 o.fields)
  | .qld o => some (32, word32 0x18 o.fields)
  | .qst o => some (32, word32 0x19 o.fields)
  | .qldp o => some (32, word32 0x1a o.fields)
  | .qstp o => some (32, word32 0x1b o.fields)
  | .qnvme o => some (32, word32 0x32 o.fields)
  | .qbeq o => some (32, word32 0x20 o.fields)
  | .qbne o => some (32, word32 0x21 o.fields)
  | .qbltu o => some (32, word32 0x22 o.fields)
  | .qbgeu o => some (32, word32 0x23 o.fields)
  | .qjmp o => some (32, word32 0x24 o.fields)
  | .qact => some (32, word32 0x31 [(26, 0)])
  | .qdone => some (32, word32 0x38 [(26, 0)])
  | .qpass => some (32, word32 0x39 [(26, 0)])
  | .qhold => some (32, word32 0x3a [(26, 0)])
  | .qfail ra => some (32, word32 0x3b (QA.fields { rd := 0, ra := ra, rb := 0 }))
  | .spawn rd rs1 => some (32, packFields [(7, 0x0b), (5, rd.val), (3, 1), (5, rs1.val), (5, 0), (7, 0)])
  | .reset | .stackTrainingComplete _ | .autoRestore _ | .planeArrayIdle _ | .rampStep _ | .coreIdle _
  | .placementRateLimitEnd _ | .teamPlacement _ _ | .groupRetire _ _ | .lineRefetch _ _ | .longLatencyResult _ _
  | .standpipeRotation _ | .partitionHandover _ _ _ | .evictedGroupRestore _ _ | .duplicateCopy _ _ _ | .create _ _
  | .resume _ _ | .suspend _ _ | .kill _ _ | .killComplete _ | .checkpoint _ _ | .checkpointInterval _
  | .checkpointComplete _ | .sliceInstant _ | .saveComplete _ | .deadline _ | .sliceTableExchange _ _ | .timeSyncLost
  | .errqHeadPoll _ | .registerWrite _ _ _ | .enable _ _ | .disable _ _ | .restart _ _ | .drainComplete _
  | .doorbell _ | .queuePoll _ | .unitAssignment _ | .packetFetch _ | .nopPacket _ | .launch _ | .copy _
  | .copyComplete _ | .waitval _ | .waitvalRecheck _ | .writeval _ | .run _ | .program _ | .programRerun _
  | .pauseExpiry _ _ | .chainValueArrival _ _ | .ratomTimeout _ | .matrixOpComplete _ | .gateOpComplete _
  | .jobStart _ | .pumpSector _ | .streamJobComplete _ | .inval _ _ | .replayRetry _ _ | .replayFail _ _ | .pin _ _
  | .unpin _ _ | .faultRecordWrite _ | .placementHint _ _ | .stageFormed _ | .stageLaunchDone _ | .solveLaunchDone _
  | .estimateFormed _ | .eventLaunchDone _ | .dieLinkBeat _ _ | .fabricPortTraining _ _ | .flitWrite _ _
  | .flitReadRequest _ _ | .flitReadReply _ _ | .flitAtomicRequest _ _ | .flitAtomicReply _ _ | .flitContribution _ _
  | .flitResult _ _ | .flitExchangeToken _ _ | .flitTime _ _ | .flitControl _ _ | .collectiveTimeout _ _ | .bind _ _
  | .free _ _ | .exchange _ | .assign _ _ | .load _ | .portFirmwareStart | .fuse _ _ | .attest _ | .cert _
  | .fabcfgInboundLoad _ | .cxlCacheDown _ | .hostWrite _ _ | .cxlCacheUp | .peerRequestTimeout _ => Option.none

end Sys2Proof
end

