-- ==== Sys2Proof/Machine/Float.lean ====
section
/-! DEFINITION. Machine/Float: the number formats, one rounding, and the correctly rounded functions (R26 to R38, R225 to R230, R301). -/
namespace Sys2Proof.Machine

/-! ### Flags (R38, R101) -/

def fNV : Word := 1
def fDZ : Word := 2
def fOF : Word := 4
def fUF : Word := 8
def fNX : Word := 16
def fSAT : Word := 32
def fRC : Word := 64
def fAF : Word := 128

/-- R26: a format: exponent and mantissa bits, bias, and whether it has infinities (E4M3 has none, and one NaN code). -/
structure Fmt where
  eb : Nat
  mb : Nat
  bias : Nat
  inf : Bool
  deriving DecidableEq, Repr

def binary32 : Fmt := { eb := 8, mb := 23, bias := 127, inf := true }
def bf16 : Fmt := { eb := 8, mb := 7, bias := 127, inf := true }
def fp16 : Fmt := { eb := 5, mb := 10, bias := 15, inf := true }
def e4m3 : Fmt := { eb := 4, mb := 3, bias := 7, inf := false }
def e5m2 : Fmt := { eb := 5, mb := 2, bias := 15, inf := true }

namespace Fmt

/-- Bits of an element. -/
def size (f : Fmt) : Nat := 1 + f.eb + f.mb

/-- Code of the largest finite magnitude (R26). -/
def maxCode (f : Fmt) : Nat := if f.inf then (2 ^ f.eb - 1) * 2 ^ f.mb - 1 else 2 ^ (f.eb + f.mb) - 2

/-- Code of +infinity. -/
def infCode (f : Fmt) : Nat := (2 ^ f.eb - 1) * 2 ^ f.mb

/-- R28: the canonical NaN. -/
def nan (f : Fmt) : Nat := if f.inf then (2 ^ f.eb - 1) * 2 ^ f.mb + 2 ^ (f.mb - 1) else 2 ^ (f.eb + f.mb) - 1

def signBit (f : Fmt) (neg : Bool) : Nat := if neg then 2 ^ (f.eb + f.mb) else 0

end Fmt

/-- A floating-point datum: a NaN, signalling or quiet; an infinity; or the finite value ±m × 2^e. -/
inductive FVal where
  | nan (sig : Bool)
  | inf (neg : Bool)
  | fin (neg : Bool) (m : Nat) (e : Int)
  deriving DecidableEq, Repr

/-- R26: the datum of a code. E4M3's one NaN is quiet (DEDUCED, log 8). -/
def Fmt.decode (f : Fmt) (x : Nat) : FVal :=
  let neg := x / 2 ^ (f.eb + f.mb) % 2 == 1
  let ex := x / 2 ^ f.mb % 2 ^ f.eb
  let man := x % 2 ^ f.mb
  let e : Int := (ex : Int) - f.bias - f.mb
  if f.inf && ex == 2 ^ f.eb - 1 then
    if man == 0 then .inf neg else .nan (man < 2 ^ (f.mb - 1))
  else if !f.inf && ex == 2 ^ f.eb - 1 && man == 2 ^ f.mb - 1 then .nan false
  else if ex == 0 then .fin neg man (1 - (f.bias : Int) - f.mb)
  else .fin neg (2 ^ f.mb + man) e

/-- A result code with the flags it sets. -/
abbrev FRes := Nat × Word

/-- 2^k for an integer k ≥ 0, else 1. -/
def pow2 (k : Int) : Nat := 2 ^ k.toNat

/-- The integer nearest m × 2^(-shift) by a rounding mode, and whether it is exact. `sticky`: the exact value lies strictly between m and m + 1 (in units of 2^-shift). -/
def roundShift (rnd : Rnd) (neg : Bool) (m : Nat) (sticky : Bool) (shift : Int) : Nat × Bool :=
  if shift ≤ 0 then
    let n := m * pow2 (-shift)
    if !sticky then (n, true)
    else match rnd with
      | .rn | .rz => (n, false)
      | .rd => (if neg then n + 1 else n, false)
      | .ru => (if neg then n else n + 1, false)
  else
    let k := shift.toNat
    let n := m / 2 ^ k
    let r := m % 2 ^ k
    if r == 0 && !sticky then (n, true)
    else
      let half := 2 ^ (k - 1)
      let up := match rnd with
        | .rn => half < r || (r == half && (sticky || n % 2 == 1))
        | .rz => false
        | .rd => neg
        | .ru => !neg
      (if up then n + 1 else n, false)

/-- R33, R34, R38, R225: rounds ±m × 2^e (with a sticky part below its last place) once into a format. A finite result beyond the largest is that largest in every mode. -/
def Fmt.round (f : Fmt) (rnd : Rnd) (neg : Bool) (m : Nat) (e : Int) (sticky : Bool := false) : FRes :=
  if m == 0 && !sticky then (f.signBit neg, 0)
  else
    let p : Int := f.mb + 1
    let top : Int := (Nat.log2 m : Int) + e
    let emin : Int := 1 - (f.bias : Int)
    let free := top - (p - 1)
    let q := max free (emin - (p - 1))
    let (n, exact) := roundShift rnd neg m sticky (q - e)
    let (nu, _) := roundShift rnd neg m sticky (free - e)
    -- magnitude rounded as if the exponent range were unbounded
    let tiny := (Nat.log2 nu : Int) + free < emin
    -- code of the delivered magnitude
    let sub := n < 2 ^ f.mb
    let beyond := 2 ^ (f.mb + 1) ≤ n
    let ex : Int := q + (p - 1) + f.bias + (if beyond then 1 else 0)
    let man := (if beyond then n / 2 else n) - 2 ^ f.mb
    let mag : Int := if sub then (n : Int) else ex * (2 ^ f.mb : Nat) + man
    if (f.maxCode : Int) < mag then (f.signBit neg + f.maxCode, fOF ||| fSAT ||| fNX)
    else (f.signBit neg + mag.toNat, (if exact then 0 else fNX) ||| (if tiny && !exact then fUF else 0))

/-- R28: the canonical NaN, with NV when `nv`. -/
def Fmt.nanRes (f : Fmt) (nv : Bool) : FRes := (f.nan, if nv then fNV else 0)

def Fmt.infRes (f : Fmt) (neg : Bool) : FRes := (f.signBit neg + f.infCode, 0)

def FVal.isSig : FVal → Bool
  | .nan s => s
  | _ => false

def FVal.isNan : FVal → Bool
  | .nan _ => true
  | _ => false

def FVal.negate : FVal → FVal
  | .nan s => .nan s
  | .inf n => .inf (!n)
  | .fin n m e => .fin (!n) m e

/-- ±m × 2^e as an integer multiple of 2^d, d ≤ e. -/
def scaled (neg : Bool) (m : Nat) (e d : Int) : Int :=
  let x : Int := m * pow2 (e - d)
  if neg then -x else x

/-- A term of an exact sum. -/
abbrev Term := Bool × Nat × Int

/-- The sum of finite terms as an integer multiple of 2^d, with d. -/
def sumTerms (l : List Term) : Int × Int :=
  let d := l.foldl (fun d t => min d t.2.2) (match l with
    | [] => 0
    | t :: _ => t.2.2)
  (l.foldl (fun x t => x + scaled t.1 t.2.1 t.2.2 d) 0, d)

/-- R225: rounds the exact sum of finite terms once, with the sign rules of a zero sum. -/
def Fmt.sum (f : Fmt) (rnd : Rnd) (l : List Term) : FRes :=
  let (x, d) := sumTerms l
  if x == 0 then
    let allNeg := l.all (fun t => t.2.1 == 0 && t.1)
    let allPos := l.all (fun t => t.2.1 == 0 && !t.1)
    (f.signBit (allNeg || (!allPos && rnd == .rd)), 0)
  else f.round rnd (x < 0) x.natAbs d

/-- The product of two data: `none` when it is invalid (0 × ∞). -/
def FVal.mul : FVal → FVal → Option FVal
  | .nan s, .nan t => some (.nan (s || t))
  | .nan s, _ => some (.nan s)
  | _, .nan s => some (.nan s)
  | .inf a, .inf b => some (.inf (a != b))
  | .inf a, .fin b m _ => if m == 0 then none else some (.inf (a != b))
  | .fin a m _, .inf b => if m == 0 then none else some (.inf (a != b))
  | .fin a m e, .fin b n k => some (.fin (a != b) (m * n) (e + k))

/-- The finite terms and the infinities of a list of data. -/
def finTerms (l : List FVal) : List Term := l.filterMap (fun x => match x with
  | .fin n m e => some (n, m, e)
  | _ => none)
def infSigns (l : List FVal) : List Bool := l.filterMap (fun x => match x with
  | .inf n => some n
  | _ => none)

/-- R225, R230: rounds the exact sum of addends once; `bad`: some product among them was invalid; `sig`: some operand was a signalling NaN. -/
def Fmt.addAll (f : Fmt) (rnd : Rnd) (bad sig : Bool) (l : List FVal) : FRes :=
  let infs := infSigns l
  let clash := infs.contains true && infs.contains false
  if bad || sig || l.any FVal.isNan || clash then f.nanRes (bad || sig || clash)
  else match infs with
    | n :: _ => f.infRes n
    | [] => f.sum rnd (finTerms l)

def Fmt.add (f : Fmt) (rnd : Rnd) (a b : FVal) : FRes := f.addAll rnd false (a.isSig || b.isSig) [a, b]
def Fmt.sub (f : Fmt) (rnd : Rnd) (a b : FVal) : FRes := f.add rnd a b.negate

def Fmt.mul (f : Fmt) (rnd : Rnd) (a b : FVal) : FRes :=
  if a.isSig || b.isSig then f.nanRes true
  else match a.mul b with
    | none => f.nanRes true
    | some (.nan _) => f.nanRes false
    | some (.inf n) => f.infRes n
    | some (.fin n m e) => f.round rnd n m e

/-- R225: `fma`, one rounding. An invalid product sets NV whatever c is (DEDUCED, log 8). -/
def Fmt.fma (f : Fmt) (rnd : Rnd) (a b c : FVal) : FRes :=
  let sig := a.isSig || b.isSig || c.isSig
  match a.mul b with
  | none => f.nanRes true
  | some p => f.addAll rnd false sig [p, c]

/-- R230. -/
def Fmt.dot2 (f : Fmt) (rnd : Rnd) (a0 b0 a1 b1 c : FVal) : FRes :=
  let sig := a0.isSig || b0.isSig || a1.isSig || b1.isSig || c.isSig
  match a0.mul b0, a1.mul b1 with
  | some p, some q => f.addAll rnd false sig [p, q, c]
  | _, _ => f.nanRes true

/-- The order of data that are no NaN; −0 below +0 (R226). -/
def FVal.cmp (a b : FVal) : Ordering :=
  let key : FVal → Int × Term := fun x => match x with
    | .inf true => (-1, (false, 0, 0))
    | .inf false => (1, (false, 0, 0))
    | .nan _ => (0, (false, 0, 0))
    | .fin n m e => (0, (n, m, e))
  let (ka, na, ma, ea) := key a
  let (kb, nb, mb, eb) := key b
  if ka != kb then compare ka kb
  else
    let d := min ea eb
    compare (scaled na ma ea d) (scaled nb mb eb d)

def FVal.isZeroNeg : FVal → Bool
  | .fin true 0 _ => true
  | _ => false

/-- R226: the operand `fmin` (`small`) or `fmax` returns: 0 for a, 1 for b, none for the canonical NaN. -/
def pickMin (small : Bool) (a b : FVal) : Option Nat :=
  match a.isNan, b.isNan with
  | true, true => none
  | true, false => some 1
  | false, true => some 0
  | false, false =>
    let less := match a.cmp b with
      | .lt => true
      | .gt => false
      | .eq => a.isZeroNeg && !b.isZeroNeg
    let greater := match a.cmp b with
      | .gt => true
      | .lt => false
      | .eq => b.isZeroNeg && !a.isZeroNeg
    if small then (if greater then some 1 else some 0) else (if less then some 1 else some 0)

def Fmt.minmax (f : Fmt) (small : Bool) (x y : Nat) : FRes :=
  let a := f.decode x
  let b := f.decode y
  let flags := if a.isSig || b.isSig then fNV else 0
  match pickMin small a b with
  | none => (f.nan, flags)
  | some 0 => (x, flags)
  | some _ => (y, flags)

/-! ### Division and roots (R227) -/

/-- The largest r below 2^bits with r^k ≤ n. -/
def rootBits (k n : Nat) : Nat → Nat → Nat
  | 0, r => r
  | i + 1, r => rootBits k n i (if (r + 2 ^ i) ^ k ≤ n then r + 2 ^ i else r)

/-- floor of the k-th root. -/
def iroot (k n : Nat) : Nat := rootBits k n (Nat.log2 n / k + 1) 0

/-- m × 2^e over n × 2^k, both nonzero, rounded once. -/
def Fmt.quot (f : Fmt) (rnd : Rnd) (neg : Bool) (m : Nat) (e : Int) (n : Nat) (k : Int) : FRes :=
  let x := m * 2 ^ 64
  f.round rnd neg (x / n) (e - k - 64) (x % n != 0)

def Fmt.div (f : Fmt) (rnd : Rnd) (a b : FVal) : FRes :=
  if a.isSig || b.isSig then f.nanRes true
  else match a, b with
    | .nan _, _ => f.nanRes false
    | _, .nan _ => f.nanRes false
    | .inf _, .inf _ => f.nanRes true
    | .inf x, .fin y _ _ => f.infRes (x != y)
    | .fin x _ _, .inf y => (f.signBit (x != y), 0)
    | .fin x m e, .fin y n k =>
      if n == 0 then
        if m == 0 then f.nanRes true else ((f.infRes (x != y)).1, fDZ)
      else if m == 0 then (f.signBit (x != y), 0)
      else f.quot rnd (x != y) m e n k

/-- √(m × 2^e), m nonzero, rounded once. -/
def Fmt.root (f : Fmt) (rnd : Rnd) (m : Nat) (e : Int) : FRes :=
  let (m, e) := if e % 2 == 0 then (m, e) else (2 * m, e - 1)
  let x := m * 2 ^ 128
  let r := iroot 2 x
  f.round rnd false r (e / 2 - 64) (r * r != x)

def Fmt.sqrt (f : Fmt) (rnd : Rnd) : FVal → FRes
  | .nan s => f.nanRes s
  | .inf false => f.infRes false
  | .inf true => f.nanRes true
  | .fin n m e => if m == 0 then (f.signBit n, 0) else if n then f.nanRes true else f.root rnd m e

def Fmt.recip (f : Fmt) (rnd : Rnd) : FVal → FRes
  | .nan s => f.nanRes s
  | .inf n => (f.signBit n, 0)
  | .fin n m e => if m == 0 then ((f.infRes n).1, fDZ) else f.quot rnd n 1 0 m e

/-- 1/√(m × 2^e), rounded once. -/
def Fmt.rsqrt (f : Fmt) (rnd : Rnd) : FVal → FRes
  | .nan s => f.nanRes s
  | .inf false => (0, 0)
  | .inf true => f.nanRes true
  | .fin n m e =>
    if m == 0 then ((f.infRes n).1, fDZ)
    else if n then f.nanRes true
    else
      let (m, e) := if e % 2 == 0 then (m, e) else (2 * m, e - 1)
      let r := iroot 2 (2 ^ 160 / m)
      f.round rnd false r (-(e / 2) - 80) (r * r * m != 2 ^ 160)

/-! ### Fixed-point series, with bounds -/

/-- Σ of 2^w / (x^(2k+1) (2k+1)) with alternating or equal signs, `t` being 2^w / x^(2k+1): lower sums of positive and of negative terms. -/
def atanTerms (x2 : Nat) : Nat → Nat → Nat → Nat × Nat
  | 0, _, _ => (0, 0)
  | n + 1, t, k =>
    let (p, q) := atanTerms x2 n (t / x2) (k + 1)
    (t / (2 * k + 1) + q, p)

/-- atan(1/x) × 2^w, within 2^9. -/
def atanInv (w x : Nat) : Nat :=
  let (p, q) := atanTerms (x * x) (w / 4 + 2) (2 ^ w / x) 0
  p - q

/-- π × 2^w by Machin's formula, within 2^14. -/
def piFix (w : Nat) : Nat := 16 * atanInv w 5 - 4 * atanInv w 239

/-- Σ z^(2k+1)/(2k+1) × 2^w for z = num/den: atanh. -/
def atanhTerms (w z2 : Nat) : Nat → Nat → Nat → Nat
  | 0, _, _ => 0
  | n + 1, t, k => t / (2 * k + 1) + atanhTerms w z2 n (t * z2 / 2 ^ w) (k + 1)

/-- atanh(z) × 2^w for z × 2^w ≤ 2^w / 3, within 2^9. -/
def atanhFix (w z : Nat) : Nat := atanhTerms w (z * z / 2 ^ w) (w / 3 + 4) z 0

/-- ln 2 × 2^w = 2 atanh(1/3), within 2^10. -/
def ln2Fix (w : Nat) : Nat := 2 * atanhFix w (2 ^ w / 3)

/-- Σ t^k/k! × 2^w. -/
def expTerms (w t : Nat) : Nat → Nat → Nat → Nat
  | 0, _, _ => 0
  | n + 1, term, k => term + expTerms w t n (term * t / 2 ^ w / (k + 1)) (k + 1)

/-- e^t × 2^w for 0 ≤ t < 2^w, within 2^10. -/
def expFix (w t : Nat) : Nat := expTerms w t (w / 4 + 16) (2 ^ w) 0

/-- Alternating series of sin (from `term` = t) or cos (from 1): lower sums of positive and negative terms. -/
def trigTerms (w t2 : Nat) : Nat → Nat → Nat → Nat × Nat
  | 0, _, _ => (0, 0)
  | n + 1, term, k =>
    let (p, q) := trigTerms w t2 n (term * t2 / 2 ^ w / ((k + 1) * (k + 2))) (k + 2)
    (term + q, p)

def sinFix (w t : Nat) : Nat :=
  let (p, q) := trigTerms w (t * t / 2 ^ w) (w / 8 + 16) t 1
  p - q

/-- How far a series may be off, in units of 2^-w. -/
def slack : Nat := 2 ^ 40

/-- Rounds a positive value known to lie strictly within (lo, hi) × 2^e, if both ends round alike. -/
def Fmt.roundIn (f : Fmt) (rnd : Rnd) (neg : Bool) (lo hi : Nat) (e : Int) : Option FRes :=
  let a := f.round rnd neg lo e true
  let b := f.round rnd neg (hi - 1) e true
  if a == b && 0 < lo then some a else none

/-- Tries wider and wider fixed points until the ends round alike; `g w` is the value × 2^w within `slack`, with the exponent that scales it. -/
def Fmt.ziv (f : Fmt) (rnd : Rnd) (neg : Bool) (g : Nat → Nat × Int) : Nat → Nat → FRes
  | 0, w => let (x, e) := g w; f.round rnd neg x e true
  | n + 1, w =>
    let (x, e) := g w
    match f.roundIn rnd neg (x - slack) (x + slack) e with
    | some r => r
    | none => f.ziv rnd neg g n (2 * w)

/-- The least fixed point, in bits: it resolves the smallest subnormal with 64 bits to spare. -/
def zivBits : Nat := 256
def zivTries : Nat := 4

/-- The floor of ±m × 2^e, and the fraction above it as a multiple of 2^-w (exact when w ≥ −e). -/
def splitFloor (neg : Bool) (m : Nat) (e : Int) (w : Nat) : Int × Nat :=
  let x : Int := (scaled neg m (e + w) 0)
  if 0 ≤ e + w then (x / (2 ^ w : Nat), (x % (2 ^ w : Nat)).toNat)
  else (if neg then -1 else 0, 0)

def clampInt (lo hi x : Int) : Int := if x < lo then lo else if hi < x then hi else x

/-- R228: 2^a. -/
def Fmt.exp2 (f : Fmt) (rnd : Rnd) : FVal → FRes
  | .nan s => f.nanRes s
  | .inf n => if n then (0, 0) else f.infRes false
  | .fin neg m e =>
    let (n, frac) := splitFloor neg m (min e 64) zivBits
    let n := clampInt (-400) 400 n
    if frac == 0 then f.round rnd false 1 n
    else f.ziv rnd false (fun w => (expFix w (frac * 2 ^ (w - zivBits) * ln2Fix w / 2 ^ w), n - w)) zivTries zivBits

/-- log2 of m ≥ 1 × 2^e as (negative, value × 2^w), the fraction by 2 atanh((y−1)/(y+1)) / ln 2. -/
def log2Fix (m : Nat) (e : Int) (w : Nat) : Bool × Nat :=
  let k := Nat.log2 m
  let num := (m - 2 ^ k) * 2 ^ w
  let z := num / (m + 2 ^ k)
  let frac : Int := 2 * atanhFix w z * 2 ^ w / ln2Fix w
  let x : Int := (e + k) * (2 ^ w : Nat) + frac
  (x < 0, x.natAbs)

/-- R228: log2 a. -/
def Fmt.log2 (f : Fmt) (rnd : Rnd) : FVal → FRes
  | .nan s => f.nanRes s
  | .inf n => if n then f.nanRes true else f.infRes false
  | .fin neg m e =>
    if m == 0 then ((f.infRes true).1, fDZ)
    else if neg then f.nanRes true
    else
      let k := Nat.log2 m
      if m == 2 ^ k then
        let x : Int := e + k
        f.round rnd (x < 0) x.natAbs 0
      else
        f.ziv rnd (log2Fix m e zivBits).1 (fun w => ((log2Fix m e w).2, -(w : Int))) zivTries zivBits

/-- sin(π r) for r = x × 2^-w in [0, 1/2], × 2^w. -/
def sinPiFix (w x : Nat) : Nat := sinFix w (x * piFix w / 2 ^ w)

/-- R228: sin πa. The reduced argument is exact: a = n + r with 0 ≤ r < 1 as a multiple of 2^-w. -/
def Fmt.sinPi (f : Fmt) (rnd : Rnd) : FVal → FRes
  | .nan s => f.nanRes s
  | .inf _ => f.nanRes true
  | .fin neg m e =>
    if m == 0 then (f.signBit neg, 0)
    else
      let (n, r) := splitFloor false m (min e 64) zivBits
      if r == 0 then (f.signBit neg, 0)
      else
        let odd := n % 2 == 1
        let half := 2 ^ (zivBits - 1)
        let x := if half < r then 2 * half - r else r
        if x == half then f.round rnd (neg != odd) 1 0
        else f.ziv rnd (neg != odd) (fun w => (sinPiFix w (x * 2 ^ (w - zivBits)), -(w : Int))) zivTries zivBits

/-- R228: cos πa = sin π(a + 1/2). -/
def Fmt.cosPi (f : Fmt) (rnd : Rnd) : FVal → FRes
  | .nan s => f.nanRes s
  | .inf _ => f.nanRes true
  | .fin _ m e =>
    let (n, r) := splitFloor false m (min e 64) zivBits
    let half := 2 ^ (zivBits - 1)
    let odd := n % 2 == 1
    if r == 0 then f.round rnd odd 1 0
    else if r == half then (0, 0)
    else
      let neg := odd != (half < r)
      let x := if r < half then half - r else r - half
      f.ziv rnd neg (fun w => (sinPiFix w (x * 2 ^ (w - zivBits)), -(w : Int))) zivTries zivBits

/-! ### The gate pipeline's functions (R301), in binary32 with rn -/

/-- e^x for x = ±m × 2^e nonzero, as a value × 2^w and the exponent that scales it; `x` clamped to ±256, beyond which every rounding is the same. -/
def expReal (neg : Bool) (m : Nat) (e : Int) (w : Nat) : Nat × Int :=
  let big := 8 < (Nat.log2 m : Int) + e
  let (n, frac) := if big then (if neg then (-256, 0) else (256, 0)) else splitFloor neg m e w
  let ln2 := ln2Fix (w + 16)
  let x : Int := (n * (2 ^ w : Nat) + frac) * (2 ^ 16 : Nat)
  let k := x / ln2
  let r := (x - k * ln2).toNat / 2 ^ 16
  (expFix w r, k)

/-- e^-|x| × 2^w. -/
def expNeg (m : Nat) (e : Int) (w : Nat) : Nat :=
  let (y, k) := expReal true m e w
  y / pow2 (-k)

def gateExp : FVal → FRes
  | .nan s => binary32.nanRes s
  | .inf n => if n then (0, 0) else binary32.infRes false
  | .fin neg m e =>
    if m == 0 then binary32.round .rn false 1 0
    else binary32.ziv .rn false (fun w => let (y, k) := expReal neg m e w; (y, k - w)) zivTries zivBits

/-- 1/(1 + e^-x): by E/(1 + E) with E = e^-|x|, or 1/(1 + E). -/
def sigFix (neg : Bool) (m : Nat) (e : Int) (w : Nat) : Nat :=
  let y := expNeg m e w
  if neg then y * 2 ^ w / (2 ^ w + y) else 2 ^ (2 * w) / (2 ^ w + y)

def gateSig : FVal → FRes
  | .nan s => binary32.nanRes s
  | .inf n => if n then (0, 0) else binary32.round .rn false 1 0
  | .fin neg m e =>
    if m == 0 then binary32.round .rn false 1 (-1)
    else binary32.ziv .rn false (fun w => (sigFix neg m e w, -(w : Int))) zivTries zivBits

/-- Below 2^-31, tanh x lies just below x in magnitude. -/
def gateTanh : FVal → FRes
  | .nan s => binary32.nanRes s
  | .inf n => binary32.round .rn n 1 0
  | .fin neg m e =>
    if m == 0 then (binary32.signBit neg, 0)
    else if (Nat.log2 m : Int) + e < -32 then binary32.round .rn neg (m * 2 ^ 40 - 1) (e - 40) true
    else
      binary32.ziv .rn neg (fun w =>
        let y := expNeg m (e + 1) w
        ((2 ^ w - y) * 2 ^ w / (2 ^ w + y), -(w : Int))) zivTries zivBits

/-- Below 2^-70, x/(1 + e^-x) lies just beside x/2. -/
def gateSilu : FVal → FRes
  | .nan s => binary32.nanRes s
  | .inf n => if n then (binary32.signBit true, 0) else binary32.infRes false
  | .fin neg m e =>
    if m == 0 then (binary32.signBit neg, 0)
    else if (Nat.log2 m : Int) + e < -70 then
      if neg then binary32.round .rn true (m * 2 ^ 40 - 1) (e - 41) true
      else binary32.round .rn false (m * 2 ^ 40) (e - 41) true
    else
      binary32.ziv .rn neg (fun w => (sigFix neg m e w * m, e - w)) zivTries zivBits

/-! ### Other operations on one datum -/

/-- The integer nearest ±m × 2^e by a mode, and whether it is exact. -/
def toInteger (rnd : Rnd) (neg : Bool) (m : Nat) (e : Int) : Int × Bool :=
  let (n, exact) := roundShift rnd neg m false (-e)
  (if neg then -(n : Int) else n, exact)

/-- R229: `fround`, in the format of the operand. -/
def Fmt.integral (f : Fmt) (rnd : Rnd) (x : Nat) : FRes :=
  match f.decode x with
  | .nan s => f.nanRes s
  | .inf _ => (x, 0)
  | .fin neg m e =>
    if 0 ≤ e || m == 0 then (x, 0)
    else
      let (n, _) := roundShift rnd neg m false (-e)
      ((f.round .rn neg n 0).1, 0)

/-- R229: a × 2^n; n beyond ±1,000 rounds as ±1,000 does. -/
def Fmt.scale (f : Fmt) (rnd : Rnd) (x : FVal) (n : Int) : FRes :=
  match x with
  | .nan s => f.nanRes s
  | .inf neg => f.infRes neg
  | .fin neg m e => f.round rnd neg m (e + clampInt (-1000) 1000 n)

/-- R229: the class mask. -/
def classMask (x : FVal) : Word :=
  let bit : Nat := match x with
    | .nan s => if s then 0 else 1
    | .inf n => if n then 2 else 9
    | .fin n m _ =>
      if m == 0 then (if n then 5 else 6)
      else if m < 2 ^ 23 then (if n then 4 else 7)
      else (if n then 3 else 8)
  1#32 <<< bit

/-- R233: float to float. An infinity to E4M3 gives ±448 and SAT (R35). -/
def convertFloat (src dst : Fmt) (rnd : Rnd) (x : Nat) : FRes :=
  match src.decode x with
  | .nan s => dst.nanRes s
  | .inf n => if dst.inf then dst.infRes n else (dst.signBit n + dst.maxCode, fSAT)
  | .fin n m e => dst.round rnd n m e

/-- R36, R233: float to an integer of `w` bits. -/
def floatToInt (src : Fmt) (rnd : Rnd) (w : Nat) (sgn : Bool) (x : Nat) : FRes :=
  let lo : Int := if sgn then -(2 ^ (w - 1) : Nat) else 0
  let hi : Int := if sgn then (2 ^ (w - 1) : Nat) - 1 else (2 ^ w : Nat) - 1
  let wrap : Int → Nat := fun y => (y % (2 ^ w : Nat)).toNat
  match src.decode x with
  | .nan _ => (0, fNV)
  | .inf n => (wrap (if n then lo else hi), fSAT)
  | .fin n m e =>
    let (y, exact) := toInteger rnd n m e
    let z := clampInt lo hi y
    (wrap z, (if z != y then fSAT else 0) ||| (if exact then 0 else fNX))

/-- R233: an integer to float. -/
def intToFloat (dst : Fmt) (rnd : Rnd) (x : Int) : FRes := dst.round rnd (x < 0) x.natAbs 0

/-- R31: the value of an E2M1 code as ±m × 2^-1. -/
def e2m1 (c : Nat) : Bool × Nat :=
  let ex := c / 2 % 4
  let man := c % 2
  (c / 8 % 2 == 1, if ex == 0 then man else (2 + man) * 2 ^ (ex - 1))

end Sys2Proof.Machine
end

