-- ==== Sys2Proof/Machine/HartState.lean ====
section
/-! DEFINITION. Machine/HartState: the registers of a RISC-V core, of the application cluster (R19, R450) or of a port (R434). -/
namespace Sys2Proof.Machine

/-- A RISC-V core: its pc and integer registers, its floating-point and vector registers, its control registers by number, the privilege level (3, 1, 0), whether it is virtualised, the byte address of a reservation, and the word its fetch has brought, none where it has brought none. A core of 32 bits uses the low halves. PRESUMED (log 54): the manual names the RISC-V extensions and leaves their registers to that standard; a vector register has 16 bytes. -/
structure Hart where
  pc : Dword := 0
  x : List Dword := List.replicate 32 0
  f : List Dword := List.replicate 32 0
  v : List (List Byte) := List.replicate 32 (List.replicate 16 0)
  csrs : List (Nat × Dword) := []
  priv : Nat := 3
  virt : Bool := false
  reserved : Option Nat := none
  word : Option Word := none
  deriving DecidableEq, Repr, Inhabited

end Sys2Proof.Machine
end

