-- ==== Sys2Proof/Machine/Turn.lean ====
section
/-! DEFINITION. Machine/Turn: what moves next. The manual leaves the order of the agents' moves open within its bounds, so the schedule is data (log 1). -/
namespace Sys2Proof.Machine

/-- One move of the machine or its environment. DESIGN CHOICE (log 1): the set of moves; the manual's own steps are the rows of the opcode table. -/
inductive Turn where
  /-- The issue selector of a core issues one instruction (R174). -/
  | issue (core : Nat)
  /-- The same, taking a PAIR bit of the line (R91). -/
  | issuePair (core : Nat)
  /-- An interpreter unit executes one Busoron instruction (R147). -/
  | interp (unit : Nat)
  /-- An application hart executes the word its fetch has brought. -/
  | hart (h : Nat)
  /-- A port processor executes the word at its pc (R434). -/
  | portCore (p : Nat)
  /-- A step of the device or of its environment. -/
  | event (i : Instr)
  /-- `n` clk pass (R4). -/
  | pass (n : Nat)
  /-- A main-file word of a group's register no longer fits its parity (R114). -/
  | upset (core slot reg word : Nat)
  /-- A register table of a group takes a double-bit error (R114). -/
  | upsetTable (core slot reg : Nat)
  /-- A word of a group's standpipe entry no longer fits its parity (R114). -/
  | upsetStaged (core slot reg word : Nat)
  /-- A register-table word of a group takes a single-bit error, corrected at once (R114). -/
  | correctTable (core slot reg : Nat)
  /-- A shadow lane goes wrong: at the next shadowed issue of this primary lane it computes `value` (R190). -/
  | upsetShadow (core slot lane : Nat) (value : Dword)
  /-- The copy of the line a group fetches next arrives with a parity mismatch and is discarded (R73). -/
  | upsetLine (core slot : Nat)
  /-- A line of memory takes an uncorrectable error (R119, source 7), or the error goes. -/
  | memoryError (line : Nat) (bad : Bool)
  /-- The home slices fill `n` lines of a page for a quadrant (R381); which accesses fill lines the manual does not say (log 22). -/
  | lineFill (ctx page quadrant n : Nat)
  /-- Software on the host sets up a BAR of one of the device's functions, that maps device memory (R472). -/
  | mapBar (base len pa : Nat)
  /-- The atomic engine of a die performs the first request of its queue (R433). -/
  | atomicEngine (die : Nat)
  /-- The host performs an AtomicOp on device memory by PCIe (R446): `op` 0 FetchAdd, 1 Swap, 2 CAS, with its operands. -/
  | hostAtomic (pa op size : Nat) (v c : Dword)
  /-- The host link trains, or its CXL.io and CXL.mem change (R448). -/
  | hostLink (io mem : Bool) (width : Nat)
  /-- A group drops its copy of a fetch line (R74). -/
  | dropLine (core slot : Nat)
  /-- A cached translation is dropped (R378). -/
  | dropLeaf (ctx page : Nat)
  /-- An application hart's fetch brings a word (log 54). -/
  | fetchHart (h : Nat) (word : Word)
  /-- What instructions outside the model's part of RISC-V leave in an application hart, or in a port processor (log 54). -/
  | setHart (h : Nat) (x : Hart)
  | setPortCore (p : Nat) (x : Hart)
  deriving DecidableEq, Repr, Inhabited

end Sys2Proof.Machine
end

