-- ==== Sys2Proof/Config.lean ====
section
/-! DEFINITION. Config: what the manual leaves open. Each is a constant without a body, so that nothing can be proved of its value. -/
namespace Sys2Proof.Config

/-- The schedule where State names no move (log 1): the move at a count of steps. -/
opaque turn : Nat → Machine.Turn

/-- A choice the manual leaves to the device, where State names none (log 2). -/
opaque draw : Nat → Nat

/-- A 32-bit value the manual leaves undefined. -/
opaque freeWord : Nat → Word

/-- A byte the manual leaves undefined. -/
opaque freeByte : Nat → Byte

/-- SHAKE256 of a byte string, 64 bytes (R132, R451). The manual names the function and does not define it. -/
opaque shake256 : List Byte → List Byte

/-- An Ed448 signature by the device key (R132, R453). -/
opaque sign : List Byte → List Byte

/-- Whether an Ed448 signature of a text verifies under a public key (R451). -/
opaque verify : List Byte → List Byte → List Byte → Bool

/-- The Caerras key in the boot ROM (R451). -/
opaque caerrasKey : List Byte

/-- The digest of the module's serial identity, 64 bytes (R453, R454). -/
opaque serialDigest : List Byte

/-- The public half of the device identity key, 57 bytes (R454). -/
opaque identityKey : List Byte

/-- The instant of certification, 6 bytes (R454). -/
opaque certInstant : List Byte

/-- Caerras' signature of the device's certificate, 114 bytes (R454). -/
opaque certSignature : List Byte

end Sys2Proof.Config
end

