-- ==== Sys2Proof/Machine/GroupState.lean ====
section
/-! DEFINITION. Machine/GroupState: the state of a group, its team, its launch and its core (R96 to R115, R157 to R196). -/
namespace Sys2Proof.Machine

/-- A vector register with its shape tag (R102). -/
inductive VReg where
  | u (x : Word)
  | a (base stride : Word)
  | g (lanes : List Word)
  deriving DecidableEq, Repr, Inhabited

/-- `lsp` with its tag, U or G (R96, R99). -/
inductive LReg where
  | u (x : Dword)
  | g (lanes : List Dword)
  deriving DecidableEq, Repr, Inhabited

/-- Lane states (R169). -/
inductive LaneState where
  | run | wait | chainwait | parked | done | off
  deriving DecidableEq, Repr, Inhabited

/-- A rejoin set (R175). -/
structure JSet where
  members : Mask := 0
  arrived : Mask := 0
  entry : Nat := 0
  deriving DecidableEq, Repr, Inhabited

/-- A long-latency result that is not yet in its register (R90): the register's value with the result in it, what each lane's window still has to run, and whether the result has arrived. `seq` is one for all the registers of one instruction, `flags` are merged when the result arrives (R40), and `missing` names lanes whose value a peer has still to send (R432). -/
structure Pend where
  seq : Nat
  scalar : Bool
  reg : Nat
  vec : VReg
  sca : Dword
  part : Mask
  left : List Nat
  arrived : Bool
  flags : Word := 0
  missing : Mask := 0
  deriving DecidableEq, Repr, Inhabited

/-- The fetch line a group holds (R69, R73). -/
structure Line where
  addr : Nat
  bytes : List Byte
  deriving DecidableEq, Repr, Inhabited

/-- What trap entry saved, and the handler's progress (R192 to R195): `tret` names its lanes that have reached `tret`, `replayed` parked lanes outside it whose fault was replayed, `passed` lanes outside it whose wait at a `barw` has ended. -/
structure Handler where
  lanes : Mask
  cause : Nat
  states : List LaneState
  lpcs : List Dword
  sets : List JSet
  tret : Mask := 0
  replayed : Mask := 0
  passed : Mask := 0
  deriving DecidableEq, Repr, Inhabited

/-- The program-visible registers of a group (R96, R101). -/
structure Regs where
  v : List VReg
  s : List Dword
  p : List Mask
  j : List JSet
  cc : List Word
  lpc : List Dword
  lsp : LReg
  gs : Dword
  deriving DecidableEq, Repr, Inhabited

/-- A lane that executed `pause` (R173), and the lanes that have issued since. -/
structure Yield where
  lane : Nat
  issued : Mask
  deriving DecidableEq, Repr, Inhabited

/-- A group's hold at a barrier (R338): the slot and the generation it awaits the end of; `split` says that it holds at `barw`, where the lanes of `lanes` wait. -/
structure BarHold where
  slot : Nat
  gen : Nat
  split : Bool := false
  lanes : Mask := 0
  deriving DecidableEq, Repr, Inhabited

/-- A word of register storage, by specifier and place among the register's words (R102, R112 to R114). -/
structure RegWord where
  reg : Nat
  word : Nat
  deriving DecidableEq, Repr, Inhabited

/-- A register staged in the standpipe (R107 to R109); `bad` lists the words of the entry whose parity no longer fits (R114). -/
structure Staged where
  reg : Nat
  dirty : Bool
  bad : List Nat := []
  deriving DecidableEq, Repr, Inhabited

/-- Parity of a group's register storage (R113 to R115); `shadow` holds, by primary lane, what a shadow lane in error computes at the next shadowed issue (R190). -/
structure Integrity where
  bad : List RegWord := []
  dups : List RegWord := []
  tables : List Nat := []
  resume : Bool := false
  shadow : List (Nat × Dword) := []
  deriving DecidableEq, Repr, Inhabited

/-- What a lane in `chainwait` waits for (R170): a lane's read number `n` of a slot at a distance, or room for a lane to publish. A lane waits for itself; where an instruction combines lanes, for every lane that cannot go on (log 14). -/
inductive ChainWait where
  | read (lane slot dist n : Nat)
  | room (lane slot : Nat)
  deriving DecidableEq, Repr, Inhabited

/-- A group (R128, R161, R169 to R196). `entering` says that it has not issued yet (R88), `inbox` holds bytes that peers sent for an instruction that reads once for its issue, with their addresses. `saved` holds an evicted group's vector block (R106). `stalled` says that at the last look the group could not issue, and `since` the clk it has stood so or otherwise from (R107). -/
structure Group where
  ctx : Nat
  launch : Nat
  team : Nat
  index : Nat
  width : Nat
  age : Nat
  regs : Regs
  lanes : List LaneState
  yields : List Yield := []
  pausedUntil : Nat := 0
  handler : Option Handler := none
  halted : Bool := false
  pend : List Pend := []
  chainWaits : List (Nat × ChainWait) := []
  nextSeq : Nat := 0
  line : Option Line := none
  refetch : Bool := false
  entering : Bool := false
  barrier : Option BarHold := none
  partition : Option Nat := none
  staged : List Staged := []
  evicted : Bool := false
  saved : List Byte := []
  integrity : Integrity := {}
  conflicts : Nat := 0
  inbox : List (Nat × List Byte) := []
  pumps : Nat := 0
  stalled : Bool := false
  since : Nat := 0
  deriving DecidableEq, Repr, Inhabited

/-- A chain slot of a launch record (R158, R160). -/
structure ChainDecl where
  reg : Nat
  maxk : Nat
  deriving DecidableEq, Repr, Inhabited

/-- An item's reads and publications in one chain slot (R183). -/
structure ChainItem where
  reads : Nat := 0
  pubs : List Word := []
  deriving DecidableEq, Repr, Inhabited

/-- The fields of a launch record (R158). -/
structure LaunchRec where
  entry : Nat
  x : Nat
  y : Nat
  z : Nat
  width : Nat
  team : Nat
  pair : Bool
  deadline : Nat
  data : Dword
  privBase : Nat
  privSz : Nat
  cistern : Nat
  sump : Nat
  bars : Nat
  affBase : Nat
  affStride : Nat
  chain : List ChainDecl
  seeds : Nat
  args : Nat
  join : Nat
  deriving DecidableEq, Repr, Inhabited

/-- Where a launch came from (R143, R167, R410): a packet with its queue, tag, completion address and IRQ bit; `spawn`; a run's sequencer. -/
inductive Origin where
  | packet (queue : Nat) (tag : Word) (completion : Nat) (irq : Bool)
  | spawn
  | sequencer (run : Nat)
  deriving DecidableEq, Repr, Inhabited

/-- What an event or stage launch of a run gives to `ivarg` (R410, R411). -/
structure IvArg where
  run : Nat
  values : List Dword
  deriving DecidableEq, Repr, Inhabited

/-- Where a team's resources lie: its cores, and the offsets of its cistern and sump on each (R162). -/
structure Seat where
  cores : List Nat
  cistern : List Nat
  sump : List Nat
  deriving DecidableEq, Repr, Inhabited

/-- A launch in the dispatcher (R157 to R167): `next` is the team counter, `batches` holds for each die the team indices it fetched and has not placed, `returned` those that a save gave back (R164), `gone` its retired groups, `teamsLeft` the teams that have not retired. -/
structure Launch where
  ctx : Nat
  order : Nat
  addr : Nat
  record : LaunchRec
  args : List Dword
  seeds : List Word
  liveX : Nat
  liveY : Nat
  liveZ : Nat
  origin : Origin
  next : Nat := 0
  batches : List (Nat × List Nat) := []
  returned : List Nat := []
  reserve : Option Seat := none
  teamsLeft : Nat
  gone : List Nat := []
  started : Bool := false
  count : Nat := 0
  monitored : Bool := true
  faulted : Bool := false
  chain : List (Nat × ChainItem) := []
  ivarg : Option IvArg := none
  deriving DecidableEq, Repr, Inhabited

end Sys2Proof.Machine
end

