-- ==== Sys2Proof/Machine/EngineState.lean ====
section
/-! DEFINITION. Machine/EngineState: tiles, gate programs, barriers and handoff queues of a team, and the jobs, matrix and gate operations in flight (R272 to R343). -/
namespace Sys2Proof.Machine

/-- Tile states (R273). -/
inductive TileState where
  | empty | filling | ready | draining
  deriving DecidableEq, Repr, Inhabited

/-- A tile number's entry (R279) with its counts (R274). `phys` says that a physical entry of the core is held (R272). -/
structure Tile where
  state : TileState := .empty
  prec : Nat := 0
  fmt : Nat := 0
  space : Nat := 0
  rows : Nat := 0
  rb : Nat := 0
  base : Nat := 0
  rd : Nat := 0
  wr : Nat := 0
  phys : Bool := false
  deriving DecidableEq, Repr, Inhabited

/-- A barrier slot (R332). -/
structure Bar where
  arr : Mask := 0
  gen : Nat := 0
  deriving DecidableEq, Repr, Inhabited

/-- A handoff queue's binding (R339) and the groups held on its pushes and on its pops, each with the PC it is held at, in the order they were held (R341); `filling` lists pushes held on their tile (R343). `head` and `tail` are what the device last wrote to the ring's header (R339). -/
structure Handoff where
  offset : Nat
  cap : Nat
  pushes : List (Nat × Nat) := []
  pops : List (Nat × Nat) := []
  filling : List (Nat × Nat) := []
  head : Nat := 0
  tail : Nat := 0
  deriving DecidableEq, Repr, Inhabited

/-- A team placed on a core, or on the two cores of a pair (R162). Tile keys are member × 256 + number. `ringsUpset` says that a store reached the header of one of its handoff rings (R339). -/
structure Team where
  ctx : Nat
  launch : Nat
  index : Nat
  cores : List Nat
  groups : List Nat
  live : Mask
  cistern : List Nat
  sump : List Nat
  tiles : List (Nat × Tile) := []
  bars : List Bar
  handoff : List (Nat × Handoff) := []
  gates : List (Nat × List Word) := []
  accepted : Nat := 0
  ringsUpset : Bool := false
  deriving DecidableEq, Repr, Inhabited

/-- What a pump job moves (R316, R327, R329), with the identifier records it read at issue (R287). -/
inductive JobKind where
  | copy (src dst : Nat) (xp cols spitch dpitch : Nat) (srcSump dstSump : Bool)
  | plane (src dst : List Dword)
  | sexp (stream addr : Nat) (stateRec initRec : List Dword)
  | simp (stream addr : Nat) (stateRec initRec : List Dword)
  deriving DecidableEq, Repr, Inhabited

/-- Job states (R312). -/
inductive JobState where
  | waiting | running | partialFault | suspended | done | failed | abandoned
  deriving DecidableEq, Repr, Inhabited

/-- A footprint (R315): space, base, log2 of the size. -/
structure Foot where
  sp : Nat
  base : Nat
  lsz : Nat
  deriving DecidableEq, Repr, Inhabited

/-- A pump job (R311 to R331). `cardAt` is where word 7 goes, `units` the number of units, `todo` those of this pass still to attempt, `missing` those found missing, `tickets` its fault-buffer entries, `opening` the pages for which a restart has still to open one (R133), `inbox` lines that peers sent for the unit it stands at, `raced` the keys of bytes stored to while it was in flight (R271). -/
structure Job where
  ctx : Nat
  core : Nat
  group : Nat
  team : Nat
  kind : JobKind
  card : Nat
  cardAt : Nat
  len : Nat
  counter : Option Nat
  reads : List Foot
  writes : List Foot
  edges : List Nat
  tileR : Option Nat
  tileW : Option Nat
  state : JobState := .waiting
  units : Nat
  todo : List Nat
  missing : List Nat := []
  flags : Word := 0
  tickets : List Word := []
  faultAddr : Nat := 0
  failCode : Nat := 0
  word7 : Nat := 0
  opening : List (Nat × Bool) := []
  inbox : List (Nat × List Byte) := []
  raced : List Nat := []
  order : Nat
  deriving DecidableEq, Repr, Inhabited

/-- One octet operation (R289). -/
structure Octet where
  m0 : Nat
  n0 : Nat
  kb : Nat
  drow : Nat
  g : Nat
  deriving DecidableEq, Repr, Inhabited

/-- An `mma` or `mmaz` in flight (R289 to R297): `octets` are still to be performed, `done` are performed; `raced` lists the keys of bytes stored to meanwhile (R294). -/
structure MatOp where
  ctx : Nat
  core : Nat
  group : Nat
  team : Nat
  accumulate : Bool
  tidA : List Dword
  tidB : List Dword
  pa : Nat
  pb : Nat
  tileD : Nat
  dBase : Nat
  dRb : Nat
  tileT : Option Nat
  counter : Option Nat
  octets : List Octet
  done : List Octet := []
  raced : List Nat := []
  order : Nat
  deriving DecidableEq, Repr, Inhabited

/-- A `gate` in flight (R303 to R306), with the copies it took at issue: the program, and the records of the stream's identifiers (R287). A base is a space and an offset; `raced` lists the keys of bytes stored to while it was in flight (R294). -/
structure GateOp where
  ctx : Nat
  core : Nat
  group : Nat
  team : Nat
  prog : List Word
  rows : Nat
  cols : Nat
  tileD : Nat
  tileX : Nat
  tileY : Option Nat
  tileZ : Option Nat
  dBase : Nat × Nat
  xBase : Nat × Nat
  yBase : Nat × Nat
  zBase : Nat × Nat
  stream : Option Nat
  stateRec : List Dword
  initRec : List Dword
  counter : Option Nat
  raced : List Nat := []
  order : Nat
  deriving DecidableEq, Repr, Inhabited

/-- An operation on a stream, in the order R310 serialises them. -/
inductive StreamOp where
  | gate (op : Nat)
  | job (id : Nat)
  deriving DecidableEq, Repr, Inhabited

/-- The plane array's idle state and ramp (R23). -/
structure Array where
  idle : Bool := true
  since : Nat := 0
  step : Nat := 0
  stepAt : Nat := 0
  deriving DecidableEq, Repr, Inhabited

/-- A fused set of octet operations that issued on a core in one clk (R291): its B identifier, n0, kb and pB, and the lowest octet of it, with its group and the conflicts counted there (R298). -/
structure Fused where
  tid : Nat
  n0 : Nat
  kb : Nat
  pb : Nat
  octet : Nat
  group : Nat
  conflicts : Nat
  deriving DecidableEq, Repr, Inhabited

/-- A core (R14, R24, R107, R174, R247). `tags` maps a tagged slot to its key; `served` is the order of the job its pump served last (R320); `fused` are the fused sets of the clk `fusedAt`. -/
structure Core where
  lastAge : Nat := 0
  tags : List (Nat × Nat) := []
  array : Array := {}
  idle : Bool := true
  emptySince : Nat := 0
  limited : Bool := false
  lastPlace : Nat := 0
  fullSince : Nat := 0
  parts : List (Nat × Nat) := []
  rotated : Nat := 0
  served : Nat := 0
  fusedAt : Nat := 0
  fused : List Fused := []
  deriving DecidableEq, Repr, Inhabited

end Sys2Proof.Machine
end

