-- ==== Sys2Proof/Machine/ContextState.lean ====
section
/-! DEFINITION. Machine/ContextState: contexts, functions, queues, interpreter units and the fault buffer (R116 to R156, R378 to R386). -/
namespace Sys2Proof.Machine

/-- The context descriptor (R117). `pairs` has bit n for module pair n. -/
structure Desc where
  ptroot : Dword := 0
  asid : Nat := 0
  prio : Nat := 0
  func : Nat := 0
  pairs : BitVec 80 := 0
  save : Nat := 0
  saveLen : Nat := 0
  dump : Nat := 0
  dumpLen : Nat := 0
  slice : Nat := 0
  nslice : Nat := 0
  auto : Bool := false
  ckpt : Nat := 0
  errq : Nat := 0
  heapBase : Nat := 0
  heapLen : Nat := 0
  deriving DecidableEq, Repr, Inhabited

/-- Context states (R122); `killed` lasts from KILL until it is complete (R124). -/
inductive CtxState where
  | free | killed | opened | active | out | saving | stopped | halted | checkpoint
  deriving DecidableEq, Repr, Inhabited

/-- Why a context saves (R122, R130, R131). -/
inductive SaveFor where
  | switch | deadline (launch : Nat) | checkpoint
  deriving DecidableEq, Repr, Inhabited

/-- An error queue (R118): address, whether it is a host bus address, LOG2N, TAIL, LOST and the records waiting for room. -/
structure ErrQ where
  addr : Nat := 0
  log2n : Nat := 0
  tail : Word := 0
  lost : Nat := 0
  waiting : List (List Byte) := []
  deriving DecidableEq, Repr, Inhabited

/-- A registered pinned region (R385). -/
structure Pin where
  host : Bool
  frames : List Nat
  deriving DecidableEq, Repr, Inhabited

/-- A heap page held by an allocator (R261): its address, its frame's physical address and the allocated blocks as (offset, size). -/
structure HeapPage where
  va : Nat
  pa : Nat
  blocks : List (Nat × Nat) := []
  deriving DecidableEq, Repr, Inhabited

/-- Who waits on a fault-buffer entry (R382, R469): a parked lane, a lane parked by `ccwait` on a counter, or a job; a job is a pump job or the copy of a COPY packet. -/
inductive Waiter where
  | lane (group lane : Nat)
  | job (id : Nat)
  | ccwait (group lane counter : Nat)
  deriving DecidableEq, Repr, Inhabited

/-- Fault-buffer entry states (R382); a free entry is not listed. -/
inductive FaultState where
  | opened | reported | replayPending
  deriving DecidableEq, Repr, Inhabited

/-- A fault-buffer entry (R382), with the record R383 makes of it. -/
structure FaultEntry where
  die : Nat
  index : Nat
  seq : Nat
  ctx : Nat
  state : FaultState
  reason : Nat
  page : Nat
  write : Bool
  waiters : List Waiter
  record : List Byte
  action : Nat := 0
  deriving DecidableEq, Repr, Inhabited

/-- A copy on the S-die copy logic (R143). It numbers its 512-byte units as a job does: those from `next` on are still to be attempted, those of `retry` again, those of `missing` wait for their entries. `die` is the home die, `inbox` holds lines that peers sent for the unit it stands at. -/
structure CopyJob where
  ctx : Nat
  queue : Nat
  src : Nat
  dst : Nat
  len : Nat
  tag : Word
  completion : Nat
  irq : Bool
  die : Nat
  next : Nat := 0
  retry : List Nat := []
  missing : List Nat := []
  tickets : List Word := []
  failCode : Nat := 0
  faultAddr : Nat := 0
  inbox : List (Nat × List Byte) := []
  deriving DecidableEq, Repr, Inhabited

/-- What a save keeps of a context that leaves the device (R125 to R128): its groups, teams, jobs and fault entries, the tag arrays and memory of its cores, and the image as it was written: where, its bytes, the address and length of each group's record, the address of each job's card, and the place and bytes of the header, the launches, the teams and the tables. `restart` says that the image came from flash, `ready` that a RESUME has made of it what R133 says. -/
structure Image where
  groups : List (Nat × Group) := []
  teams : List (Nat × Team) := []
  jobs : List (Nat × Job) := []
  faults : List FaultEntry := []
  tags : List (Nat × List (Nat × Nat)) := []
  cells : List Host.Cell := []
  area : Nat := 0
  bytes : List Byte := []
  records : List (Nat × Nat × Nat) := []
  cards : List (Nat × Nat) := []
  sections : List (Nat × List Byte) := []
  restart : Bool := false
  ready : Bool := false
  deriving DecidableEq, Repr, Inhabited

/-- A context (R116 to R133). `prior` is the state a checkpoint returns to, `generation` the number of the last one, `saveFor` why it saves; `sliceNext` and `sliceLast` are the next entry of its slice table and the instant of the last one taken, `sliceSent` says that the gang has been sent the table, `sliceAgreed` that it confirmed it, `sliceOff` that it is not followed any more, and `sliceDue` that the context's slice has begun and its pairs are still being saved. -/
structure Ctx where
  owner : Nat := 0
  desc : Desc := {}
  state : CtxState := .free
  stopMark : Bool := false
  prior : CtxState := .free
  saveFor : SaveFor := .switch
  tids : List (Nat × List Dword) := []
  streams : List (Nat × List Dword) := []
  streamOps : List (Nat × List StreamOp) := []
  tableaux : List (Nat × List Word) := []
  pins : List (Nat × Pin) := []
  heap : List HeapPage := []
  heapWalked : Bool := false
  errq : ErrQ := {}
  resident : Nat := 0
  ckptClk : Nat := 0
  generation : Nat := 0
  image : Option Image := none
  sliceNext : Nat := 0
  sliceLast : Nat := 0
  sliceSent : Bool := false
  sliceAgreed : Bool := false
  sliceOff : Bool := false
  sliceDue : Bool := false
  deriving DecidableEq, Repr, Inhabited

/-- An exchange under way (R442 to R445): its SEQ, completion record and counts, whether a target failed, and the receive areas of this device that failed, by address and length. -/
structure Exchange where
  seq : Nat
  compl : Nat
  drops : Nat
  reroutes : Nat
  failed : Bool
  areas : List (Nat × Nat) := []
  deriving DecidableEq, Repr, Inhabited

/-- A function's registers in BAR 0 (R116, R136, R380, R447) what the physical function assigned to it (R449), the records that wait for its fault queue (R383), and its exchange (R442). -/
structure Func where
  ctxcmd : Dword := 0
  ctxdesc : Dword := 0
  qcmd : Dword := 0
  qarg : Dword := 0
  fqbase : Dword := 0
  fqctl : Dword := 0
  inval : Dword := 0
  invarg : Dword := 0
  pincmd : Dword := 0
  pinarg : Dword := 0
  evlbase : Dword := 0
  peertab : Dword := 0
  clscmd : Dword := 0
  clsarg : Dword := 0
  xqbase : Dword := 0
  xqctl : Dword := 0
  poolcmd : Dword := 0
  poolarg : Dword := 0
  fwcmd : Dword := 0
  fwarg : Dword := 0
  fabcfg : Dword := 0
  poolPairs : BitVec 80 := 0
  poolFirst : Nat := 0
  poolCount : Nat := 0
  poolCtxs : Nat := 0
  waiting : List (Word × List Byte) := []
  exchange : Option Exchange := none
  deriving DecidableEq, Repr, Inhabited

/-- Queue states (R134). -/
inductive QueueState where
  | disabled | idle | active | blocked | error | draining
  deriving DecidableEq, Repr, Inhabited

/-- The queue descriptor (R138). -/
structure QueueDesc where
  base : Nat := 0
  log2n : Nat := 0
  prio : Nat := 0
  ctx : Nat := 0
  bucket : Bool := false
  status : Nat := 0
  buckets : Nat := 0
  nvme : Nat := 0
  progArea : Nat := 0
  nprog : Nat := 0
  msix : Nat := 0
  deriving DecidableEq, Repr, Inhabited

/-- A declared window of a program (R151). -/
structure Window where
  base : Nat
  len : Nat
  read : Bool
  write : Bool
  nvme : Bool
  deriving DecidableEq, Repr, Inhabited

/-- A loaded Busoron program (R151). -/
structure Program where
  windows : List Window
  code : List Word
  deriving DecidableEq, Repr, Inhabited

/-- An open `qrep` body (R150): first instruction, one past the last, passes left. -/
structure Rep where
  first : Nat
  stop : Nat
  left : Nat
  deriving DecidableEq, Repr, Inhabited

/-- A program's run for one packet (R147, R150 to R153): its instructions executed, its `qact`s, and whether it has begun. -/
structure ProgRun where
  prog : Nat
  pc : Nat := 0
  reps : List Rep := []
  count : Nat := 0
  acts : Nat := 0
  started : Bool := false
  deriving DecidableEq, Repr, Inhabited

/-- Work a packet started, for FENCE and DISABLE (R135, R140). -/
inductive Work where
  | launch (id : Nat)
  | copy (id : Nat)
  | run (id : Nat)
  deriving DecidableEq, Repr, Inhabited

/-- A hardware queue (R134 to R155). `packet` is the packet buffer, empty where none is held, and `serial` numbers the packets, so that `work` names what each of them started; `unit` is the interpreter unit that serves it, `waitSince` the clk at which its packet became ready; `disabling` says that DISABLE waits for the packet, `hold` that `qhold` blocks it, `woken` that a line of a window of the held program has been written since (R153). -/
structure Queue where
  state : QueueState := .disabled
  desc : QueueDesc := {}
  ri : Nat := 0
  phase : Bool := true
  error : Nat := 0
  progError : Nat := 0
  sinceStatus : Nat := 0
  packet : List Byte := []
  serial : Nat := 0
  regs : List Dword := List.replicate 16 0
  slots : List (Nat × Program) := []
  run : Option ProgRun := none
  work : List (Nat × Work) := []
  disabling : Bool := false
  hold : Bool := false
  woken : Bool := false
  blockedAt : Nat := 0
  waitSince : Nat := 0
  unit : Option Nat := none
  deriving DecidableEq, Repr, Inhabited

end Sys2Proof.Machine
end

