-- ==== Sys2Proof/Machine/RunState.lean ====
section
/-! DEFINITION. Machine/RunState: the run sequencers (R387 to R423). -/
namespace Sys2Proof.Machine

/-- The states of R394, in the order of their codes. -/
inductive RunPhase where
  | opened | launched | forming | combining | solving | estimating | accepted | rejected | event | done | suspended | failed
  deriving DecidableEq, Repr, Inhabited

/-- The fields of a run record (R391) but for its addresses of launches and identifiers' numbers. -/
structure RunRec where
  tab : Nat
  yid : Nat
  ycid : Nat
  ysid : Nat
  kid : Nat
  atid : Nat
  rtid : Nat
  mode : Nat
  t : Word
  tc : Word
  h : Word
  tend : Word
  atol : Word
  rtol : Word
  rhs : Nat
  solve : Nat
  event : Nat
  maxSteps : Nat
  nacc : Nat := 0
  nrej : Nat := 0
  nrhs : Nat := 0
  nsolve : Nat := 0
  nnfail : Nat := 0
  nevent : Nat := 0
  state : RunPhase := .opened
  stage : Nat := 0
  cause : Nat := 0
  emask : Nat := 0
  newt : Nat := 0
  rej : Bool := false
  clip : Bool := false
  dense : Bool := false
  err : Word := 0
  tn : Word := 0
  hn : Word := 0
  theta : Word := 0
  handle : Nat := 0
  deriving DecidableEq, Repr, Inhabited

/-- Which end of the interval a location last moved away from (R421). -/
inductive KeptEnd where
  | none | lo | hi
  deriving DecidableEq, Repr, Inhabited

/-- The location of a sign change (R421): the interval, the values at its ends, the weighted values, and the trial under way. -/
structure Locate where
  lo : Word
  glo : List Word
  fl : List Word
  hi : Word
  ghi : List Word
  fh : List Word
  g1 : List Word
  kept : KeptEnd := .none
  it : Nat := 0
  m : Nat := 0
  th : Word := 0
  deriving DecidableEq, Repr, Inhabited

/-- What an event launch in flight evaluates (R419). -/
inductive Evaluation where
  | opening | stepEnd | trial
  deriving DecidableEq, Repr, Inhabited

/-- The launch a run waits for: the right-hand side or the solve of a stage, or the events. -/
inductive RunLaunch where
  | rhs | solve | event (e : Evaluation)
  deriving DecidableEq, Repr, Inhabited

/-- The packet that opened a run, while its completion record is to come (R145, R411). -/
structure RunPacket where
  queue : Nat
  tag : Word
  completion : Nat
  irq : Bool
  deriving DecidableEq, Repr, Inhabited

/-- A run in its slot (R387 to R423). `core` and `team` opened it; `at_` is the record's address, or `atKey` its byte in a cistern; `tab` the tableau's words, `ids` the identifiers as copied; `step` is h, `flight` the launch it waits for, `landed` whether that completed and with faults; `auto` a run of a RUN packet; `dead` that its team has retired; `before` the state that a context save suspended. -/
structure Run where
  ctx : Nat
  core : Nat := 0
  team : Option Nat := none
  at_ : Nat
  atKey : Option Nat := none
  tab : List Word
  rec_ : RunRec
  ids : List (Nat × List Dword)
  step : Word := 0
  ti : Word := 0
  gamma : Word := 0
  up : Nat := 0
  down : Nat := 0
  eblk : Nat := 0
  etime : Word := 0
  gp : List Word := []
  locate : Option Locate := none
  rest : Bool := true
  budget : Nat := 0
  steps : Nat := 0
  flight : Option RunLaunch := none
  landed : Option Bool := none
  dead : Bool := false
  auto : Bool := false
  packet : Option RunPacket := none
  before : RunPhase := .opened
  deriving DecidableEq, Repr, Inhabited

end Sys2Proof.Machine
end

