-- ==== Sys2Proof/Machine/LinkState.lean ====
section
/-! DEFINITION. Machine/LinkState: die links, fabric ports, collectives, the expert exchange, the host port, firmware and flash (R131, R132, R425 to R454). -/
namespace Sys2Proof.Machine

/-- A die link (R425, R426): up, and the beat in retransmission with its failures. -/
structure DieLink where
  up : Bool := true
  fails : Nat := 0
  deriving DecidableEq, Repr, Inhabited

/-- A fabric port (R427, R429). -/
structure Port where
  up : Bool := false
  lanes : Nat := 0
  fails : Nat := 0
  deriving DecidableEq, Repr, Inhabited

/-- What a request to a peer asks (R428, R432): a read, a write, an atomic, or part of an exchange token (R444). -/
inductive PeerAsk where
  | read (n : Nat)
  | write (bytes : List Byte)
  | atomic (aop size : Nat) (v c : Dword)
  | token (bytes : List Byte)
  deriving DecidableEq, Repr, Inhabited

/-- Who a peer's answer goes to: lanes of a pending load that read one place (the group, the sequence number of the result, the lanes and the bytes of the load), a group whose instruction reads once for its issue (the address and the bytes), a pump job or the copy of a COPY packet (its number and the line's address), a remote completion ring entry (R268), a function's exchange (R445), nobody but the retry store. -/
inductive PeerFor where
  | load (group seq : Nat) (lanes : Mask) (n : Nat)
  | once (group addr n : Nat)
  | job (id line : Nat)
  | ring (ctx addr : Nat)
  | exchange (fn : Nat)
  | nobody
  deriving DecidableEq, Repr, Inhabited

/-- A request in the retry store (R432), with the class of the access that made it. One that is `queued` has not been sent, since earlier accesses of its line on another port are unanswered; it has no SEQ yet. -/
structure PeerReq where
  seq : Word
  dev : Nat
  port : Nat
  ports : Nat
  pa : Nat
  ask : PeerAsk
  for_ : PeerFor
  ctx : Nat
  group : Nat
  cls : Cls
  sentAt : Nat
  queued : Bool := false
  deriving DecidableEq, Repr

/-- An atomic request from a peer on the command queue of its home die (R433): the die, the port it came by, the flit. -/
structure AtomCmd where
  die : Nat
  port : Nat
  flit : Flit
  deriving DecidableEq, Repr, Inhabited

/-- A slice table that a device of the gang has sent so far (R129, R430). -/
structure PeerTable where
  bytes : List Byte
  complete : Bool
  deriving DecidableEq, Repr, Inhabited

/-- A port processor (R434): an RV32IMAC core with Zve32x, and its 256 KiB of private memory. -/
structure PortCore where
  cpu : Hart := {}
  mem : List Host.Cell := []
  deriving DecidableEq, Repr, Inhabited

/-- An entry of the inbound table (R433). -/
structure Inbound where
  source : Nat
  lo : Nat
  hi : Nat
  deriving DecidableEq, Repr, Inhabited

/-- A request this device performed for a peer, with the reply it sent (R432). -/
structure Performed where
  source : Nat
  seq : Word
  reply : Flit
  deriving DecidableEq, Repr, Inhabited

/-- A member of a collective group (R436). -/
structure Member where
  dev : Nat
  ctx : Nat
  base : Nat
  deriving DecidableEq, Repr, Inhabited

/-- One contribution (R437), with the port that sends it or holds it; `rel` says that a release store made it (R428). -/
structure Contribution where
  port : Nat
  rank : Nat
  off : Nat
  round : Nat
  value : Word
  rel : Bool := false
  deriving DecidableEq, Repr, Inhabited

/-- A word's open round at ROOT (R438, R439). -/
structure Round where
  off : Nat
  number : Nat
  got : List (Nat × Word)
  since : Nat
  deriving DecidableEq, Repr, Inhabited

/-- A collective group id (R435 to R441). `sent` counts contributions by rank and word, `seen` results by word, `closed` rounds ROOT has ended by word. -/
structure Collective where
  bound : Bool := false
  inc : Nat := 0
  last : Option Nat := none
  nrank : Nat := 0
  op : Nat := 0
  len : Nat := 0
  timeout : Nat := 0
  root : Nat := 0
  members : List Member := []
  status : Nat := 0
  sent : List (Nat × Nat) := []
  seen : List (Nat × Nat) := []
  held : List Contribution := []
  rounds : List Round := []
  closed : List (Nat × Nat) := []
  stale : Nat := 0
  deriving DecidableEq, Repr, Inhabited

/-- A firmware image that was accepted (R451 to R453). -/
structure Firmware where
  version : Nat
  digest : List Byte
  body : List Byte := []
  deriving DecidableEq, Repr, Inhabited

/-- A checkpoint generation in flash (R131, R132): its number, the context with its image, its launches and runs, the device pages by frame, and the manifest's digests and signature. -/
structure Generation where
  number : Nat
  ctx : Ctx
  launches : List (Nat × Launch)
  runs : List (Nat × Run)
  pages : List (Nat × List Byte)
  digests : List (List Byte)
  signature : List Byte
  deriving DecidableEq, Repr, Inhabited

/-- A host line held dirty over CXL.cache (R265, R448): the contexts that wrote it, and the host's bytes before. -/
structure DirtyLine where
  line : Nat
  ctxs : List Nat
  old : List Byte
  deriving DecidableEq, Repr, Inhabited

/-- A memory BAR of one of the device's functions (R472): its base on the host's bus, its length, and the device memory it maps. -/
structure HostBar where
  base : Nat
  len : Nat
  pa : Nat
  deriving DecidableEq, Repr, Inhabited

/-- The links (R425 to R448). `sent` lists the flits sent, each with its port; `atoms` are the atomics from peers that the engines have still to perform, in arrival order, the first 4,096 of a die on its queue and the others held by their ports (R433); `slices` are tables that the gang's devices sent; `hostReplies` are the completions sent for AtomicOps of the host, `none` one with an error status (R446). `time` is the device's IEEE 1588 time in nanoseconds when it was set last, at the clk `timeAt` (R129, R430). -/
structure Link where
  dies : List (Nat × DieLink) := []
  ports : List (Nat × Port) := []
  id : Nat := 0
  inbound : List Inbound := []
  reqs : List (Nat × PeerReq) := []
  seqs : List (Nat × Word) := []
  performed : List Performed := []
  sent : List (Nat × Flit) := []
  atoms : List AtomCmd := []
  slices : List (Nat × PeerTable) := []
  portCores : List (Nat × PortCore) := []
  hostReplies : List (Option Nat) := []
  groups : List (Nat × Collective) := []
  timeSynced : Bool := true
  time : Nat := 0
  timeAt : Nat := 0
  lnkIo : Bool := false
  lnkCache : Bool := false
  lnkMem : Bool := false
  width : Nat := 0
  dirtyHost : List DirtyLine := []
  bars : List HostBar := []
  deriving DecidableEq, Repr, Inhabited

/-- The S-die, a C-die or a stack that failed to come up, as the security processor reports it (R25). DESIGN CHOICE (log 70): the manual gives the report no form, and the model keeps it as this field. -/
inductive Part where
  | sDie
  | die (n : Nat)
  | stack (n : Nat)
  deriving DecidableEq, Repr, Inhabited

/-- Bring-up (R25), firmware (R451, R452) and flash (R132). `hbm` counts the stacks trained so far, in the order of R25. -/
structure Sec where
  hbm : Nat := 0
  failed : Option Part := none
  running : List (Nat × Firmware) := []
  pending : Option Firmware := none
  pendingFn : Nat := 0
  fused : List (Nat × Nat) := []
  flash : List (Nat × List Generation) := []
  deriving DecidableEq, Repr, Inhabited

end Sys2Proof.Machine
end

