-- ==== Sys2Proof/Machine/State.lean ====
section
/-! DEFINITION. Machine/State: the machine's state, how a step can stop, and the state after reset. -/
namespace Sys2Proof.Machine

/-- How a step stops with a fault of the model. None of these is an exception of the hardware: those are next states. -/
inductive Fault where
  /-- Raised by a Lumlia instruction executed outside any group, a Busoron instruction outside a queue's program, or `spawn` outside a hart; the step never does so. Safe. -/
  | noIssuer
  deriving DecidableEq, Repr

/-- How a step is refused. -/
inductive Refusal where
  /-- Raised by an arm of `exec` whose instruction has no meaning yet. Safe. -/
  | notModelled (mnemonic : String)
  deriving DecidableEq, Repr

/-- Whose instruction `exec` executes. -/
inductive Agent where
  | none
  | group (core slot : Nat)
  | queue (q : Nat)
  | hart (h : Nat)
  deriving DecidableEq, Repr, Inhabited

/-- The model's own fields (logs 1, 2): moves and choices named beforehand, the count that the free values of Config are applied to, whose instruction runs, whether it held, for the second slot of a pair the group as it stood before the first (R91), and the bytes that the move under way has written so far, as keys with lengths (R153, R271). -/
structure Env where
  turns : List Turn := []
  draws : List Nat := []
  tick : Nat := 0
  cur : Agent := .none
  held : Bool := false
  before : Option Group := none
  wrote : List (Nat × Nat) := []
  deriving DecidableEq, Repr, Inhabited

/-- A cached translation (R378): the page number of its 4 KiB granule, the leaf, and for a peer leaf the peer table's device and ports (R431). -/
structure Cached where
  ctx : Nat
  page : Nat
  leaf : Dword
  leafAddr : Nat
  peer : Option (Nat × Nat) := none
  deriving DecidableEq, Repr, Inhabited

/-- Line fills of a device page in a window of 2^24 clk, by the quadrant that asked for them (R381). -/
structure Fills where
  window : Nat
  counts : List Nat
  deriving DecidableEq, Repr, Inhabited

/-- The whole machine. -/
structure State where
  env : Env := {}
  clk : Nat := 0
  mem : List Host.Cell := []
  badLines : List Nat := []
  cores : List (Nat × Core) := []
  groups : List (Nat × Group) := []
  teams : List (Nat × Team) := []
  launches : List (Nat × Launch) := []
  jobs : List (Nat × Job) := []
  matops : List (Nat × MatOp) := []
  gateops : List (Nat × GateOp) := []
  copies : List (Nat × CopyJob) := []
  ctxs : List (Nat × Ctx) := []
  funcs : List (Nat × Func) := []
  queues : List (Nat × Queue) := []
  faults : List FaultEntry := []
  ticketSeqs : List (Nat × Nat) := []
  tlb : List Cached := []
  fills : List (Nat × Fills) := []
  hinted : List (Nat × Nat) := []
  runs : List (Nat × Run) := []
  link : Link := {}
  sec : Sec := {}
  evq : ErrQ := {}
  harts : List (Nat × Hart) := []
  irqs : List (Nat × Nat) := []
  nextId : Nat := 0
  deriving DecidableEq, Repr, Inhabited

/-- The machine right after reset: every table empty, every register at the value the manual states or the log names. -/
def State.reset : State := {}

end Sys2Proof.Machine
end

