-- ==== Sys2Proof/Machine/Memory.lean ====
section
/-! DEFINITION. Machine/Memory: bytes by address in one canonical list, and little-endian values over them (R2, R345). -/
namespace Sys2Proof.Machine

/-- What a byte that nothing has written reads as. DESIGN CHOICE (log 3): the manual gives no contents at power-on. -/
def Memory.unlisted : Byte := 0

/-- Key of a host bus address; device physical addresses are their own keys (R370). -/
def hostKey (a : Nat) : Nat := 2 ^ 64 + a
/-- Key of a byte of a core's cistern (R15, R247). Offsets beyond the array name windows whose bytes do not lie together (log 16). -/
def cisternKey (core off : Nat) : Nat := 2 * 2 ^ 64 + core * 2 ^ 32 + off
/-- Key of a byte of a core's sump (R15), with offsets likewise. -/
def sumpKey (core off : Nat) : Nat := 3 * 2 ^ 64 + core * 2 ^ 32 + off

/-- R119: the line of a key in an event record: a physical or bus address, or for SRAM an offset in its core's array. -/
def lineName (k : Nat) : Nat := (if k < 2 ^ 65 then k % 2 ^ 64 else k % 2 ^ 32) / 64 * 64

/-- The directly addressed region of a cistern, 6 MiB (R247). -/
def directBytes : Nat := 6 * 2 ^ 20
/-- The sump of a core, 1.5 MiB (R15). -/
def sumpBytes : Nat := 3 * 2 ^ 19

/-- The byte at a key. -/
def Memory.read : List Host.Cell → Nat → Byte
  | [], _ => Memory.unlisted
  | (a, x) :: r, k => if a < k then Memory.read r k else if a == k then x else Memory.unlisted

/-- A cell put before a list, unless it holds what an unlisted byte reads as. -/
def Memory.cons (k : Nat) (b : Byte) (r : List Host.Cell) : List Host.Cell :=
  if b == Memory.unlisted then r else (k, b) :: r

/-- Writes one byte and keeps the canonical form. -/
def Memory.write : List Host.Cell → Nat → Byte → List Host.Cell
  | [], k, b => Memory.cons k b []
  | (a, x) :: r, k, b =>
    if a < k then (a, x) :: Memory.write r k b
    else if a == k then Memory.cons k b r
    else Memory.cons k b ((a, x) :: r)

/-- Addresses strictly rise from `lo`, and no cell holds the unlisted byte. -/
def Memory.wfFrom : Nat → List Host.Cell → Bool
  | _, [] => true
  | lo, (a, x) :: r => lo ≤ a && x != Memory.unlisted && Memory.wfFrom (a + 1) r

/-- The canonical form of a memory. -/
def Memory.wf (m : List Host.Cell) : Bool := Memory.wfFrom 0 m

/-- `n` bytes from a key up. -/
def Memory.bytes (m : List Host.Cell) (k : Nat) : Nat → List Byte
  | 0 => []
  | n + 1 => Memory.read m k :: Memory.bytes m (k + 1) n

/-- Writes bytes from a key up. -/
def Memory.store (m : List Host.Cell) (k : Nat) : List Byte → List Host.Cell
  | [] => m
  | b :: r => Memory.store (Memory.write m k b) (k + 1) r

/-- Cells whose keys lie in `[lo, hi)`. -/
def Memory.within (m : List Host.Cell) (lo hi : Nat) : List Host.Cell := m.filter (fun c => lo ≤ c.1 && c.1 < hi)

/-- Removes the cells whose keys lie in `[lo, hi)`. -/
def Memory.clear (m : List Host.Cell) (lo hi : Nat) : List Host.Cell := m.filter (fun c => !(lo ≤ c.1 && c.1 < hi))

/-- The value of little-endian bytes (R2). -/
def leNat : List Byte → Nat
  | [] => 0
  | b :: r => b.toNat + 256 * leNat r

/-- `n` little-endian bytes of a value (R2). -/
def leBytes : Nat → Nat → List Byte
  | 0, _ => []
  | n + 1, x => BitVec.ofNat 8 x :: leBytes n (x / 256)

/-- `n` bytes of a list from offset `o`, as a value; bytes past its end are zero. -/
def field (l : List Byte) (o n : Nat) : Nat := leNat ((l.drop o).take n)

/-- Every byte from `lo` to `hi` is zero. -/
def zeros (b : List Byte) (lo hi : Nat) : Bool := ((b.take hi).drop lo).all (· == 0)

/-- Bits `[hi:lo]` of a value. -/
def bits (x hi lo : Nat) : Nat := x / 2 ^ lo % 2 ^ (hi + 1 - lo)

/-- Reads a value of `n` bytes at a key. -/
def Memory.value (m : List Host.Cell) (k n : Nat) : Nat := leNat (Memory.bytes m k n)

/-- Writes bytes from a key up, and remembers that it did: a write is seen by what waits for one or races with it, whatever it changes (R153, R271). -/
def State.poke (s : State) (key : Nat) (b : List Byte) : State :=
  { s with mem := Memory.store s.mem key b, env := { s.env with wrote := s.env.wrote ++ [(key, b.length)] } }

/-- Remembers bytes that an engine has written. -/
def State.noteWrites (s : State) (l : List (Nat × Nat)) : State := { s with env := { s.env with wrote := s.env.wrote ++ l } }

/-! ### Host bus addresses in registers (R472) -/

/-- R472: the byte at a host bus address: within a BAR of the device's own functions it is device memory. -/
def State.busKey (s : State) (a : Nat) : Nat :=
  match s.link.bars.find? (fun b => b.base ≤ a && a < b.base + b.len) with
  | some b => b.pa + (a - b.base)
  | none => hostKey a

/-- Bytes at a host bus address that a register holds. -/
def hostBytes (s : State) (a n : Nat) : List Byte := (List.range n).map (fun k => Memory.read s.mem (s.busKey (a + k)))

/-- A value there. -/
def hostValue (s : State) (a n : Nat) : Nat := leNat (hostBytes s a n)

end Sys2Proof.Machine
end

