-- ==== Sys2Proof/Machine/Translate.lean ====
section
/-! DEFINITION. Machine/Translate: the page walk, its caches and the page attributes (R370 to R378). -/
namespace Sys2Proof.Machine

/-- Bytes of one HBM4E stack (R370). -/
def stackBytes : Nat := 80000000000

/-- R370: the physical address names memory. -/
def paOk (pa : Nat) : Bool := pa < 2 ^ 41 && pa % 2 ^ 37 < stackBytes

/-- What a walk ends in (R375): a leaf with its own address, an address not mapped, a malformed entry. -/
inductive Walk where
  | leaf (w : Dword) (pa : Nat)
  | unmapped
  | malformed
  deriving DecidableEq, Repr

/-- R374: the fields of a leaf. -/
def leafMem (w : Dword) : Nat := bits w.toNat 61 60
def leafPR (w : Dword) : Bool := w.getLsbD 59
def leafPW (w : Dword) : Bool := w.getLsbD 58
def leafPX (w : Dword) : Bool := w.getLsbD 57
def leafD (w : Dword) : Bool := w.getLsbD 56
def leafMig (w : Dword) : Bool := w.getLsbD 55
def leafPin (w : Dword) : Bool := w.getLsbD 54
def leafHeap (w : Dword) : Bool := leafMem w == 0 && w.getLsbD 53
def leafRed (w : Dword) : Bool := leafMem w == 0 && w.getLsbD 52
def leafOp (w : Dword) : Nat := bits w.toNat 51 50
def leafInc (w : Dword) : Nat := bits w.toNat 49 42
def leafGid (w : Dword) : Nat := bits w.toNat 15 8
def leafRank (w : Dword) : Nat := bits w.toNat 7 0
def leafPeer (w : Dword) : Nat := bits w.toNat 51 44
/-- Frame address of a device or peer page of 64 KiB. -/
def leafFrame (w : Dword) : Nat := bits w.toNat 40 16 * 2 ^ 16
/-- Bus address of a host page of 4 KiB. -/
def leafHostFrame (w : Dword) : Nat := bits w.toNat 51 12 * 2 ^ 12

/-- R375: a leaf of a last-level table whose pages are 64 KiB (`wide`) or 4 KiB. A frame names no memory when any byte of its page lies beyond the stack (DEDUCED, log 6). -/
def leafOk (wide : Bool) (w : Dword) : Bool :=
  let x := w.toNat
  let red := w.getLsbD 52
  let heap := w.getLsbD 53
  match leafMem w with
  | 0 => wide && !(heap && red) && leafOp w != 3 && bits x 41 41 == 0 && paOk (leafFrame w + 65535) &&
      (red || (leafOp w == 0 && leafInc w == 0 && bits x 15 0 == 0))
  | 1 => !wide && bits x 53 52 == 0 && bits x 11 0 == 0
  | 2 => wide && bits x 53 52 == 0 && bits x 43 41 == 0 && bits x 15 0 == 0
  | _ => false

/-- Reads a last-level entry. A table entry there is malformed (DEDUCED, log 6). -/
def walkLast (m : List Host.Cell) (table : Nat) (wide : Bool) (va : Nat) : Walk :=
  let pa := table + 8 * (if wide then bits va 20 16 else bits va 20 12)
  let w := BitVec.ofNat 64 (Memory.value m pa 8)
  match bits w.toNat 63 62 with
  | 0 => .unmapped
  | 2 => if leafOk wide w then .leaf w pa else .malformed
  | _ => .malformed

/-- R373, R375: a table entry is well formed, and its next table lies in memory with the alignment it needs. -/
def tableOk (last : Bool) (x : Nat) : Bool :=
  let g64 := bits x 61 61 == 1
  (last || !g64) && bits x 60 52 == 0 && bits x 51 41 == 0 && bits x 7 0 == 0 &&
    paOk (bits x 51 8 * 256) && (g64 || bits x 11 8 == 0)

/-- R372: the walk, by the index shifts of the levels above the last. -/
def walkLevels (m : List Host.Cell) (va : Nat) : List Nat → Nat → Walk
  | [], _ => .malformed
  | sh :: rest, table =>
    let x := Memory.value m (table + 8 * (va / 2 ^ sh % 512)) 8
    match bits x 63 62 with
    | 0 => .unmapped
    | 1 =>
      if tableOk rest.isEmpty x then
        let next := bits x 51 8 * 256
        if rest.isEmpty then walkLast m next (bits x 61 61 == 1) va else walkLevels m va rest next
      else .malformed
    | _ => .malformed

/-- R372: walks a context's table for an address. -/
def walk (m : List Host.Cell) (ptroot : Dword) (va : Nat) : Walk :=
  walkLevels m va [48, 39, 30, 21] (bits ptroot.toNat 40 0)

/-- The context of a number; one never created is free. -/
def State.ctx (s : State) (c : Nat) : Ctx := (lookup s.ctxs c).getD {}

/-- Writes a context. -/
def State.setCtx (s : State) (c : Nat) (x : Ctx) : State := { s with ctxs := insert s.ctxs c x }

/-- The cached leaf of an address (R378). -/
def cachedLeaf (t : List Cached) (c va : Nat) : Option Cached :=
  match t with
  | [] => none
  | e :: r => if e.ctx == c && e.page == va / 4096 then some e else cachedLeaf r c va

/-- The leaf of an address, whatever use is made of it. -/
def State.leafOf (s : State) (c va : Nat) : Option Dword :=
  match cachedLeaf s.tlb c va with
  | some e => some e.leaf
  | none => match walk s.mem (s.ctx c).desc.ptroot va with
    | .leaf w _ => some w
    | _ => none

/-- How an access uses its page (R376). -/
inductive Use where
  | read | write | fetch | atomic
  deriving DecidableEq, Repr

/-- The access writes (R375, R377). -/
def Use.writes : Use → Bool
  | .write | .atomic => true
  | _ => false

/-- R376: the page rights an access needs. -/
def Use.allowed (u : Use) (w : Dword) : Bool :=
  match u with
  | .read => leafPR w
  | .write => leafPW w
  | .fetch => leafPX w
  | .atomic => leafPR w && leafPW w

/-- A translation, or the fault it takes (R375): not mapped or migrating (reasons 1, 2), no right, malformed. -/
inductive Xlat where
  | to (leaf : Dword) (leafPa : Nat)
  | fault (reason : Nat)
  | prot
  | malformed
  deriving DecidableEq, Repr

/-- Judges a leaf for an access (R375, R376). -/
def judge (u : Use) (w : Dword) (pa : Nat) : Xlat :=
  if u.writes && leafMig w then .fault 2 else if u.allowed w then .to w pa else .prot

/-- R431: the peer table entry a leaf names, as its device and ports; `none` where it is invalid or malformed. The table lies at a host bus address (R472). -/
def readPeer (s : State) (c : Nat) (w : Dword) : Option (Nat × Nat) :=
  let fn := (s.ctx c).desc.func
  let b := hostBytes s (((lookup s.funcs fn).getD {}).peertab.toNat + 16 * leafPeer w) 16
  let dev := field b 0 2
  let ports := field b 4 4
  if field b 2 2 == 1 && field b 8 8 == 0 && ports < 2 ^ 18 then some (dev, ports) else none

/-- A walk's leaf, judged; a peer leaf whose table entry is invalid or malformed faults as a malformed entry does (R431, R375). -/
def judgeWalk (s : State) (c : Nat) (u : Use) (w : Dword) (pa : Nat) : Xlat :=
  if leafMem w == 2 && (readPeer s c w).isNone then .malformed else judge u w pa

/-- R375 to R378: translates an address of a context. A cached leaf serves as long as it is held, but one with MIG only serves reads. -/
def translate (s : State) (c va : Nat) (u : Use) : Xlat :=
  let fresh : Unit → Xlat := fun _ =>
    match walk s.mem (s.ctx c).desc.ptroot va with
    | .unmapped => .fault 1
    | .malformed => .malformed
    | .leaf w pa => judgeWalk s c u w pa
  match cachedLeaf s.tlb c va with
  | some e => if leafMig e.leaf && u.writes then fresh () else judge u e.leaf e.leafAddr
  | none => fresh ()

/-- R431: the peer and ports of an address under a peer leaf: the entry cached with the leaf, whatever its D is by now, else the table's. -/
def State.peerOf (s : State) (c va : Nat) (w : Dword) : Option (Nat × Nat) :=
  match cachedLeaf s.tlb c va with
  | some e => if leafMem e.leaf == 2 && leafPeer e.leaf == leafPeer w then e.peer else readPeer s c w
  | none => readPeer s c w

/-- A place an address resolves to: a byte of this device's or the host's memory, or a peer device's (R374). -/
inductive Loc where
  | here (key : Nat)
  | peer (index pa : Nat)
  deriving DecidableEq, Repr

/-- R374: the byte a leaf maps an address to. -/
def leafLoc (w : Dword) (va : Nat) : Loc :=
  match leafMem w with
  | 1 => .here (hostKey (leafHostFrame w + va % 4096))
  | 2 => .peer (leafPeer w) (leafFrame w + va % 65536)
  | _ => .here (leafFrame w + va % 65536)

/-- The device page (64 KiB frame) a leaf names, for the dirty set of a checkpoint (R131). -/
def leafDevice (w : Dword) : Bool := leafMem w == 0

/-- R378: keeps a leaf that an access used, replacing an older copy. -/
def State.cache (s : State) (c va : Nat) (w : Dword) (pa : Nat) : State :=
  let rest := s.tlb.filter (fun e => !(e.ctx == c && e.page == va / 4096))
  let peer := if leafMem w == 2 then s.peerOf c va w else none
  { s with tlb := { ctx := c, page := va / 4096, leaf := w, leafAddr := pa, peer } :: rest }

/-! ### The device pages of a context (R131, R372 to R377) -/

/-- The device leaves of a last-level table: address of the page, leaf, address of the leaf. -/
def lastPages (m : List Host.Cell) (table va : Nat) : List (Nat × Dword × Nat) :=
  (List.range 32).filterMap (fun i =>
    let pa := table + 8 * i
    let w := BitVec.ofNat 64 (Memory.value m pa 8)
    if bits w.toNat 63 62 == 2 && leafOk true w && leafMem w == 0 then some (va + i * 65536, w, pa) else none)

/-- The device leaves below a table, by the index shifts of the levels that are left. -/
def pagesBelow (m : List Host.Cell) : List Nat → Nat → Nat → List (Nat × Dword × Nat)
  | [], _, _ => []
  | sh :: rest, table, va =>
    (List.range 512).flatMap (fun i =>
      let x := Memory.value m (table + 8 * i) 8
      let a := va + i * 2 ^ sh
      if bits x 63 62 != 1 || !tableOk rest.isEmpty x then []
      else if rest.isEmpty then (if bits x 61 61 == 1 then lastPages m (bits x 51 8 * 256) a else [])
      else pagesBelow m rest (bits x 51 8 * 256) a)

/-- Every device page a context maps. -/
def devicePages (s : State) (c : Nat) : List (Nat × Dword × Nat) := pagesBelow s.mem [48, 39, 30, 21] (bits (s.ctx c).desc.ptroot.toNat 40 0) 0

/-- The contexts that are not FREE. -/
def State.held (s : State) : List Nat := (s.ctxs.filter (fun x => x.2.state != .free)).map (·.1)

/-- Sets D in a leaf at its home. -/
def dirtyLeaf (s : State) (p : Nat × Dword × Nat) : State :=
  if leafD p.2.1 then s else s.poke p.2.2 (leBytes 8 (p.2.1 ||| (1#64 <<< 56)).toNat)

/-- R131: a write through one context's leaf sets D as well in the leaves by which other contexts map the page. -/
def State.shareDirty (s : State) (c : Nat) (w : Dword) : State :=
  if leafMem w != 0 then s
  else ((s.held.filter (· != c)).flatMap (fun k => (devicePages s k).filter (fun p => leafFrame p.2.1 == leafFrame w))).foldl dirtyLeaf s

/-- R131, R377: the first write through a leaf whose D is clear sets D in the leaf at its home. -/
def State.markDirty (s : State) (c va : Nat) (w : Dword) (pa : Nat) : State :=
  let home := BitVec.ofNat 64 (Memory.value s.mem pa 8)
  let s := if leafD w then s else s.poke pa (leBytes 8 (home ||| (1#64 <<< 56)).toNat)
  (s.shareDirty c w).cache c va (w ||| (1#64 <<< 56)) pa

/-- R131: a write of device memory by physical address sets D in every leaf that maps a page it writes, whatever agent makes it (log 49). -/
def State.dirtyFrame (s : State) (pa n : Nat) : State :=
  let touched := fun (p : Nat × Dword × Nat) => decide (leafFrame p.2.1 < pa + n) && decide (pa < leafFrame p.2.1 + 65536)
  (s.held.flatMap (fun c => (devicePages s c).filter touched)).foldl dirtyLeaf s

/-- R131: a write of device memory by physical address. -/
def State.devStore (s : State) (pa : Nat) (b : List Byte) : State :=
  (s.dirtyFrame pa b.length).poke pa b

/-- Writes bytes at host bus addresses, one after another (R472). -/
def busWrite (a : Nat) : List Byte → State → State
  | [], s => s
  | b :: r, s => busWrite (a + 1) r (s.poke (s.busKey a) [b])

/-- Writes bytes at a host bus address that a register holds (R472, R131). -/
def State.hostStore (s : State) (a : Nat) (b : List Byte) : State :=
  let s := ((List.range b.length).map (fun k => s.busKey (a + k))).foldl (fun s k => if k < 2 ^ 64 then s.dirtyFrame k 1 else s) s
  busWrite a b s

/-- Records that a translation was used: it is cached, and a write sets D. -/
def State.used (s : State) (c va : Nat) (u : Use) (w : Dword) (pa : Nat) : State :=
  if u.writes then s.markDirty c va w pa else s.cache c va w pa

/-- R371: the die of a device physical address, and its quadrant on the module (stack number). -/
def paStack (pa : Nat) : Nat := pa / 2 ^ 37 % 16

/-- R371: the home slice's core of a device line. -/
def homeCore (pa : Nat) : Nat :=
  let st := paStack pa
  let h := pa % 2 ^ 37 / 64 % 10
  st / 4 * 40 + (5 * (st % 4) + h / 2) * 2 + h % 2

/-- The pieces of a range that lie in one 4 KiB granule each: address and length. -/
def granules : Nat → Nat → Nat → List (Nat × Nat)
  | 0, _, _ => []
  | f + 1, va, n =>
    if n == 0 then []
    else
      let k := 4096 - va % 4096
      if n ≤ k then [(va, n)] else (va, k) :: granules f (va + k) (n - k)

/-- A fault of an access the device makes in a context's address space (R119, kind 7): translation, protection. -/
inductive DevFault where
  | xlate (va reason : Nat)
  | prot (va : Nat)
  | malformed (va : Nat)
  | memory (va key : Nat)
  deriving DecidableEq, Repr

/-- R119: the code of a fault in a kind 7 record. -/
def DevFault.kind7 : DevFault → Nat
  | .xlate _ _ => 1
  | .prot _ => 2
  | .malformed _ => 2
  | .memory _ _ => 3

/-- R197: the code of a fault raised to a group. -/
def DevFault.code : DevFault → Nat
  | .xlate _ _ => 6
  | _ => 7

/-- The line of a key holds an uncorrectable error. -/
def State.badLine (s : State) (key : Nat) : Bool := s.badLines.contains (key / 64)

/-- R448: a host line written over CXL.cache is held dirty. -/
def holdDirty (s : State) (ctx key : Nat) : State :=
  let line := key / 64
  if key < 2 ^ 64 || 2 ^ 65 ≤ key || !s.link.lnkCache then s
  else
    let rest := s.link.dirtyHost.filter (fun x => x.line != line)
    let x := (s.link.dirtyHost.find? (fun x => x.line == line)).getD { line, ctxs := [], old := Memory.bytes s.mem (line * 64) 64 }
    { s with link := { s.link with dirtyHost := { x with ctxs := if x.ctxs.contains ctx then x.ctxs else x.ctxs ++ [ctx] } :: rest } }

/-- Translates every granule of a range, for one use. -/
def translateAll (s : State) (c : Nat) (u : Use) : List (Nat × Nat) → Except DevFault (List (Nat × Nat × Dword × Nat))
  | [] => .ok []
  | (va, n) :: r =>
    match translate s c va u with
    | .fault reason => .error (.xlate va reason)
    | .prot => .error (.prot va)
    | .malformed => .error (.malformed va)
    | .to w pa =>
      match leafLoc w va with
      | .peer _ _ => .error (.prot va)
      | .here key =>
        if u.writes && leafRed w then .error (.prot va)
        else if s.badLine key then .error (.memory va key)
        else if s.badLine (key + n - 1) then .error (.memory va (key + n - 1))
        else (translateAll s c u r).map (fun l => (va, n, w, pa) :: l)

/-- A range of a context's address space as the device's own units reach it. -/
def rangeOf (va n : Nat) : List (Nat × Nat) := granules (n / 4096 + 2) va n

/-- Reads a range as a unit of the device does: a global address whose bits 63 to 57 are zero (R472). A peer's page faults (log 7). -/
def State.readVA (s : State) (c va n : Nat) (u : Use := .read) : Except DevFault (List Byte × State) :=
  if 2 ^ 57 < va + n then .error (.prot va)
  else (translateAll s c u (rangeOf va n)).map fun l =>
    (l.foldr (fun (va, n, w, _) acc => match leafLoc w va with
      | .here key => Memory.bytes s.mem key n ++ acc
      | .peer _ _ => acc) [],
     l.foldl (fun s (va, _, w, pa) => s.used c va u w pa) s)

/-- Stores the bytes of one granule's piece and hands on the rest. -/
def storePieces (c : Nat) : List (Nat × Nat × Dword × Nat) → List Byte → State → State
  | [], _, s => s
  | (va, n, w, pa) :: r, bs, s =>
    let s := s.used c va .write w pa
    let s := match leafLoc w va with
      | .here key => s.poke key (bs.take n)
      | .peer _ _ => s
    storePieces c r (bs.drop n) s

/-- Writes a range as a unit of the device does; nothing is written when any part of it faults. -/
def State.writeVA (s : State) (c va : Nat) (bs : List Byte) : Except DevFault State :=
  if 2 ^ 57 < va + bs.length then .error (.prot va)
  else (translateAll s c .write (rangeOf va bs.length)).map fun l => storePieces c l bs s

end Sys2Proof.Machine
end

