-- ==== Sys2Proof/Machine/Report.lean ====
section
/-! DEFINITION. Machine/Report: interrupts, error records and the rings they go to (R118, R119, R383). -/
namespace Sys2Proof.Machine

/-- The bytes of a value list, each with its width, padded with zeros to `n`. -/
def record (n : Nat) (l : List (Nat × Nat)) : List Byte :=
  let b := l.flatMap (fun (k, x) => leBytes k x)
  (b ++ List.replicate (n - b.length) 0).take n

/-- Signals an MSI-X vector of a function. -/
def State.signal (s : State) (fn vec : Nat) : State := { s with irqs := s.irqs ++ [(fn, vec)] }

/-- The registers of a function. -/
def State.func (s : State) (fn : Nat) : Func := (lookup s.funcs fn).getD {}

def State.setFunc (s : State) (fn : Nat) (f : Func) : State := { s with funcs := insert s.funcs fn f }

/-- R118: the device error queue is full. Its ring lies at a host bus address (R472). -/
def evFull (s : State) : Bool :=
  let head := hostValue s (s.evq.addr + 4) 4
  (s.evq.tail.toNat + 2 ^ 32 - head) % 2 ^ 32 == 2 ^ s.evq.log2n

/-- Writes a record into the device error queue at its TAIL, then TAIL. -/
def evWrite (s : State) (r : List Byte) : State :=
  let q := s.evq
  let at_ := q.addr + 64 + 64 * (q.tail.toNat % 2 ^ q.log2n)
  let tail := q.tail + 1
  if s.badLine (s.busKey at_) || s.badLine (s.busKey q.addr) then s
  else ({ (s.hostStore at_ r).hostStore (q.addr + 8) (leBytes 4 tail.toNat) with evq := { q with tail } }).signal 0 1

/-- R118: reports an event that belongs to no context. -/
def reportDevice (s : State) (r : List Byte) : State :=
  if s.evq.addr == 0 then s
  else if s.evq.waiting.isEmpty && !evFull s then evWrite s r
  else if s.evq.waiting.length < 16 then { s with evq := { s.evq with waiting := s.evq.waiting ++ [r] } }
  else
    let lost := min (s.evq.lost + 1) (2 ^ 32 - 1)
    { s.hostStore (s.evq.addr + 12) (leBytes 4 lost) with evq := { s.evq with lost } }

/-- R119, kind 7: a device write that was not performed. `what` is the write's code, `queue` 0xffff for none. -/
def kind7 (code queue what address tag : Nat) : List Byte :=
  record 64 [(2, 7), (2, code), (2, queue), (2, what), (8, address), (8, tag)]

/-- R118: a context's ring is full, or the fault its HEAD takes. -/
def errqFull (s : State) (c : Nat) : Except DevFault Bool :=
  let q := (s.ctx c).errq
  (s.readVA c (q.addr + 4) 4).map fun (b, _) => (q.tail.toNat + 2 ^ 32 - leNat b) % 2 ^ 32 == 2 ^ q.log2n

/-- R118: where a context's next record goes. -/
def ErrQ.slot (q : ErrQ) : Nat := q.addr + 64 + 64 * (q.tail.toNat % 2 ^ q.log2n)

/-- Writes a record at a context's TAIL, then TAIL, then signals vector 1 of its function. -/
def errqWrite (s : State) (c : Nat) (r : List Byte) : Except (DevFault × Nat) State :=
  let q := (s.ctx c).errq
  let tail := q.tail + 1
  match s.writeVA c q.slot r with
  | .error f => .error (f, q.slot)
  | .ok s =>
    match s.writeVA c (q.addr + 8) (leBytes 4 tail.toNat) with
    | .error f => .error (f, q.addr + 8)
    | .ok s => .ok ((s.setCtx c { s.ctx c with errq := { q with tail } }).signal (s.ctx c).desc.func 1)

/-- R118, R119: a report that a fault keeps out of the ring becomes a kind 7 record of the device error queue, with the address of the write that was not performed. -/
def errqFaulted (s : State) (c : Nat) (f : DevFault) (at_ : Nat) : State := reportDevice s (kind7 f.kind7 0xffff 4 at_ c)

/-- R118: counts a dropped record. -/
def errqLost (s : State) (c : Nat) : State :=
  let x := s.ctx c
  let lost := min (x.errq.lost + 1) (2 ^ 32 - 1)
  let s := s.setCtx c { x with errq := { x.errq with lost } }
  match s.writeVA c (x.errq.addr + 12) (leBytes 4 lost) with
  | .ok s => s
  | .error _ => s

/-- R118: reports a record to a context's error queue. -/
def report (s : State) (c : Nat) (r : List Byte) : State :=
  let x := s.ctx c
  if x.errq.addr == 0 then s
  else if !x.errq.waiting.isEmpty then
    if x.errq.waiting.length < 16 then s.setCtx c { x with errq := { x.errq with waiting := x.errq.waiting ++ [r] } }
    else errqLost s c
  else
    match errqFull s c with
    | .error f => errqFaulted s c f x.errq.slot
    | .ok true => s.setCtx c { x with errq := { x.errq with waiting := [r] } }
    | .ok false =>
      match errqWrite s c r with
      | .ok s => s
      | .error f => errqFaulted s c f.1 f.2

/-- R118: with HEAD read again, writes the records that waited, in order, while there is room. -/
def errqDrain : Nat → State → Nat → State
  | 0, s, _ => s
  | n + 1, s, c =>
    let x := s.ctx c
    match x.errq.waiting with
    | [] => s
    | r :: rest =>
      match errqFull s c with
      | .ok true => s
      | .error f => errqDrain n (errqFaulted (s.setCtx c { x with errq := { x.errq with waiting := rest } }) c f x.errq.slot) c
      | .ok false =>
        let s := s.setCtx c { x with errq := { x.errq with waiting := rest } }
        match errqWrite s c r with
        | .ok s => errqDrain n s c
        | .error f => errqDrain n (errqFaulted s c f.1 f.2) c

/-- The same for the device error queue. -/
def evDrain : Nat → State → State
  | 0, s => s
  | n + 1, s =>
    match s.evq.waiting with
    | [] => s
    | r :: rest =>
      if evFull s then s else evDrain n (evWrite { s with evq := { s.evq with waiting := rest } } r)

/-- R119, kinds 2 (corrected) and 3 (uncorrected): an event with its source. -/
def eventRecord (corrected : Bool) (source core unit address v1 v2 clk : Nat) : List Byte :=
  record 64 [(2, if corrected then 2 else 3), (2, source), (2, core), (2, unit), (8, address), (8, v1), (8, v2), (8, clk)]

/-- Logs an event of a context, with its resident clk. -/
def logEvent (s : State) (c : Nat) (corrected : Bool) (source core unit address v1 v2 : Nat) : State :=
  report s c (eventRecord corrected source core unit address v1 v2 (s.ctx c).resident)

/-- Logs an event of no context, with the device's clk. -/
def logDevice (s : State) (corrected : Bool) (source unit address : Nat) : State :=
  reportDevice s (eventRecord corrected source 0xffff unit address 0 0 s.clk)

/-- R375: a malformed entry is reported to the context's ERRQ (source 10). -/
def logMalformed (s : State) (c core va : Nat) : State := logEvent s c false 10 core 0 va 0 0

/-- R119, R375: logs the malformed entry or the uncorrectable error a device access met, if that is its fault. -/
def logDevFault (s : State) (c : Nat) (f : DevFault) : State :=
  match f with
  | .malformed va => logMalformed s c 0xffff va
  | .memory _ key => logEvent s c false 7 0xffff 0 (lineName key) 0 0
  | _ => s

end Sys2Proof.Machine
end

