-- ==== Sys2Proof/Machine/Accessors.lean ====
section
/-! DEFINITION. Machine/Accessors: the parts of the machine by their numbers, its choices and its fresh numbers (logs 1, 2). -/
namespace Sys2Proof.Machine

/-- The key of a group: its core and slot (R12, R14). -/
def groupKey (core slot : Nat) : Nat := core * 64 + slot

/-- A group of the machine. -/
def State.group (s : State) (k : Nat) : Option Group := lookup s.groups k

def State.setGroup (s : State) (k : Nat) (g : Group) : State := { s with groups := insert s.groups k g }

/-- Changes a group, if it is there. -/
def State.onGroup (s : State) (k : Nat) (f : Group → Group) : State :=
  match lookup s.groups k with
  | some g => s.setGroup k (f g)
  | none => s

def State.core (s : State) (c : Nat) : Core := (lookup s.cores c).getD {}
def State.setCore (s : State) (c : Nat) (x : Core) : State := { s with cores := insert s.cores c x }
def State.setTeam (s : State) (t : Nat) (x : Team) : State := { s with teams := insert s.teams t x }
def State.setLaunch (s : State) (t : Nat) (x : Launch) : State := { s with launches := insert s.launches t x }
def State.setQueue (s : State) (q : Nat) (x : Queue) : State := { s with queues := insert s.queues q x }
def State.queue (s : State) (q : Nat) : Queue := (lookup s.queues q).getD {}

/-- R120: the translation mode of a context: replayable above 8 cores. -/
def popcount (x : Nat) : Nat → Nat
  | 0 => 0
  | n + 1 => (if x.testBit n then 1 else 0) + popcount x n

def Ctx.cores (x : Ctx) : Nat := 2 * popcount x.desc.pairs.toNat 80
def Ctx.replayable (x : Ctx) : Bool := 8 < x.cores

/-- A choice the device makes among `n` (log 2). -/
def State.draw (s : State) (n : Nat) : Nat × State :=
  match s.env.draws with
  | d :: r => (d % (max n 1), { s with env := { s.env with draws := r } })
  | [] => (Config.draw s.env.tick % (max n 1), { s with env := { s.env with tick := s.env.tick + 1 } })

/-- A fresh number for the count a free value of Config is applied to. -/
def State.free (s : State) : Nat × State := (s.env.tick, { s with env := { s.env with tick := s.env.tick + 1 } })

/-- A fresh number: dispatch ages, launch order, the names of jobs and operations. -/
def State.fresh (s : State) : Nat × State := (s.nextId, { s with nextId := s.nextId + 1 })

end Sys2Proof.Machine
end

