-- ==== Sys2Proof/Machine/Peer.lean ====
section
/-! DEFINITION. Machine/Peer: requests to peer devices and their answers (R249, R268, R269, R428, R431, R432). The layout of a request within a flit's payload is the model's (log 12). -/
namespace Sys2Proof

/-- R428: one bit of CRC-32C, least significant bit first. PRESUMED (log 12): the CRC of that name with the reflected polynomial 82f63b78H, begun with all ones and inverted at the end. -/
def crcBits : Nat → Nat → Nat
  | 0, x => x
  | n + 1, x => crcBits n (if x % 2 == 1 then Nat.xor (x / 2) 0x82f63b78 else x / 2)

/-- R428: CRC-32C of bytes. -/
def crc32c (b : List Byte) : Word := BitVec.ofNat 32 (2 ^ 32 - 1 - b.foldl (fun x c => crcBits 8 (Nat.xor x c.toNat)) (2 ^ 32 - 1))

namespace Flit

/-- R428: bytes 0 to 247. -/
def head (f : Flit) : List Byte :=
  let le := Machine.leBytes
  [f.type, f.flags] ++ le 2 f.dst.toNat ++ le 2 f.src.toNat ++ [f.gid, f.inc, f.rank] ++ le 3 f.len ++ le 4 f.seq.toNat ++
    (f.payload ++ le 232 0).take 232

/-- R429: the CRC a flit carries fits it. -/
def crcOk (f : Flit) : Bool := f.crc == crc32c f.head

/-- A flit with the CRC it is sent with. -/
def sealed (f : Flit) : Flit := { f with crc := crc32c f.head, tail := 0 }

end Flit

namespace Machine

/-- R431: the up ports of a set. -/
def upPorts (s : State) (ports : Nat) : List Nat :=
  (List.range 18).filter (fun k => ports.testBit k && ((lookup s.link.ports k).getD {}).up)

/-- R431: the port a line's accesses take. -/
def portOf (s : State) (ports pa : Nat) : Option Nat :=
  let u := upPorts s ports
  if u.isEmpty then none else u[pa % 2 ^ 37 / 64 % u.length]?

/-- R428: a flit between two devices; `rel` says that it carries a release. -/
def flitTo (s : State) (type dev : Nat) (seq : Word) (payload : List Byte) (rel : Bool := false) : Flit :=
  { type := BitVec.ofNat 8 type, flags := if rel then 3 else 2, dst := BitVec.ofNat 16 dev, src := BitVec.ofNat 16 s.link.id, gid := 0, inc := 0, rank := 0,
    len := payload.length, seq, payload, crc := 0, tail := 0 }

/-- The payload of a request: the address, then what it asks. -/
def askBytes (pa : Nat) : PeerAsk → List Byte
  | .read n => leBytes 8 pa ++ leBytes 8 n
  | .write b => leBytes 8 pa ++ b
  | .token b => leBytes 8 pa ++ b
  | .atomic aop size v c => leBytes 8 pa ++ leBytes 4 aop ++ leBytes 4 size ++ leBytes 8 v.toNat ++ leBytes 8 c.toNat

/-- Sends a flit on a port, with its CRC. -/
def State.send (s : State) (port : Nat) (f : Flit) : State := { s with link := { s.link with sent := s.link.sent ++ [(port, f.sealed)] } }

/-- R428: the type of a request. -/
def PeerAsk.type : PeerAsk → Nat
  | .write _ => 1
  | .read _ => 2
  | .atomic _ _ _ _ => 4
  | .token _ => 8

/-- R428: a class carries a release. -/
def Cls.releases : Cls → Bool
  | .rel | .ar => true
  | _ => false

/-- The flit of a request. -/
def reqFlit (s : State) (r : PeerReq) : Flit := flitTo s r.ask.type r.dev r.seq (askBytes r.pa r.ask) (Cls.releases r.cls)

/-- R432: an earlier access of a line that keeps its next one from going on a port: unanswered, and on another port or not sent itself. -/
def keepsBack (dev pa port : Nat) (r : PeerReq) : Bool := r.dev == dev && r.pa / 64 == pa / 64 && (r.queued || r.port != port)

/-- R428, R432: a request goes on a port, and takes the next SEQ of its peer. -/
def dispatchReq (s : State) (id port : Nat) (r : PeerReq) : State :=
  let seq := (lookup s.link.seqs r.dev).getD 0
  let r := { r with seq, port, queued := false }
  ({ s with link := { s.link with reqs := insert s.link.reqs id r, seqs := insert s.link.seqs r.dev (seq + 1) } } : State).send port (reqFlit s r)

/-- R431, R432: sends a request to a device, on its line's port or once the line's earlier accesses let it; it stays in the retry store until it is answered. -/
def sendReq (s : State) (dev ports group ctx pa : Nat) (cls : Cls) (ask : PeerAsk) (who : PeerFor) : State :=
  let (id, s) := s.fresh
  let r : PeerReq := { seq := 0, dev, port := 0, ports, pa, ask, for_ := who, ctx, group, cls, sentAt := s.clk, queued := true }
  match portOf s ports pa with
  | none => { s with link := { s.link with reqs := insert s.link.reqs id r } }
  | some port =>
    if s.link.reqs.any (fun x => keepsBack dev pa port x.2) then { s with link := { s.link with reqs := insert s.link.reqs id r } }
    else dispatchReq s id port r

/-- R432: sends a request that was kept back, where the earlier ones of its line let it. -/
def flushReq (s : State) (x : Nat × PeerReq) : State :=
  match portOf s x.2.ports x.2.pa with
  | none => s
  | some port =>
    if !x.2.queued || (s.link.reqs.takeWhile (fun y => y.1 != x.1)).any (fun y => keepsBack x.2.dev x.2.pa port y.2) then s
    else dispatchReq s x.1 port x.2

/-- R432: sends all that may go, in order. -/
def flushReqs (s : State) : State := s.link.reqs.foldl flushReq s

/-- R431: an access under a peer leaf sends its request. -/
def sendPeer (s : State) (group ctx va : Nat) (w : Dword) (pa : Nat) (cls : Cls) (ask : PeerAsk) (who : PeerFor) : State :=
  match s.peerOf ctx va w with
  | none => s
  | some (dev, ports) => sendReq s dev ports group ctx pa cls ask who

/-- The requests of a group that no answer has come to. -/
def groupReqs (s : State) (key : Nat) : List PeerReq := (s.link.reqs.filter (fun x => x.2.group == key)).map (·.2)

/-- The place in a group's inbox of `n` bytes from an address. -/
def inboxKey (a n : Nat) : Nat := a * 65536 + n

/-- Bytes that a peer has sent for an instruction that reads once for its issue. -/
def Group.sent (g : Group) (a n : Nat) : Option (List Byte) := lookup g.inbox (inboxKey a n)

/-- Asks a peer for bytes that a group's instruction reads once for its issue; an answer under way is not asked for again. -/
def askOnce (s : State) (key ctx va : Nat) (w : Dword) (pa n : Nat) : State :=
  if (groupReqs s key).any (fun r => r.for_ == .once key va n) then s
  else sendPeer s key ctx va w pa .plain (.read n) (.once key va n)

/-- A request for bytes. -/
def PeerAsk.isRead : PeerAsk → Bool
  | .read _ => true
  | _ => false

/-- R250, R351, R353: an access of a class waits for a group's accesses to peers that are not performed yet: every access for an acquire, a volatile one for a volatile one, a release for all, and a write for the loads before it. -/
def mustWait (s : State) (key : Nat) (cls : Cls) (writes : Bool) : Bool :=
  let rs := groupReqs s key
  rs.any (fun r => r.cls == .acq || r.cls == .ar) || (cls == .vol && rs.any (fun r => r.cls == .vol)) ||
    ((cls == .rel || cls == .ar) && !rs.isEmpty) || (writes && rs.any (fun r => r.ask.isRead))

/-- Writes a lane of a pending result. -/
def patchVec (v : VReg) (l : Nat) (x : Word) : VReg :=
  match v with
  | .g lanes => .g (lanes.set l x)
  | _ => .u x

/-- R432: the value a peer sent reaches the pending result it was asked for. -/
def patchPend (seq l x : Nat) : Nat → List Pend → List Pend
  | _, [] => []
  | k, p :: r =>
    if p.seq == seq then
      (if p.missing.has l then
        { p with missing := p.missing.del l
                 vec := if p.scalar then p.vec else patchVec p.vec l (BitVec.ofNat 32 (x / 2 ^ (32 * k)))
                 sca := if p.scalar then BitVec.ofNat 64 x else p.sca }
      else p) :: patchPend seq l x (k + 1) r
    else p :: patchPend seq l x k r

/-- R268: writes a completion ring entry: VALUE and FAIL, then STATUS. A write that faults ends it (log 78). -/
def ringReply (s : State) (ctx addr value status fail : Nat) : State :=
  match s.writeVA ctx addr (leBytes 8 value) with
  | .error f => logDevFault s ctx f
  | .ok s =>
    match s.writeVA ctx (addr + 12) (leBytes 2 fail) with
    | .error f => logDevFault s ctx f
    | .ok s =>
      match s.writeVA ctx (addr + 8) (leBytes 1 status) with
      | .error f => logDevFault s ctx f
      | .ok s => s

/-- A request is answered or given up: it leaves the retry store, and later ones of its line may go. -/
def dropReq (s : State) (id : Nat) : State := flushReqs { s with link := { s.link with reqs := erase s.link.reqs id } }

/-- What the lanes of a load that read one place receive (R254). -/
def loadReply (s : State) (group seq : Nat) (lanes : Mask) (x : Nat) : State :=
  s.onGroup group (fun g => { g with pend := (lanes.lanes g.width).foldl (fun l k => patchPend seq k x 0 l) g.pend })

end Machine

end Sys2Proof
end

