-- ==== Sys2Proof/Machine/Collective.lean ====
section
/-! DEFINITION. Machine/Collective: contributions, rounds and results of collective groups (R437 to R441). The payload of their flits is the model's (log 12): the offset, the word, and for a result the mask of missing ranks. -/
namespace Sys2Proof.Machine

/-- A collective group id of this device. -/
def State.coll (s : State) (gid : Nat) : Collective := (lookup s.link.groups gid).getD {}
def State.setColl (s : State) (gid : Nat) (c : Collective) : State := { s with link := { s.link with groups := insert s.link.groups gid c } }

/-- Adds to an 8-byte counter at a host bus address. -/
def bump (s : State) (addr n : Nat) : State :=
  s.hostStore addr (leBytes 8 (hostValue s addr 8 + n))

/-- R440, R441: counts a dropped flit or contribution. An id that is not bound has no status block, and the count is the device's own (log 13). -/
def countStale (s : State) (gid : Nat) : State :=
  let c := s.coll gid
  if c.bound then bump s (c.status + 24) 1 else s.setColl gid { c with stale := c.stale + 1 }

/-- R438: the sum or maximum of two terms. -/
def combine (op : Nat) (a b : Word) : Word :=
  match op with
  | 0 => BitVec.ofNat 32 (binary32.add .rn (binary32.decode a.toNat) (binary32.decode b.toNat)).1
  | 1 =>
    let half := fun (x y : Nat) => (bf16.add .rn (bf16.decode x) (bf16.decode y)).1
    BitVec.ofNat 32 (half (a.toNat % 2 ^ 16) (b.toNat % 2 ^ 16) + 2 ^ 16 * half (a.toNat / 2 ^ 16) (b.toNat / 2 ^ 16))
  | _ => BitVec.ofNat 32 (binary32.minmax false a.toNat b.toNat).1

/-- R28, R438: the first term, unrounded; a NaN is the canonical one. -/
def firstOf (op : Nat) (x : Word) : Word :=
  let quiet := fun (f : Fmt) (a : Nat) => match f.decode a with
    | .nan _ => f.nan
    | _ => a
  if op == 1 then BitVec.ofNat 32 (quiet bf16 (x.toNat % 2 ^ 16) + 2 ^ 16 * quiet bf16 (x.toNat / 2 ^ 16)) else BitVec.ofNat 32 (quiet binary32 x.toNat)

/-- R438: the result of the terms present, in ascending rank. -/
def formResult (op : Nat) (got : List (Nat × Word)) (nrank : Nat) : Word :=
  match (List.range nrank).filterMap (lookup got) with
  | [] => 0
  | x :: r => r.foldl (combine op) (firstOf op x)

/-- R439: the ranks a round lacks, 256 bits. -/
def missingMask (got : List (Nat × Word)) (nrank : Nat) : Nat :=
  (List.range nrank).foldl (fun m r => if (lookup got r).isSome then m else m + 2 ^ r) 0

/-- R434: schedule firmware runs on the port processors. -/
def portsRun (s : State) : Bool := (lookup s.sec.running 1).isSome

/-- The port of a word's collective flits: one of the up ports, by the word's line as R431 does (log 13). -/
def wordPort (s : State) (off : Nat) : Option Nat := portOf s (2 ^ 18 - 1) off

/-- R437, R438: sends a collective flit of a word to a device. -/
def sendColl (s : State) (type gid rank dev round off : Nat) (payload : List Byte) (rel : Bool := false) : State :=
  match wordPort s off with
  | none => logDevice s false 6 0xffff 0
  | some p =>
    s.send p { flitTo s type dev (BitVec.ofNat 32 round) payload rel with
      gid := BitVec.ofNat 8 gid, inc := BitVec.ofNat 8 (s.coll gid).inc, rank := BitVec.ofNat 8 rank }

/-- R438: writes a word of a result to the frame of a rank's region, where its context maps it. -/
def writeRed (s : State) (c va : Nat) (x : Word) : Except DevFault State :=
  match translate s c va .write with
  | .fault r => .error (.xlate va r)
  | .prot => .error (.prot va)
  | .malformed => .error (.malformed va)
  | .to w pa => match leafLoc w va with
    | .peer _ _ => .error (.prot va)
    | .here key => .ok ((s.used c va .write w pa).poke key (leBytes 4 x.toNat))

/-- R438, R441: writes a result to a device's ranks, and counts those it was written to. What a context does not map is not written (log 13). -/
def writeRanks (off : Nat) (x : Word) : List Member → State → Nat × State
  | [], s => (0, s)
  | m :: r, s => match writeRed s m.ctx (m.base + off) x with
    | .ok s => let (n, s) := writeRanks off x r s; (n + 1, s)
    | .error f => writeRanks off x r (logDevFault s m.ctx f)

/-- R438, R441: a result reaches this device: it is written to its ranks' frames, and counted. -/
def writeResult (s : State) (gid off round mask : Nat) (x : Word) : State :=
  let c := s.coll gid
  let (n, s) := writeRanks off x (c.members.filter (fun m => m.dev == s.link.id)) s
  let s := if mask == 0 then s
    else
      let s := (s.hostStore (c.status + 32) (leBytes 8 off)).hostStore (c.status + 64) (leBytes 32 mask)
      bump s (c.status + 8) n
  let s := bump s c.status n
  s.setColl gid { c with seen := insert c.seen off (round + 1) }

/-- R438: ROOT ends a round: it forms the result and sends it to every member device, itself among them. -/
def endRound (s : State) (gid : Nat) (r : Round) : State :=
  let c := s.coll gid
  let x := formResult c.op r.got c.nrank
  let mask := missingMask r.got c.nrank
  let s := s.setColl gid { c with rounds := c.rounds.filter (fun y => y.off != r.off), closed := insert c.closed r.off (r.number + 1) }
  let devs := (c.members.map (·.dev)).eraseDups
  devs.foldl (fun s d =>
    if d == s.link.id then writeResult s gid r.off r.number mask x
    else sendColl s 7 gid 0 d r.number r.off (leBytes 8 r.off ++ leBytes 4 x.toNat ++ leBytes 32 mask)) s

/-- R438, R439: a contribution reaches ROOT: a straggler is counted; another enters its word's open round, and completes it when it is the last. -/
def rootTakes (s : State) (gid : Nat) (x : Contribution) : State :=
  let c := s.coll gid
  let openNo := (lookup c.closed x.off).getD 0
  let behind := (x.round + 2 ^ 32 - openNo % 2 ^ 32) % 2 ^ 32
  if 2 ^ 31 ≤ behind then bump s (c.status + 16) 1
  else
    let r := (c.rounds.find? (fun y => y.off == x.off)).getD { off := x.off, number := openNo, got := [], since := s.clk }
    let r := { r with got := insert r.got x.rank x.value }
    if r.got.length == c.nrank then endRound s gid r
    else s.setColl gid { c with rounds := c.rounds.filter (fun y => y.off != x.off) ++ [r] }

/-- R437: held contributions that may go now: those whose earlier round's result has arrived. -/
def mayGo (c : Collective) (x : Contribution) : Bool := x.round ≤ (lookup c.seen x.off).getD 0

/-- R437: takes the contributions that may go out of the buffer, in order. -/
def releaseHeld (s : State) (gid : Nat) : List Contribution × State :=
  let c := s.coll gid
  (c.held.filter (mayGo c), s.setColl gid { c with held := c.held.filter (fun x => !mayGo c x) })

/-- R437, R438: sends contributions to ROOT in order; where ROOT is this device it takes them at once, and a result lets more go. -/
def sendAll : Nat → State → Nat → List Contribution → State
  | 0, s, _, _ => s
  | _ + 1, s, _, [] => s
  | n + 1, s, gid, x :: r =>
    let c := s.coll gid
    if c.root == s.link.id then
      let (more, s) := releaseHeld (rootTakes s gid x) gid
      sendAll n s gid (r ++ more)
    else sendAll n (sendColl s 6 gid x.rank c.root x.round x.off (leBytes 8 x.off ++ leBytes 4 x.value.toNat) x.rel) gid r

/-- Sends contributions and all that they let go. -/
def sendContributions (s : State) (gid : Nat) (l : List Contribution) : State :=
  sendAll (l.length + (s.coll gid).held.length + 1) s gid l

/-- The key of a rank's word. -/
def rankWord (rank off : Nat) : Nat := rank * 2 ^ 33 + off

/-- R437: the rank's region a store to a reduce-on-store leaf falls in, as rank and offset; `none` when it is dropped. -/
def contributionAt (s : State) (ctx : Nat) (w : Dword) (va : Nat) : Option (Nat × Nat) :=
  let c := s.coll (leafGid w)
  match c.members[leafRank w]? with
  | none => none
  | some m =>
    if c.bound && c.inc == leafInc w && m.dev == s.link.id && m.ctx == ctx && m.base ≤ va && va - m.base < c.len
    then some (leafRank w, va - m.base) else none

/-- R437: one word stored to a reduce-on-store page. -/
def contribute (rel : Bool) (s : State) (ctx : Nat) (w : Dword) (va : Nat) (x : Word) : State :=
  let gid := leafGid w
  if !portsRun s then logDevice s false 6 0xffff va
  else match contributionAt s ctx w va with
  | none => countStale s gid
  | some (rank, off) =>
    let c := s.coll gid
    let n := (lookup c.sent (rankWord rank off)).getD 0
    let y : Contribution := { port := (wordPort s off).getD 0, rank, off, round := n, value := x, rel }
    let c := { c with sent := insert c.sent (rankWord rank off) (n + 1) }
    if mayGo c y then sendContributions (s.setColl gid c) gid [y]
    else s.setColl gid { c with held := c.held ++ [y] }

/-- R437: the words of a store, in ascending address. -/
def contributeAll (rel : Bool) (s : State) (ctx : Nat) (w : Dword) (va : Nat) : List Byte → State
  | b0 :: b1 :: b2 :: b3 :: r => contributeAll rel (contribute rel s ctx w va (BitVec.ofNat 32 (leNat [b0, b1, b2, b3]))) ctx w (va + 4) r
  | _ => s

/-- R437: words that a port holds. -/
def heldWords (s : State) (port : Nat) : Nat := s.link.groups.foldl (fun k x => k + (x.2.held.filter (fun y => y.port == port)).length) 0

/-- R437: a port holds more than its buffer of 4,096 words takes. -/
def portsFull (s : State) : Bool := (List.range 18).any (fun p => 4096 < heldWords s p)

/-! ### Ordinary stores that the device makes for a group (R192) -/

/-- The pieces of a range that lie in one 64-byte line each. -/
def linePieces : Nat → Nat → Nat → List (Nat × Nat)
  | 0, _, _ => []
  | f + 1, va, n =>
    if n == 0 then []
    else
      let k := 64 - va % 64
      if n ≤ k then [(va, n)] else (va, k) :: linePieces f (va + k) (n - k)

/-- R252, R376: the pages a store of a range meets, or its fault. -/
def storePages (s : State) (c : Nat) : List (Nat × Nat) → Except DevFault (List (Nat × Nat × Dword × Nat))
  | [] => .ok []
  | (va, n) :: r =>
    match translate s c va .write with
    | .fault reason => .error (.xlate va reason)
    | .prot => .error (.prot va)
    | .malformed => .error (.malformed va)
    | .to w pa =>
      let rest := fun (_ : Unit) => (storePages s c r).map (fun l => (va, n, w, pa) :: l)
      match leafLoc w va with
      | .peer _ at_ => match s.peerOf c va w with
        | some (_, ports) => if (portOf s ports at_).isSome then rest () else .error (.prot va)
        | none => .error (.prot va)
      | .here key => if !leafRed w && s.badLine key then .error (.memory va key) else rest ()

/-- A store to memory, to a peer (R432) or to a reduce-on-store page (R376). -/
def storePage (k c : Nat) (s : State) (x : Nat × Nat × Dword × Nat) (b : List Byte) : State :=
  let (va, _, w, pa) := x
  let s := s.used c va .write w pa
  if leafRed w then contributeAll false s c w va b
  else match leafLoc w va with
    | .here key => (holdDirty s c key).poke key b
    | .peer _ at_ => sendPeer s k c va w at_ .plain (.write b) .nobody

/-- Stores the pieces of a range one after another. -/
def storePagesOf (k c : Nat) : List (Nat × Nat × Dword × Nat) → List Byte → State → State
  | [], _, s => s
  | x :: r, b, s => storePagesOf k c r (b.drop x.2.1) (storePage k c s x (b.take x.2.1))

/-- An ordinary store of a range of global addresses in a group's program order; nothing is stored when any part of it faults. -/
def State.storeVA (s : State) (k c va : Nat) (b : List Byte) : Except DevFault State :=
  if 2 ^ 57 < va + b.length then .error (.prot va)
  else (storePages s c (linePieces (b.length / 64 + 2) va b.length)).map fun l => storePagesOf k c l b s

end Sys2Proof.Machine
end

