-- ==== Sys2Proof/Machine/Ops.lean ====
section
/-! DEFINITION. Machine/Ops: a group's registers and lanes, the common part of every issue, taking a trap and returning from one (R96 to R105, R169 to R199). -/
namespace Sys2Proof.Machine

/-- The value of a register in a lane (R102). -/
def VReg.get (r : VReg) (l : Nat) : Word :=
  match r with
  | .u x => x
  | .a base stride => base + BitVec.ofNat 32 l * stride
  | .g lanes => lanes.getD l 0

/-- The value of `lsp` in a lane. -/
def LReg.get (r : LReg) (l : Nat) : Dword :=
  match r with
  | .u x => x
  | .g lanes => lanes.getD l 0

/-- R102: the tag codes. -/
def VReg.tag : VReg → Nat
  | .u _ => 0
  | .a _ _ => 1
  | .g _ => 2

/-- R102: main-file words of a 32-bit register. -/
def VReg.cost (w : Nat) : VReg → Nat
  | .u _ => 1
  | .a _ _ => 2
  | .g _ => w

/-- Lists read and changed lane by lane, from a first lane number up. -/
def mapFrom {α : Type} (f : Nat → α → α) : Nat → List α → List α
  | _, [] => []
  | k, x :: r => f k x :: mapFrom f (k + 1) r

/-- Changes the lanes of a mask. -/
def onLanes {α : Type} (m : Mask) (f : Nat → α) (l : List α) : List α :=
  mapFrom (fun k x => if m.has k then f k else x) 0 l

/-- The tag a write that covers every live lane takes (R104). -/
inductive Shape where
  | u
  | a (base stride : Word)
  | g
  deriving DecidableEq, Repr

/-- R104, R105: a register after a write of `vals` to the lanes of `m`. -/
def VReg.after (width : Nat) (live m : Mask) (shape : Shape) (old : VReg) (vals : Nat → Word) : VReg :=
  let general := VReg.g ((List.range width).map (fun l => if m.has l then vals l else old.get l))
  if live.within m then
    match shape with
    | .u => match m.lanes width with
      | l :: _ => .u (vals l)
      | [] => old
    | .a base stride => .a base stride
    | .g => general
  else if m.lanes width == [] then old
  else general

/-- R104, R105 for `lsp`. -/
def LReg.after (width : Nat) (live m : Mask) (uniform : Bool) (old : LReg) (vals : Nat → Dword) : LReg :=
  match m.lanes width with
  | [] => old
  | l :: _ =>
    if live.within m && uniform then .u (vals l)
    else .g ((List.range width).map (fun k => if m.has k then vals k else old.get k))

namespace Group

/-- A lane's state. -/
def lane (g : Group) (l : Nat) : LaneState := g.lanes.getD l .off

/-- Lanes in a state. -/
def inState (g : Group) (x : LaneState) : Mask := Mask.of g.width (fun l => g.lane l == x)

/-- R169: a lane is live when it is neither done nor off. -/
def live (g : Group) : Mask := Mask.of g.width (fun l => g.lane l != .done && g.lane l != .off)

/-- A lane's PC field (R171). -/
def pc (g : Group) (l : Nat) : Nat := (g.regs.lpc.getD l 0).toNat % 2 ^ 57
/-- A lane's DEPTH field (R171). -/
def depth (g : Group) (l : Nat) : Nat := (g.regs.lpc.getD l 0).toNat / 2 ^ 57

/-- Lanes in `run` that can take part in an issue: in a handler only trap lanes short of their `tret` (R194, R195). -/
def mayRun (g : Group) : Mask :=
  Mask.of g.width (fun l => g.lane l == .run && match g.handler with
    | none => true
    | some h => h.lanes.has l && !h.tret.has l)

/-- The lanes R172 considers: of those, the lanes that are not yielded (R173). -/
def ready (g : Group) : Mask := g.mayRun &&& Mask.of g.width (fun l => !(g.yields.any (fun y => y.lane == l)))

/-- R172: the issue address. -/
def issuePc (g : Group) : Option Nat := minimum ((g.ready.lanes g.width).map g.pc)

/-- R172: the executing lanes at an address. -/
def executing (g : Group) (pc : Nat) : Mask := Mask.of g.width (fun l => g.ready.has l && g.pc l == pc)

/-- R98: a predicate in a lane; `p0` is all true. -/
def pred (g : Group) (n : Nat) : Mask := if n == 0 then BitVec.allOnes 64 else g.regs.p.getD n 0

/-- Lanes whose guard is true. -/
def guarded (g : Group) (ex : Mask) (pred : Fin 8) (neg : Bool) : Mask :=
  ex &&& (if neg then ~~~(g.pred pred.val) else g.pred pred.val)

/-- A scalar register (R96). -/
def sreg (g : Group) (n : Nat) : Dword := g.regs.s.getD n 0

/-- R99: the tag of `lpc` follows its values over the live lanes. -/
def lpcUniform (g : Group) : Bool :=
  match g.live.lanes g.width with
  | [] => true
  | l :: r => r.all (fun k => g.regs.lpc.getD k 0 == g.regs.lpc.getD l 0)

def setRegs (g : Group) (f : Regs → Regs) : Group := { g with regs := f g.regs }

/-- Lanes whose window on a pending result is open (R90). -/
def openLanes (p : Pend) : Mask := Mask.of 64 (fun l => p.part.has l && p.left.getD l 0 != 0)

/-- R90: a pending result's window is open for an issue by `ex`. A scalar is the group's, so lanes that the result's instruction did not cover stand outside its window. -/
def isOpen (p : Pend) (ex : Mask) : Bool := (p.part &&& ex).within (openLanes p) && (!p.scalar || p.part &&& ex != 0)

/-- Pending results of a vector register, in issue order. -/
def vpend (g : Group) (n : Nat) : List Pend := g.pend.filter (fun p => !p.scalar && p.reg == n)

/-- Pending results of a scalar register. -/
def spend (g : Group) (n : Nat) : List Pend := g.pend.filter (fun p => p.scalar && p.reg == n)

/-- R90: a vector register as a lane reads it: the last pending result whose window is closed for the lane, else the register. -/
def vlane (g : Group) (n l : Nat) : Word :=
  (g.vpend n).foldl (fun x p => if p.part.has l && p.left.getD l 0 == 0 then p.vec.get l else x) ((g.regs.v.getD n (.u 0)).get l)

/-- R90, R110: a vector register as a whole, with its tag. -/
def vreg (g : Group) (n : Nat) : VReg :=
  let base := g.regs.v.getD n (.u 0)
  match (g.vpend n).reverse with
  | [] => base
  | p :: _ =>
    let opened := (g.vpend n).foldl (fun m p => m ||| Group.openLanes p) 0
    if opened == 0 then p.vec
    else if (g.vpend n).all (fun p => p.part.within (Group.openLanes p)) then base
    else .g ((List.range g.width).map (g.vlane n))

/-- R90: a scalar register as an issue by `ex` reads it. -/
def sread (g : Group) (ex : Mask) (n : Nat) : Dword :=
  (g.spend n).foldl (fun x p => if isOpen p ex then x else p.sca) (g.sreg n)

/-- The value a vector register ends with: pending results included. -/
def vlast (g : Group) (n : Nat) : VReg :=
  match (g.vpend n).reverse with
  | [] => g.regs.v.getD n (.u 0)
  | p :: _ => p.vec

/-- R107: words of a standpipe partition. -/
def partitionWords : Nat := 512

end Group

/-- Whether a register holds a word for each lane (R102). -/
def VReg.general : VReg → Bool
  | .g _ => true
  | _ => false

def LReg.general : LReg → Bool
  | .g _ => true
  | .u _ => false

/-- R105, R114: which words of a register fail their parity after a write of the lanes of `m`. A word written is new. A lane that keeps a value which came from a failing word keeps a failing word; `per` words make one lane's value. -/
def failing (width per : Nat) (was is_ : Bool) (m : Mask) (bad : List Nat) : List Nat :=
  if bad.isEmpty || m.lanes width == [] then bad
  else if !is_ then []
  else if was then bad.filter (fun k => !m.has (k / per))
  else (List.range (per * width)).filter (fun k => !m.has (k / per))

/-- The words of a register among those of a group, and the group's with those of a register replaced. -/
def badOf (bad : List RegWord) (n : Nat) : List Nat := (bad.filter (fun w => w.reg == n)).map (·.word)
def setBad (bad : List RegWord) (n : Nat) (ks : List Nat) : List RegWord :=
  bad.filter (fun w => !(w.reg == n)) ++ ks.map (fun k => { reg := n, word := k })

namespace Group

/-- R114: the failing words of a register after a write. -/
def marks (g : Group) (n per : Nat) (was is_ : Bool) (m : Mask) : List RegWord :=
  if g.integrity.bad.isEmpty then [] else setBad g.integrity.bad n (failing g.width per was is_ m (badOf g.integrity.bad n))

/-- R109, R114: after a write of the lanes of `m` of a staged register, which was G or not, its entry is dirty. If the region no longer fits, the register leaves the standpipe, and is written back with its words as they are. -/
def restage (g : Group) (n : Nat) (m : Mask) (was : Bool) : Group :=
  match g.staged.find? (fun x => x.reg == n) with
  | none => g
  | some e =>
    let now := g.regs.v.getD n (.u 0)
    let bad := failing g.width 1 was now.general m e.bad
    let words := g.staged.foldl (fun k x => k + (g.regs.v.getD x.reg (.u 0)).cost g.width) 0
    if words ≤ partitionWords then { g with staged := g.staged.map (fun x => if x.reg == n then { x with dirty := true, bad } else x) }
    else { g with staged := g.staged.filter (fun x => x.reg != n)
                  integrity := { g.integrity with bad := if bad.isEmpty && (badOf g.integrity.bad n).isEmpty then g.integrity.bad else setBad g.integrity.bad n bad } }

/-- R90: writes a vector register. Lanes whose window is open change what the register ends with; the others change the register at once. -/
def writeV (g : Group) (n : Nat) (m : Mask) (shape : Shape) (vals : Nat → Word) : Group :=
  let old := g.regs.v.getD n (.u 0)
  let last := (g.vlast n).after g.width g.live m shape vals
  let opened := (g.vpend n).foldl (fun x p => x ||| Group.openLanes p) 0
  let now := if (g.vpend n).isEmpty then m else m &&& ~~~opened
  let base := if (g.vpend n).isEmpty then last
    else old.after g.width (BitVec.allOnes 64) now .g vals
  let pend := g.pend.map (fun p => if !p.scalar && p.reg == n then { p with vec := last, missing := p.missing &&& ~~~m } else p)
  restage { g with
    pend
    regs := { g.regs with v := g.regs.v.set n base }
    integrity := { g.integrity with
      bad := g.marks n 1 old.general base.general now
      dups := g.integrity.dups.filter (fun w => !(w.reg == n)) } } n now old.general

/-- R97: writes a scalar register. -/
def writeS (g : Group) (n : Nat) (x : Dword) : Group :=
  { g with
    pend := g.pend.map (fun p => if p.scalar && p.reg == n then { p with sca := x, missing := 0 } else p)
    regs := { g.regs with s := if (g.spend n).isEmpty || (g.spend n).all (fun p => Group.openLanes p == 0) then g.regs.s.set n x else g.regs.s }
    integrity := { g.integrity with
      bad := g.integrity.bad.filter (fun w => !(w.reg == 128 + n))
      dups := g.integrity.dups.filter (fun w => !(w.reg == 128 + n)) } }

/-- R99, R114: writes `lsp` in the lanes of `m`; its duplicates are updated with it (R113). -/
def writeLsp (g : Group) (m : Mask) (uniform : Bool) (vals : Nat → Dword) : Group :=
  let x := g.regs.lsp.after g.width g.live m uniform vals
  { g with
    regs := { g.regs with lsp := x }
    integrity := { g.integrity with bad := g.marks 225 2 g.regs.lsp.general x.general m } }

/-- R98: writes a predicate in the lanes of `m`; `p0` discards. -/
def writeP (g : Group) (n : Nat) (m : Mask) (x : Mask) : Group :=
  if n == 0 then g else { g with regs := { g.regs with p := g.regs.p.set n ((g.pred n &&& ~~~m) ||| (x &&& m)) } }

/-- R38, R101: ORs flags into `gs`. -/
def orFlags (g : Group) (f : Word) : Group := { g with regs := { g.regs with gs := g.regs.gs ||| f.zeroExtend 64 } }

/-- Sets the states of lanes. -/
def setLanes (g : Group) (m : Mask) (x : LaneState) : Group := { g with lanes := onLanes m (fun _ => x) g.lanes }

/-- Sets lanes' `lpc`; its words are new, and its duplicates are updated with it (R113). -/
def setLpc (g : Group) (m : Mask) (f : Nat → Dword) : Group :=
  { g with
    regs := { g.regs with lpc := onLanes m f g.regs.lpc }
    integrity := { g.integrity with bad := g.integrity.bad.filter (fun w => !(w.reg == 224 && m.has (w.word / 2))) } }

/-- R90: a lane's PC field replaced, its DEPTH kept. -/
def withPc (g : Group) (l pc : Nat) : Dword := BitVec.ofNat 64 (g.depth l * 2 ^ 57 + pc % 2 ^ 57)

end Group

/-- R70: the sequential successor of a PC. -/
def nextPc (pc : Nat) : Nat := if pc % 64 == 48 then pc + 16 else pc + 12

/-- R70: a PC is the address of a slot. -/
def pcOk (pc : Nat) : Bool := pc % 64 == 0 || pc % 64 == 12 || pc % 64 == 24 || pc % 64 == 36 || pc % 64 == 48

/-- The state of an issue: the group, its team and launch, the issue address, the executing lanes and those whose guard is true. -/
structure Issue where
  key : Nat
  core : Nat
  slot : Nat
  g : Group
  t : Team
  l : Launch
  pc : Nat
  ex : Mask
  gd : Mask
  deriving DecidableEq, Repr

/-- What an instruction's own description comes to. -/
inductive Verdict where
  /-- It commits: `stay` names executing lanes that did not (they wait or are parked), `moved` those whose PC it set itself. -/
  | commit (s : State) (stay moved : Mask)
  /-- It has not issued, and holds. -/
  | hold (s : State)
  /-- It raises a fault (R197) and commits for no lane. -/
  | trap (s : State) (code detail faddr : Nat) (lanes : Mask)
  /-- It commits and then traps (R190, R199). -/
  | after (s : State) (stay : Mask) (code detail faddr : Nat) (lanes : Mask)
  deriving DecidableEq, Repr

/-- R91: the group as an instruction reads it: the second slot of a pair reads every register as it was before the first. -/
def State.reading (s : State) (g : Group) : Group :=
  match s.env.before with
  | some b => { g with regs := b.regs, pend := b.pend }
  | none => g

/-- The issue of the group `cur` names, with the guard of an instruction. -/
def State.issue (s : State) (pred : Fin 8) (neg : Bool) : Option Issue :=
  match s.env.cur with
  | .group core slot =>
    let key := groupKey core slot
    match s.group key with
    | none => none
    | some g =>
      match g.issuePc, lookup s.teams g.team, lookup s.launches g.launch with
      | some pc, some t, some l =>
        let ex := g.executing pc
        let g := s.reading g
        some { key, core, slot, g, t, l, pc, ex, gd := g.guarded ex pred neg }
      | _, _, _ => none
  | _ => none

/-! ### Rejoin sets -/

/-- R176: lets a set complete if its arrived mask has become equal to its members. -/
def completeSet (g : Group) (n : Nat) : Group :=
  let x := g.regs.j.getD n {}
  if x.members != 0 && x.arrived == x.members then
    let back := x.arrived &&& g.inState .wait
    { g.setLanes back .run with regs := { g.regs with j := g.regs.j.set n { x with arrived := 0 } } }
  else g

/-- R176 for all eight sets. -/
def completeSets (g : Group) : Group := (List.range 8).foldl completeSet g

/-- R178: lanes leave every set; this can complete sets. -/
def quitSets (g : Group) (m : Mask) : Group :=
  let j := g.regs.j.map (fun x => { x with members := x.members &&& ~~~m, arrived := x.arrived &&& ~~~m })
  completeSets { g with regs := { g.regs with j } }

/-- R179: every lane that could move waits on a set: outside a handler every live lane, in a handler every handler lane short of `tret` (R195). -/
def deadlocked (g : Group) : Bool :=
  let who := match g.handler with
    | none => g.live
    | some h => h.lanes &&& g.live &&& ~~~h.tret
  who != 0 && who.within (g.inState .wait)

/-! ### Windows of long-latency results (R90) -/

/-- Closes every window. -/
def closeWindows (g : Group) : Group := { g with pend := g.pend.map (fun p => { p with left := p.left.map (fun _ => 0) }) }

/-- Counts one instruction for the lanes of `m` against the windows of results issued before `seq`; `jump` closes the windows of its lanes. -/
def countWindows (g : Group) (seq : Nat) (m jump : Mask) : Group :=
  { g with pend := g.pend.map (fun p =>
      if p.seq < seq then
        { p with left := mapFrom (fun l n => if jump.has l then 0 else if m.has l then n - 1 else n) 0 p.left }
      else p) }

/-- Moves results that have arrived, and whose windows are all closed, into their registers, in issue order. -/
def settlePends : List Pend → List (Bool × Nat) → Regs → List Pend × Regs
  | [], _, r => ([], r)
  | p :: rest, blocked, r =>
    if p.arrived && p.left.all (· == 0) && !blocked.contains (p.scalar, p.reg) then
      settlePends rest blocked
        (if p.scalar then { r with s := r.s.set p.reg p.sca } else { r with v := r.v.set p.reg p.vec })
    else
      let (ps, r) := settlePends rest ((p.scalar, p.reg) :: blocked) r
      (p :: ps, r)

/-- R109, R114: the register a result has just moved into: its new words pass, and its standpipe entry is dirty. -/
def markMoved (was : List VReg) (g : Group) (p : Pend) : Group :=
  if p.scalar then { g with integrity := { g.integrity with bad := g.integrity.bad.filter (fun w => !(w.reg == 128 + p.reg)) } }
  else
    let old := (was.getD p.reg (.u 0)).general
    Group.restage { g with integrity := { g.integrity with bad := g.marks p.reg 1 old (g.regs.v.getD p.reg (.u 0)).general p.part } } p.reg p.part old

def settle (g : Group) : Group :=
  let (pend, regs) := settlePends g.pend [] g.regs
  let moved := g.pend.filter (fun p => !pend.any (fun q => q.seq == p.seq && q.reg == p.reg && q.scalar == p.scalar))
  moved.foldl (markMoved g.regs.v) { g with pend, regs }

/-- A read or write of the register waits: a window is closed and the result has not arrived. -/
def busy (g : Group) (ex : Mask) (scalar : Bool) (n : Nat) : Bool :=
  g.pend.any (fun p => p.scalar == scalar && p.reg == n && !p.arrived && !Group.isOpen p ex)

/-- Adds a long-latency result for a vector register: `look` instructions of the covered lanes see its old value. -/
def pendV (g : Group) (n look : Nat) (m : Mask) (shape : Shape) (vals : Nat → Word) (flags : Word := 0) : Group :=
  let vec := (g.vlast n).after g.width g.live m shape vals
  { g with integrity := { g.integrity with dups := g.integrity.dups.filter (fun w => w.reg != n) }
           pend := g.pend ++ [{ seq := g.nextSeq, scalar := false, reg := n, vec, sca := 0, part := m,
                                left := (List.range g.width).map (fun l => if m.has l then look else 0), arrived := false, flags }] }

/-- The same for a scalar register. -/
def pendS (g : Group) (n look : Nat) (m : Mask) (x : Dword) (flags : Word := 0) : Group :=
  { g with integrity := { g.integrity with dups := g.integrity.dups.filter (fun w => w.reg != 128 + n) }
           pend := g.pend ++ [{ seq := g.nextSeq, scalar := true, reg := n, vec := .u 0, sca := x, part := m,
                                left := (List.range g.width).map (fun l => if m.has l then look else 0), arrived := false, flags }] }

/-! ### Yielded lanes (R173) -/

/-- Records an issue by `ex` against the yields that stood before it, and ends the yield of every lane that every other lane in `run` has passed. For a lane outside a handler every lane in `run` counts; for a lane of the handler those that can issue: lanes that the handler holds back, and its lanes past their `tret`, do not count (log 62). -/
def settleYields (g : Group) (before : List Yield) (ex : Mask) : Group :=
  let ys := g.yields.map (fun y => if before.any (fun z => z.lane == y.lane) then { y with issued := y.issued ||| ex } else y)
  let yielded := ys.foldl (fun m y => m.add y.lane) (0 : Mask)
  let run := fun (l : Nat) => if g.handler.any (fun h => h.lanes.has l) then g.mayRun else g.inState .run
  { g with yields := ys.filter (fun y => !(((run y.lane).del y.lane).within (y.issued ||| yielded))) }

/-! ### Chain counts (R183) -/

/-- The key of an item's chain slot. -/
def chainKey (slot item : Nat) : Nat := slot * 2 ^ 48 + item
def Launch.chainItem (l : Launch) (slot item : Nat) : ChainItem := (lookup l.chain (chainKey slot item)).getD {}
def Launch.setChain (l : Launch) (slot item : Nat) (x : ChainItem) : Launch := { l with chain := insert l.chain (chainKey slot item) x }
/-- The linear index of a lane's item (R157). -/
def Group.item (g : Group) (l : Nat) : Nat := g.index * g.width + l

/-! ### Traps -/

def LaneState.code : LaneState → Nat
  | .run => 0
  | .wait => 1
  | .chainwait => 2
  | .parked => 3
  | .done => 4
  | .off => 5

def LaneState.ofCode : Nat → Option LaneState
  | 0 => some .run
  | 1 => some .wait
  | 2 => some .chainwait
  | 3 => some .parked
  | 4 => some .done
  | 5 => some .off
  | _ => none

/-- R128: lane states, 4 bits a lane, in 32 bytes. -/
def stateBytes (l : List LaneState) : List Byte :=
  leBytes 32 (l.foldr (fun x n => x.code + 16 * n) 0)

/-- R128: the eight sets, 20 bytes each. -/
def setBytes (j : List JSet) : List Byte :=
  j.flatMap (fun x => leBytes 8 x.members.toNat ++ leBytes 8 x.arrived.toNat ++ leBytes 4 x.entry)

/-- R128: chain positions: reads and publications, 16 bits each, for four slots of 64 lanes. -/
def chainBytes (g : Group) (l : Launch) : List Byte :=
  (List.range 4).flatMap fun c => (List.range 64).flatMap fun i =>
    if i < g.width then
      let x := l.chainItem c (g.item i)
      leBytes 2 x.reads ++ leBytes 2 x.pubs.length
    else [0, 0, 0, 0]

/-- R193: `lpc` of lanes 0 to 63. -/
def lpcBytes (l : List Dword) : List Byte :=
  (l.flatMap (fun (x : Dword) => leBytes 8 x.toNat) ++ List.replicate 512 0).take 512

/-- R193: the trap save area. -/
def trapArea (g : Group) (l : Launch) (code detail pc faddr : Nat) (lanes : Mask) (saved : Nat) : List Byte :=
  leBytes 2 code ++ leBytes 2 detail ++ leBytes 4 0 ++ leBytes 8 pc ++ leBytes 8 faddr ++ leBytes 8 lanes.toNat ++
    stateBytes (onLanes lanes (fun _ => .run) g.lanes) ++
    lpcBytes (onLanes lanes (fun i => g.withPc i saved) g.regs.lpc) ++
    setBytes g.regs.j ++ chainBytes g l ++ leBytes 32 0

/-! ### Words that fail their parity (R113 to R115) -/

/-- R102, R112: the lane whose value a word of a register is part of, where it is one lane's. -/
def wordLane (g : Group) (n k : Nat) : Option Nat :=
  if n < 128 then (if (g.regs.v.getD n (.u 0)).general then some k else none)
  else if (n == 224 && !g.lpcUniform) || (n == 225 && g.regs.lsp.general) then some (k / 2)
  else none

/-- The place in an event record that names a register and lane (R114). -/
def wordPlace (g : Group) (w : RegWord) : Nat := w.reg + 256 * (wordLane g w.reg w.word).getD 0

/-- R114: a word that failed is mended by its duplicate, and logged as corrected; or it is logged as uncorrected, and `false` says so. -/
def mendWord (k : Nat) (x : State × Bool) (w : RegWord) : State × Bool :=
  match x.1.group k with
  | none => x
  | some g =>
    if g.integrity.dups.contains w then
      (logEvent (x.1.setGroup k { g with integrity := { g.integrity with bad := g.integrity.bad.filter (· != w) } })
        g.ctx true 2 (k / 64) (k % 64) (wordPlace g w) 0 0, x.2)
    else (logEvent x.1 g.ctx false 2 (k / 64) (k % 64) (wordPlace g w) 0 0, false)

/-- R196: halts a group and reports it. -/
def haltGroup (s : State) (k first second pc : Nat) (lanes : Mask) : State :=
  match s.group k, (s.group k).bind (fun g => lookup s.launches g.launch) with
  | some g, some l =>
    let s := s.setGroup k { g with halted := true }
    report s g.ctx (record 64 [(2, 1), (2, 18), (2, first), (2, second), (2, k / 64), (1, k % 64), (1, g.width), (4, 0), (8, g.index),
      (8, l.addr), (8, pc), (8, lanes.toNat)])
  | _, _ => s

/-- R109: the standpipe's dirty entries are written back, failing words as they are (log 63). -/
def cleanStaged (g : Group) : Group :=
  { g with
    staged := g.staged.map (fun x => { x with dirty := false })
    integrity := { g.integrity with bad := g.staged.foldl (fun b x => if x.dirty && !(x.bad.isEmpty && (badOf b x.reg).isEmpty) then setBad b x.reg x.bad else b) g.integrity.bad } }

/-- R90, R192: a scalar that the device itself reads once every window has closed. -/
def Group.final (g : Group) (n : Nat) : Dword := g.sread (BitVec.allOnes 64) n

/-- R191, R192, R351: what a trap waits for: a value of `s62` or `s63` that a peer has still to send (log 64), and what a plain store of the group waits for, since the area's stores are such. -/
def trapAwaits (s : State) (key : Nat) (g : Group) : Bool :=
  g.pend.any (fun p => p.scalar && (p.reg == 62 || p.reg == 63) && p.missing != 0) || mustWait s key .plain true

/-- R114: the words of `s62` and `s63` that fail their parity. -/
def trapWords (g : Group) : List RegWord := g.integrity.bad.filter (fun w => w.reg == 190 || w.reg == 191)

/-- R192: the group in its handler. -/
def enterHandler (g : Group) (code saved : Nat) (lanes : Mask) : Group :=
  let h : Handler := {
    lanes, cause := code
    states := onLanes lanes (fun _ => .run) g.lanes
    lpcs := onLanes lanes (fun i => g.withPc i saved) g.regs.lpc
    sets := g.regs.j }
  let g' := (g.setLanes lanes .run).setLpc lanes (fun _ => BitVec.ofNat 64 ((g.final 62).toNat % 2 ^ 57))
  { g' with
    handler := some h
    yields := g.yields.filter (fun y => !lanes.has y.lane)
    regs := { g'.regs with j := List.replicate 8 {} } }

/-- R192: taking a fault. `saved` is the PC the trap lanes resume at. The area's stores are ordinary stores of the group. A word of `s62` or `s63` that nothing mends halts the group (log 63). -/
def takeTrap (s : State) (k code detail pc saved faddr : Nat) (lanes : Mask) : State :=
  match s.group k, (s.group k).bind (fun g => lookup s.launches g.launch) with
  | some g, some l =>
    let g := settle (cleanStaged (closeWindows { g with inbox := [] }))
    let s := s.setGroup k g
    match g.handler with
    | some h => haltGroup s k h.cause code pc lanes
    | none =>
      let area := (g.final 63).toNat
      let (s, sound) := (trapWords g).foldl (mendWord k) (s, true)
      if !sound then haltGroup s k code 15 pc lanes
      else if g.final 62 == 0 || area % 64 != 0 || area / 2 ^ 57 != 0 then haltGroup s k code 0 pc lanes
      else
        match s.storeVA k g.ctx area (trapArea g l code detail pc faddr lanes saved) with
        | .error f => haltGroup (logDevFault s g.ctx f) k code f.code pc lanes
        | .ok s => s.onGroup k (fun g => enterHandler g code saved lanes)
  | _, _ => s

/-! ### The end of an issue -/

/-- The group's part of a committed issue: lanes go on, windows and yields are counted, arrived results settle. -/
def Group.advance (g : Group) (is : Issue) (stay moved : Mask) : Group :=
  let acted := is.ex &&& ~~~stay
  let g := g.setLpc (acted &&& ~~~moved) (fun l => g.withPc l (nextPc is.pc))
  settle (settleYields (countWindows { g with inbox := [] } is.g.nextSeq acted moved) is.g.yields is.ex)

/-- The core remembers who issued last (R174). -/
def State.issued (s : State) (is : Issue) : State :=
  s.setCore is.core { s.core is.core with lastAge := is.g.age }

/-- Brings an instruction's verdict into the state. -/
def Issue.finish (is : Issue) : Verdict → Host.Outcome State Fault Refusal
  | .commit s' stay moved => .next ((s'.onGroup is.key (fun g => g.advance is stay moved)).issued is)
  | .hold s' => .next { s' with env := { s'.env with held := true } }
  | .trap s' code detail faddr lanes => .next ((takeTrap s' is.key code detail is.pc is.pc faddr lanes).issued is)
  | .after s' stay code detail faddr lanes =>
    .next ((takeTrap (s'.onGroup is.key (fun g => g.advance is stay 0)) is.key code detail is.pc (nextPc is.pc) faddr lanes).issued is)

/-! ### What an instruction's registers meet before it runs -/

/-- A register an instruction names, by specifier code (R77): 0 to 127 a vector, 128 to 191 a scalar, others in the register tables. -/
abbrev RegCode := Nat

/-- R114: the failing words of a register that a lane of `m` reads. -/
def badWords (g : Group) (m : Mask) (n : RegCode) : List RegWord :=
  g.integrity.bad.filter (fun w => w.reg == n && match wordLane g n w.word with
    | some l => m.has l
    | none => true)

/-- The executing lanes that a failing word concerns. -/
def wordLanes (g : Group) (m : Mask) (w : RegWord) : Mask :=
  match wordLane g w.reg w.word with
  | some l => m &&& Mask.bit l
  | none => m

/-- A check of registers on its way: the state, and the lanes that raise REG_PARITY. -/
abbrev Checking := State × Mask

/-- R114: one word is mended, or its lanes raise REG_PARITY. -/
def checkWord (is : Issue) (x : Checking) (w : RegWord) : Checking :=
  let y := mendWord is.key (x.1, true) w
  (y.1, if y.2 then x.2 else x.2 ||| wordLanes is.g is.ex w)

/-- R109, R114: a register that is read: its main-file words, or, where it is staged, the words of its entry. The failing words of a clean entry are staged again from the main file and logged as corrected; those of a dirty one raise REG_PARITY. -/
def checkReg (is : Issue) (x : Checking) (n : RegCode) : Checking :=
  match (x.1.group is.key).bind (fun g => g.staged.find? (fun e => e.reg == n)) with
  | none => (badWords is.g is.ex n).foldl (checkWord is) x
  | some e =>
    let bad := (e.bad.map (fun k => { reg := n, word := k : RegWord })).filter (fun w => wordLanes is.g is.ex w != 0)
    if bad.isEmpty then x
    else
      let log := fun (s : State) (corrected : Bool) => bad.foldl (fun s w =>
        logEvent s is.g.ctx corrected 2 is.core is.slot (wordPlace is.g w) 0 0) s
      if e.dirty then (log x.1 false, bad.foldl (fun m w => m ||| wordLanes is.g is.ex w) x.2)
      else
        let y := ((badWords is.g is.ex n).filter bad.contains).foldl (checkWord is) (x.1, 0)
        if y.2 != 0 then (y.1, x.2 ||| y.2)
        else (log (y.1.onGroup is.key (fun g => { g with staged := g.staged.map (fun z =>
          if z.reg == n then { z with bad := z.bad.filter (fun k => !bad.contains { reg := n, word := k }) } else z) })) true, x.2)

/-- R114: a register table in double-bit error. -/
def checkTable (is : Issue) (x : Checking) (n : RegCode) : Checking :=
  match x.1.group is.key with
  | none => x
  | some g =>
    if g.integrity.tables.contains n then
      (logEvent (x.1.setGroup is.key { g with integrity := { g.integrity with tables := g.integrity.tables.filter (· != n) } })
        g.ctx false 3 is.core is.slot n 0 0, is.ex)
    else x

/-- R114: nothing of a group's register storage fails. -/
def soundStore (g : Group) : Bool :=
  g.integrity.bad.isEmpty && g.integrity.tables.isEmpty && g.staged.all (fun x => x.bad.isEmpty)

/-- R114: the registers an instruction reads are checked. -/
def checkRegs (s : State) (is : Issue) (reads : List RegCode) : Checking :=
  if soundStore is.g then (s, 0)
  else reads.eraseDups.foldl (fun x n => checkTable is (checkReg is x n) n) (s, 0)

/-- R90: a register the instruction reads or writes awaits its result. -/
def mustAwait (is : Issue) (regs : List RegCode) : Bool := regs.any (fun n => busy is.g is.ex (n ≥ 128) (if n ≥ 128 then n - 128 else n))

/-- R95: what an instruction's fault of a higher precedence than REG_PARITY rests on: a fault that no register decides, then one that the registers `needs` decide, the one a code for all executing lanes, the other what the issue comes to. -/
structure Ahead where
  first : Issue → Option Nat := fun _ => none
  needs : List RegCode := []
  second : Issue → State → Option Verdict := fun _ _ => none

/-- Brings a verdict into the state, but for a trap that has to wait. -/
def Issue.conclude (is : Issue) (s : State) (v : Verdict) : Host.Outcome State Fault Refusal :=
  match v with
  | .commit .. => is.finish v
  | .hold _ => is.finish v
  | _ => if trapAwaits s is.key is.g then is.finish (.hold s) else is.finish v

/-- R115: a group that has resumed raises REG_PARITY once. -/
def resumeFault (s : State) (is : Issue) : State := s.onGroup is.key (fun g => { g with integrity := { g.integrity with resume := false } })

/-- R95, R114, R115: REG_PARITY where it is due, else the instruction's own effect. -/
def afterParity (is : Issue) (x : Checking) (go : State → Host.Outcome State Fault Refusal) (s : State) : Host.Outcome State Fault Refusal :=
  if x.2 != 0 then is.conclude s (.trap x.1 15 0 0 x.2) else go x.1

/-- The common frame of every group instruction: the issue, the wait for its registers (R90), the faults in the order of R95, its own effect, and the end of the issue. -/
def State.run (s : State) (pred : Fin 8) (neg : Bool) (reads writes : List RegCode) (body : Issue → State → Verdict) (ahead : Ahead := {}) :
    Host.Outcome State Fault Refusal :=
  match s.issue pred neg with
  | none => .fault .noIssuer
  | some is =>
    if mustAwait is (reads ++ writes) then is.finish (.hold s)
    else match ahead.first is with
    | some code => is.conclude s (.trap s code 0 0 is.ex)
    | none =>
      afterParity is (checkRegs s is ((192 + pred.val) :: 224 :: ahead.needs)) (s := s) fun s' =>
        match ahead.second is s' with
        | some v => is.conclude s v
        | none =>
          if is.g.integrity.resume then is.conclude s (.trap (resumeFault s' is) 15 0 0 is.ex)
          else afterParity is (checkRegs s' is reads) (s := s) fun s'' => is.conclude s (body is s'')

end Sys2Proof.Machine
end

