-- ==== Sys2Proof/Machine/Flags.lean ====
section
/-! DEFINITION. Machine/Flags: the group status and its flags (R38 to R41, R101). -/
namespace Sys2Proof.Machine

/-- R101: DUP, SA and SAT of a group. -/
def Group.dup (g : Group) : Bool := g.regs.gs.getLsbD 9
def Group.sa (g : Group) : Bool := g.regs.gs.getLsbD 8
def Group.sat (g : Group) : Bool := g.regs.gs.getLsbD 5

/-- R41: the next barrier instruction raises SAT_TRAP. -/
def Group.satTraps (g : Group) : Bool := g.sa && g.sat

/-- R101: a write of `gs` takes bits 9 to 0 as given. -/
def gsValue (x : Dword) : Dword := x &&& 0x3ff#64

/-- R38 to R40: merges flags into a group's `gs`, if the group is still there. -/
def State.mergeFlags (s : State) (key : Nat) (f : Word) : State := s.onGroup key (fun g => g.orFlags f)

/-- An integer clamp sets SAT when it clamps (R36). -/
def satFlag (clamped : Bool) : Word := if clamped then fSAT else 0

end Sys2Proof.Machine
end

