-- ==== Sys2Proof/Machine/PlaneForm.lean ====
section
/-! DEFINITION. Machine/PlaneForm: blocks of the plane array's operand form (R42 to R46). -/
namespace Sys2Proof.Machine

/-- A block of 32 elements: X, P, signs and magnitudes (R42). -/
structure Block where
  x : Nat
  p : Nat
  neg : List Bool
  mag : List Nat
  deriving DecidableEq, Repr

/-- A block every element of which is zero, or, with X = 255, NaN. -/
def Block.flat (x p : Nat) : Block := { x, p, neg := List.replicate 32 false, mag := List.replicate 32 0 }

/-- The exponent of the largest magnitude of finite data: floor(log2 |x|). -/
def topExponent (l : List FVal) : Option Int :=
  l.foldl (fun e x => match x with
    | .fin _ m k => if m == 0 then e else
      let t : Int := (Nat.log2 m : Int) + k
      match e with
      | none => some t
      | some u => some (max t u)
    | _ => e) none

/-- round(|x| / 2^scale, integer, rn), and whether it is exact. -/
def quantise (x : FVal) (scale : Int) : Nat × Bool :=
  match x with
  | .fin _ m e => roundShift .rn false m false (scale - e)
  | _ => (0, true)

def FVal.sign : FVal → Bool
  | .fin n _ _ => n
  | .inf n => n
  | .nan _ => false

def FVal.isZero : FVal → Bool
  | .fin _ m _ => m == 0
  | _ => false

/-- R43: converts a block of data to plane form with precision P, with the flags it sets. `big` is the largest finite value of the source format, which replaces an infinity. -/
def toPlane (p : Nat) (big : Nat × Int) (l : List FVal) : Block × Word :=
  if l.any FVal.isNan then (Block.flat 255 p, 0)
  else
    let hasInf := !(infSigns l).isEmpty
    let l := l.map (fun x => match x with
      | .inf n => .fin n big.1 big.2
      | y => y)
    let f0 := satFlag hasInf
    match topExponent l with
    | none => ({ Block.flat 0 p with neg := List.replicate 32 false }, f0)
    | some e =>
      let x0 := (clampInt 0 254 (e + 127)).toNat
      let at_ := fun (x : Nat) => l.map (fun v => quantise v ((x : Int) - 127 - p + 1))
      let big_ := fun (q : List (Nat × Bool)) => q.any (fun v => 2 ^ p ≤ v.1)
      let x1 := if big_ (at_ x0) && x0 < 254 then x0 + 1 else x0
      let q := at_ x1
      let mag := q.map (fun v => min v.1 (2 ^ p - 1))
      let clamped := big_ q
      let nx := (q.zip mag).any (fun v => !v.1.2 || v.1.1 != v.2)
      let uf := (l.zip mag).any (fun v => !v.1.isZero && v.2 == 0)
      ({ x := x1, p, neg := l.map FVal.sign, mag },
        f0 ||| satFlag clamped ||| (if nx then fNX else 0) ||| (if uf then fUF else 0))

/-- R44: an MXFP4 block, codes of E2M1 and a scale, to P = 4. -/
def mxToPlane (scale : Nat) (codes : List Nat) : Block × Word :=
  if scale == 255 then (Block.flat 255 4, 0)
  else
    let x := min (scale + 2) 254
    let up := scale + 2 - x
    let exact := codes.map (fun c => (e2m1 c).2 * 2 ^ up)
    let clamped := exact.any (fun m => 15 < m)
    ({ x, p := 4, neg := codes.map (fun c => (e2m1 c).1), mag := exact.map (fun m => min m 15) },
      if clamped then fSAT ||| fNX else 0)

/-- A plane of bits as a number: bit j for element j. -/
def planeOf (l : List Bool) : Nat :=
  l.foldr (fun b n => (if b then 1 else 0) + 2 * n) 0

/-- R42: word k of a block: the header, the sign plane, then the magnitude planes. -/
def Block.word (b : Block) (k : Nat) : Nat :=
  match k with
  | 0 => b.x + 256 * b.p
  | 1 => if b.x == 255 then 0 else planeOf b.neg
  | k + 2 => if k < b.p then planeOf (b.mag.map (fun m => m / 2 ^ (b.p - 1 - k) % 2 == 1)) else 0

/-- R42: the bytes of a block. -/
def Block.bytes (b : Block) : List Byte := (List.range (b.p + 2)).flatMap (fun k => leBytes 4 (b.word k))

/-- R42: reads a block of identifier precision P. A malformed header, or one whose P differs, reads as NaN and sets RC (R293, R297). -/
def readBlock (p : Nat) (l : List Byte) : Block × Word :=
  let h := field l 0 4
  let x := h % 256
  let hp := h / 256 % 256
  if h / 65536 != 0 || hp != p then (Block.flat 255 p, fRC)
  else if x == 255 then (Block.flat 255 p, 0)
  else
    let sign := field l 4 4
    let plane := fun k => field l (8 + 4 * k) 4
    ({ x, p, neg := (List.range 32).map (fun j => sign.testBit j)
       mag := (List.range 32).map (fun j =>
         (List.range p).foldl (fun m k => 2 * m + (if (plane k).testBit j then 1 else 0)) 0) }, 0)

/-- R45, R46: the exact product of an A and a B block at declared precisions: an integer and the exponent of its scale; `none` when either is NaN. -/
def blockProduct (a b : Block) (pa pb : Nat) : Option (Int × Int) :=
  if a.x == 255 || b.x == 255 then none
  else
    let qa := min pa a.p
    let qb := min pb b.p
    let term := fun (j : Nat) =>
      let x : Int := (a.mag.getD j 0 / 2 ^ (a.p - qa) * (b.mag.getD j 0 / 2 ^ (b.p - qb)) : Nat)
      if a.neg.getD j false != b.neg.getD j false then -x else x
    some ((List.range 32).foldl (fun s j => s + term j) 0, (a.x : Int) + b.x - 254 - (qa - 1) - (qb - 1))

/-- The largest finite value of a source format as m × 2^e, for R43. -/
def fmtBig (f : Fmt) : Nat × Int :=
  match f.decode f.maxCode with
  | .fin _ m e => (m, e)
  | _ => (0, 0)

end Sys2Proof.Machine
end

