-- ==== Sys2Proof/Machine/FaultBuffer.lean ====
section
/-! DEFINITION. Machine/FaultBuffer: entries of the fault buffers, their waiters and their records (R382, R383). -/
namespace Sys2Proof.Machine

/-- A replayable fault to be entered: where, which access, who waits, and what its record names. -/
structure FaultIn where
  die : Nat
  ctx : Nat
  va : Nat
  reason : Nat
  write : Bool
  fetch : Bool := false
  atomic : Bool := false
  core : Nat := 0
  slot : Nat := 0xff
  job : Bool := false
  card : Nat := 0
  waiter : Waiter
  deriving DecidableEq, Repr

/-- R382: a ticket from its die, index and sequence. -/
def FaultEntry.ticket (e : FaultEntry) : Word := BitVec.ofNat 32 (e.die * 2 ^ 30 + e.index * 2 ^ 18 + e.seq)

/-- R383: the fault queue's record of a new entry. -/
def faultRecord (ticket : Word) (f : FaultIn) : List Byte :=
  record 32 [(4, ticket.toNat), (2, f.ctx), (1, 1), (1, f.reason), (8, f.va), (2, f.core), (1, f.slot),
    (1, (if f.write then 1 else 0) + (if f.fetch then 2 else 0) + (if f.atomic then 4 else 0) + (if f.job then 8 else 0)), (8, f.card)]

/-- Entries of one die's buffer (R382): 4,096. -/
def bufferSize : Nat := 4096

/-- The lowest free index of a die's buffer from `k` on. DESIGN CHOICE (log 9): the manual does not say which free entry is taken. -/
def freeIndex (l : List FaultEntry) (die : Nat) : Nat → Nat → Option Nat
  | 0, _ => none
  | n + 1, k => if l.any (fun e => e.die == die && e.index == k) then freeIndex l die n (k + 1) else some k

/-- R382: an open or reported entry that a fault shares. -/
def shares (f : FaultIn) (e : FaultEntry) : Bool :=
  e.die == f.die && e.ctx == f.ctx && e.page == f.va / 4096 * 4096 && e.write == f.write && e.state != .replayPending

/-- Adds a waiter to the first entry that a test picks. -/
def addWaiter (p : FaultEntry → Bool) (w : Waiter) : List FaultEntry → List FaultEntry
  | [] => []
  | e :: r => if p e then { e with waiters := if e.waiters.contains w then e.waiters else e.waiters ++ [w] } :: r else e :: addWaiter p w r

/-- R382: enters a fault: it joins an entry or makes one; `none` when the buffer is full. The state holds the waiting record, and the answer the entry's ticket. -/
def enterFault (s : State) (f : FaultIn) : Option (Word × State) :=
  match s.faults.find? (shares f) with
  | some e => some (e.ticket, { s with faults := addWaiter (shares f) f.waiter s.faults })
  | none =>
    match freeIndex s.faults f.die bufferSize 0 with
    | none => none
    | some index =>
      let slot := f.die * bufferSize + index
      let seq := ((lookup s.ticketSeqs slot).getD 0 + 1) % 2 ^ 18
      let e : FaultEntry := { die := f.die, index, seq, ctx := f.ctx, state := .opened, reason := f.reason,
                              page := f.va / 4096 * 4096, write := f.write, waiters := [f.waiter], record := [] }
      let e := { e with record := faultRecord e.ticket f }
      let fn := (s.ctx f.ctx).desc.func
      let x := s.func fn
      let s := s.setFunc fn { x with waiting := x.waiting ++ [(e.ticket, e.record)] }
      some (e.ticket, { s with faults := s.faults ++ [e], ticketSeqs := insert s.ticketSeqs slot seq })

/-- Enters a list of faults; `none` when one finds no room. -/
def enterFaults (s : State) : List FaultIn → Option State
  | [] => some s
  | f :: r =>
    match enterFault s f with
    | none => none
    | some (_, s) => enterFaults s r

end Sys2Proof.Machine
end

