-- ==== Sys2Proof/Machine/Access.lean ====
section
/-! DEFINITION. Machine/Access: how a lane's address resolves, and the checks of memory instructions (R244 to R252, R376). -/
namespace Sys2Proof.Machine

/-- Where a lane's access lands: its team's cistern, or a page with its leaf. -/
inductive Place where
  | sram (key : Nat)
  | page (va : Nat) (leaf : Dword) (leafPa : Nat)
  deriving DecidableEq, Repr

/-- What a lane's access comes to before it is made (R252). -/
inductive Access where
  | ok (p : Place)
  | align
  | prot
  | malformed (va : Nat)
  | xlate (va reason : Nat)
  deriving DecidableEq, Repr

/-- A team's member whose core a group runs on: 0 or 1 (R162). -/
def Team.memberOf (t : Team) (core : Nat) : Nat := if t.cores.getD 0 core == core then 0 else 1

/-- R246: the byte of a team's directly addressed window at an offset. -/
def directKey (t : Team) (l : Launch) (off : Nat) : Option Nat :=
  let c := l.record.cistern
  if off < c then some (cisternKey (t.cores.getD 0 0) (t.cistern.getD 0 0 + off))
  else if l.record.pair && off < 2 * c then some (cisternKey (t.cores.getD 1 0) (t.cistern.getD 1 0 + (off - c)))
  else none

/-- R246: `n` bytes of the directly addressed window from an offset on lie in it. -/
def directFits (l : Launch) (off n : Nat) : Bool := off + n ≤ (if l.record.pair then 2 else 1) * l.record.cistern

/-- R246: the byte of a team's cistern window at an offset: direct, or a tagged slot of the group's core. -/
def windowKey (core : Nat) (t : Team) (l : Launch) (off : Nat) : Option Nat :=
  match directKey t l off with
  | some k => some k
  | none =>
    let base := 2 ^ 32
    if base ≤ off && off < base + 4096 * 1024 then some (cisternKey core (directBytes + (off - base))) else none

/-- R431: an access to a peer needs an up port. -/
def noRoute (s : State) (c a : Nat) (w : Dword) : Bool :=
  match leafLoc w a with
  | .here _ => false
  | .peer _ pa => match s.peerOf c a w with
    | some (_, ports) => (portOf s ports pa).isNone
    | none => true

/-- R244: a global address under the page table. -/
def globalAccess (s : State) (c : Nat) (u : Use) (hostOnly : Bool) (a : Nat) : Access :=
  if a / 2 ^ 57 != 0 then .prot
  else match translate s c a u with
    | .fault r => .xlate a r
    | .prot => .prot
    | .malformed => .malformed a
    | .to w pa => if (hostOnly && leafMem w != 1) || noRoute s c a w then .prot else .ok (.page a w pa)

/-- R244: the private window of a lane's item, through its global alias (R245). -/
def privateAccess (s : State) (is : Issue) (u : Use) (l a : Nat) : Access :=
  if a < is.l.record.privSz then
    globalAccess s is.g.ctx u false ((is.l.record.privBase + is.g.item l * is.l.record.privSz + a) % 2 ^ 64)
  else .prot

def cisternAccess (is : Issue) (a : Nat) : Access :=
  match windowKey is.core is.t is.l a with
  | some k => .ok (.sram k)
  | none => .prot

/-- The space a generic address selects (R245). -/
def genericSpace (a : Nat) : Option Space :=
  if a / 2 ^ 57 == 0 then some .global
  else if a / 2 ^ 57 == 0x7e then some .cistern
  else if a / 2 ^ 57 == 0x7d then some .private_
  else none

/-- R244, R245: resolves a lane's address. `wide` scopes are above pair (R251). -/
def resolve (s : State) (is : Issue) (space : Space) (u : Use) (wide : Bool) (l a : Nat) : Access :=
  match space with
  | .global => globalAccess s is.g.ctx u false a
  | .host => globalAccess s is.g.ctx u true a
  | .cistern => cisternAccess is a
  | .private_ => privateAccess s is u l a
  | .generic =>
    match genericSpace a with
    | some .global => globalAccess s is.g.ctx u false a
    | some .cistern => if wide then .prot else cisternAccess is (a % 2 ^ 57)
    | some .private_ => privateAccess s is u l (a % 2 ^ 57)
    | _ => .prot

def Size.bytes : Size → Nat
  | .b8 => 1
  | .b16 => 2
  | .b32 => 4
  | .b64 => 8
  | .b128 => 16

/-- R250: the scope reaches beyond a pair. -/
def Scope.wide : Scope → Bool
  | .dv | .sy => true
  | _ => false

/-- The result of R252's checks over an instruction's participants. -/
inductive Checked where
  /-- The lanes that go on, with their places, and the state with the others parked. -/
  | go (s : State) (ok : List (Nat × Place)) (parked : Mask)
  | stop (v : Verdict)
  deriving DecidableEq, Repr

/-- A mask of listed lanes. -/
def maskOf (l : List Nat) : Mask := l.foldl Mask.add 0

/-- R382: the fault a lane enters. -/
def laneFault (is : Issue) (u : Use) (fetch : Bool) (x : Nat × Nat × Nat) : FaultIn :=
  { die := is.core / 40, ctx := is.g.ctx, va := x.2.1, reason := x.2.2, write := u.writes, fetch, atomic := u == .atomic
    core := is.core, slot := is.slot, waiter := .lane is.key x.1 }

/-- R170, R382: parks lanes on their translation faults, each given with its address and reason; `none` when the fault buffer is full. -/
def parkLanes (s : State) (is : Issue) (u : Use) (fetch : Bool) (l : List (Nat × Nat × Nat)) : Option State :=
  (enterFaults s (l.map (laneFault is u fetch))).map fun s =>
    s.onGroup is.key (fun g => g.setLanes (maskOf (l.map (·.1))) .parked)

/-- Accesses of one kind, with their lanes. -/
def lanesWhere (l : List (Nat × Nat × Access)) (p : Access → Bool) : List (Nat × Nat) :=
  (l.filter (fun x => p x.2.2)).map (fun x => (x.1, x.2.1))

def Access.isProt : Access → Bool
  | .prot | .malformed _ => true
  | _ => false

/-- R375: reports the malformed entries that lanes met, one a lane. -/
def logMalformedLanes (s : State) (is : Issue) : List (Nat × Nat × Access) → State
  | [] => s
  | (_, _, .malformed va) :: r => logMalformedLanes (logMalformed s is.g.ctx is.core va) is r
  | _ :: r => logMalformedLanes s is r

/-- R252: ALIGN, then PROT, fault the whole instruction with the lowest lane's address; translation faults park their lanes or, in pinned mode, fault the whole instruction. -/
def settleAccess (s : State) (is : Issue) (u : Use) (l : List (Nat × Nat × Access)) : Checked :=
  match lanesWhere l (· == .align) with
  | (x, a) :: r => .stop (.trap s 5 0 a (maskOf (x :: r.map (·.1))))
  | [] =>
    match lanesWhere l Access.isProt with
    | (x, a) :: r => .stop (.trap (logMalformedLanes s is l) 7 0 a (maskOf (x :: r.map (·.1))))
    | [] =>
      let ok := l.filterMap (fun x => match x.2.2 with
        | .ok p => some (x.1, p)
        | _ => none)
      let xl := l.filterMap (fun x => match x.2.2 with
        | .xlate va reason => some (x.1, va, reason)
        | _ => none)
      match xl with
      | [] => .go s ok 0
      | (x, va, _) :: r =>
        if (s.ctx is.g.ctx).replayable then
          match parkLanes s is u false xl with
          | none => .stop (.hold s)
          | some s => .go s ok (maskOf (xl.map (·.1)))
        else
          let a := (l.find? (fun y => y.1 == x)).map (fun y => y.2.1)
          .stop (.trap s 6 0 (a.getD va) (maskOf (x :: r.map (·.1))))

/-- R376: the page attributes an access to memory meets: a peer's page takes no atomic, and a reduce-on-store page only stores of 4, 8 or 16 bytes. -/
def pageAllows (u : Use) (n : Nat) (a : Access) : Access :=
  match a with
  | .ok (.page _ w _) =>
    if u == .atomic && (leafMem w == 2 || leafRed w) then .prot
    else if u == .write && leafRed w && n < 4 then .prot
    else a
  | _ => a

/-- R252: the checks of a memory instruction over its participants: alignment to `n`, the space's limits, the page. -/
def checkLanes (s : State) (is : Issue) (space : Space) (u : Use) (wide : Bool) (n : Nat) (addr : Nat → Nat) : Checked :=
  settleAccess s is u ((is.gd.lanes is.g.width).map (fun l =>
    let a := addr l
    (l, a, if a % n != 0 then .align else pageAllows u n (resolve s is space u wide l a))))

end Sys2Proof.Machine
end

