-- ==== Sys2Proof/Machine/Operands.lean ====
section
/-! DEFINITION. Machine/Operands: the operands of format V and their tags, immediates, and addresses of format M (R29, R82 to R87, R104, R206). -/
namespace Sys2Proof.Machine

/-- Codes of the registers an operand names (R77): both registers of a wide vector pair. -/
def Opnd.regs (o : Opnd) (wide : Bool) : List RegCode :=
  match o with
  | .v n => if wide then [n.val, n.val + 1] else [n.val]
  | .s n => [128 + n.val]
  | .p n => [192 + n.val]
  | .j n => [200 + n.val]
  | .cc n => [208 + n.val]
  | .lpc => [224]
  | .lsp => [225]
  | .gs => [226]
  | _ => []

/-- The format of a floating-point type's elements. -/
def tyFmt : Ty → Fmt
  | .bf16x2 => bf16
  | .f16x2 => fp16
  | .e4m3x4 => e4m3
  | .e5m2x4 => e5m2
  | _ => binary32

/-- R26: the type is a floating-point type. -/
def tyFloat : Ty → Bool
  | .f32 | .bf16x2 | .f16x2 | .e4m3x4 | .e5m2x4 => true
  | _ => false

/-- Bits of an element (R29, R30). -/
def tyBits : Ty → Nat
  | .i64 | .n64 => 64
  | .bf16x2 | .f16x2 | .i16x2 => 16
  | .e4m3x4 | .e5m2x4 | .i8x4 => 8
  | _ => 32

/-- R29: signed integer types. -/
def tySigned : Ty → Bool
  | .i32 | .i64 | .i16x2 | .i8x4 => true
  | _ => false

/-- Element `k` of a lane word of elements of `w` bits (R30). -/
def elem (w x k : Nat) : Nat := x / 2 ^ (w * k) % 2 ^ w

/-- A lane word from its elements (R30). -/
def unelem (w : Nat) : List Nat → Nat
  | [] => 0
  | x :: r => x % 2 ^ w + 2 ^ w * unelem w r

/-- `n` copies of an element. -/
def copies (w n x : Nat) : Nat := unelem w (List.replicate n x)

/-- R83: the value an immediate has for a type. -/
def immValue (t : Ty) (imm : BitVec 25) : Nat :=
  match t with
  | .b32 | .i32 => (imm.signExtend 32).toNat
  | .i64 => (imm.signExtend 64).toNat
  | .n32 | .n64 => imm.toNat
  | .f32 => imm.toNat * 2 ^ 7
  | .i16x2 => copies 16 2 (imm.toNat % 2 ^ 16)
  | .i8x4 => copies 8 4 (imm.toNat % 2 ^ 8)
  | t => copies (tyBits t) t.elems (convertFloat binary32 (tyFmt t) .rn (imm.toNat * 2 ^ 7)).1

/-- R206: an operand's value in a lane; `wide` 64 bits, else 32. -/
def opValue (is : Issue) (o : Opnd) (wide : Bool) (imm : Nat) (l : Nat) : Nat :=
  match o with
  | .v n => if wide then (is.g.vlane n.val l).toNat + 2 ^ 32 * (is.g.vlane (n.val + 1) l).toNat else (is.g.vlane n.val l).toNat
  | .s n => if wide then (is.g.sread is.ex n.val).toNat else (is.g.sread is.ex n.val).toNat % 2 ^ 32
  | .p n => if (is.g.pred n.val).has l then 1 else 0
  | .lpc => (is.g.regs.lpc.getD l 0).toNat
  | .lsp => (is.g.regs.lsp.get l).toNat
  | .gs => is.g.regs.gs.toNat
  | _ => imm

/-- The tag of a source (R104): U with its 32-bit value, A with base and stride, or G. -/
inductive Tag where
  | u (x : Word)
  | a (base stride : Word)
  | g
  deriving DecidableEq, Repr

def Tag.isU : Tag → Bool
  | .u _ => true
  | _ => false

def VReg.shape : VReg → Tag
  | .u x => .u x
  | .a b st => .a b st
  | .g _ => .g

/-- R99: `lsp` is U. -/
def lspUniform (g : Group) : Bool := !g.regs.lsp.general

/-- U or G, where no value is needed. -/
def uOr (b : Bool) : Tag := if b then .u 0 else .g

/-- R104: a source's tag. A scalar or an immediate counts as U (R97), a predicate as U when it holds one value in every live lane. -/
def opTag (is : Issue) (o : Opnd) (wide : Bool) (imm : Nat) : Tag :=
  let g := is.g
  match o with
  | .v n => if wide then uOr ((g.vreg n.val).shape.isU && (g.vreg (n.val + 1)).shape.isU) else (g.vreg n.val).shape
  | .s n => .u ((g.sread is.ex n.val).setWidth 32)
  | .p n => uOr (g.live.within (g.pred n.val) || g.live &&& g.pred n.val == 0)
  | .lpc => uOr (g.lpcUniform)
  | .lsp => uOr (lspUniform g)
  | _ => .u (BitVec.ofNat 32 imm)

/-- R104: the tag of the low or the high register of a 64-bit source, on its own. -/
def halfTag (is : Issue) (o : Opnd) (high : Bool) (imm : Nat) : Tag :=
  match o with
  | .v n => uOr (is.g.vreg (if high then n.val + 1 else n.val)).shape.isU
  | _ => opTag is o true imm

/-- R86: a lane's address: base, scaled index and offset, modulo 2^64. -/
def MOps.address (is : Issue) (o : MOps) (l : Nat) : Nat :=
  let base := match o.base with
    | .s n => (is.g.sread is.ex n.val).toNat
    | _ => 0
  let index : BitVec 64 := match o.index with
    | .v n => (is.g.vlane n.val l).signExtend 64 <<< o.scale.val
    | _ => 0
  (BitVec.ofNat 64 base + index + o.off.signExtend 64).toNat

/-- R104: the address is one value in every lane when its index is U or absent. -/
def MOps.uniform (g : Group) (o : MOps) : Bool :=
  match o.index with
  | .v n => (g.vreg n.val).shape.isU
  | _ => true

/-- R87: a lane's branch target, before it is checked. -/
def BOps.target (is : Issue) (o : BOps) (l : Nat) : Nat :=
  let base := match o.treg with
    | .s n => (is.g.sread is.ex n.val).toNat
    | .v n => (is.g.vlane n.val l).toNat + 2 ^ 32 * (is.g.vlane (n.val + 1) l).toNat
    | _ => is.pc
  (BitVec.ofNat 64 base + o.disp.signExtend 64).toNat

/-- A scalar a format E byte names, as a register number. -/
def byteScalar (b : Byte) : Nat := b.toNat - 128

end Sys2Proof.Machine
end

