-- ==== Sys2Proof/Machine/VExec.lean ====
section
/-! DEFINITION. Machine/VExec: what every format V instruction of majors 0x10, 0x20, 0x30 and 0x38 shares: chain reads and publications, the guard, the destination and its tag, shadow lanes, long-latency results (R90, R97, R104, R181 to R190, R208). -/
namespace Sys2Proof.Machine

/-! ### Chain forwarding (R181 to R188) -/

/-- R160: the slot that declares a register, with its number. -/
def chainSlot (l : Launch) (reg : Nat) : Option (Nat × ChainDecl) :=
  let rec go : Nat → List ChainDecl → Option (Nat × ChainDecl)
    | _, [] => none
    | k, d :: r => if d.reg == reg then some (k, d) else go (k + 1) r
  go 0 l.record.chain

/-- R157: items of a launch. -/
def Launch.items (l : Launch) : Nat := l.record.x * l.record.y * l.record.z

/-- R157: the item lies beyond the launch or a live extent. -/
def Launch.isOff (l : Launch) (i : Nat) : Bool :=
  let r := l.record
  l.items ≤ i || l.liveX ≤ i % r.x || l.liveY ≤ i / r.x % r.y || l.liveZ ≤ i / (r.x * r.y)

/-- The resident group that holds an item. -/
def findGroup (s : State) (lid gi : Nat) : Option Group :=
  (s.groups.find? (fun x => x.2.launch == lid && x.2.index == gi)).map (·.2)

/-- R184: the item has exited; a retired group's items have. -/
def itemExited (s : State) (lid : Nat) (l : Launch) (i : Nat) : Bool :=
  let gi := i / l.record.width
  l.gone.contains gi ||
    match findGroup s lid gi with
    | some g => g.lane (i % l.record.width) == .done
    | none => false

/-- R184: read number `n` at distance `k` by item `i`; `none` when the value is not yet available. -/
def chainValue (s : State) (lid : Nat) (l : Launch) (slot : Nat) : Nat → Nat → Nat → Nat → Option Word
  | 0, _, _, _ => none
  | f + 1, i, k, n =>
    if i < k then some (l.seeds.getD (4 * slot + (k - i - 1)) 0)
    else
      let j := i - k
      let pubs := (l.chainItem slot j).pubs
      if l.isOff j || (itemExited s lid l j && pubs.isEmpty) then chainValue s lid l slot f j k n
      else if n ≤ pubs.length then pubs[n - 1]?
      else if itemExited s lid l j then pubs.getLast?
      else none

/-- R185: publications of item `i` that every successor within reach has consumed. -/
def consumed (s : State) (lid : Nat) (l : Launch) (slot maxk i : Nat) : Nat :=
  let m := (l.chainItem slot i).pubs.length
  (List.range maxk).foldl (fun c d =>
    let j := i + d + 1
    if l.isOff j || itemExited s lid l j then c else min c (l.chainItem slot j).reads) m

/-- R185: unconsumed publications of item `i`. -/
def unconsumed (s : State) (lid : Nat) (l : Launch) (slot maxk i : Nat) : Nat :=
  (l.chainItem slot i).pubs.length - consumed s lid l slot maxk i

/-- A chain operand: its slot and distance. -/
structure ChainRead where
  slot : Nat
  dist : Nat
  deriving DecidableEq, Repr

/-- R182: the chain operands of an instruction, or `none` where one is bad. -/
def chainReads (l : Launch) : List (Opnd × BitVec 3) → Option (List (Option ChainRead))
  | [] => some []
  | (o, k) :: r =>
    match chainReads l r with
    | none => none
    | some rest =>
      if k == 0 then some (none :: rest)
      else match o with
        | .v n =>
          match chainSlot l n.val with
          | some (c, d) => if k.toNat ≤ d.maxk then some (some { slot := c, dist := k.toNat } :: rest) else none
          | none => none
        | _ => none

/-! ### The executor -/

/-- How an instruction of format V uses its fields: the immediate's value, the widths of d, a, b and c, the sign extension of a 32-bit result in a scalar (R29), whether shadow lanes recompute it (R189), whether d is also a source, its A rows (R104), a tag its description fixes, and whether each register of a 64-bit result comes from the same registers of its sources (log 65). -/
structure Form where
  imm : Nat := 0
  wide : Bool := false
  wideA : Bool := false
  wideB : Bool := false
  wideC : Bool := false
  signed : Bool := false
  shadowed : Bool := true
  readsD : Bool := false
  affine : Tag → Tag → Option (Word × Word) := fun _ _ => none
  shape : Option Shape := none
  halves : Bool := false

/-- What a lane's operation gives: the result and its flags. -/
abbrev LaneFn := Nat → Nat → Nat → Nat → Nat → Nat × Word

/-- The progress of an issue over its lanes. -/
structure Prog where
  l : Launch
  out : List (Nat × Nat) := []
  flags : Word := 0
  waits : List (Nat × ChainWait) := []

/-- The distinct slots of a list of chain reads. -/
def chainSlots : List (Option ChainRead) → List Nat
  | [] => []
  | none :: r => chainSlots r
  | some x :: r => let t := chainSlots r; if t.contains x.slot then t else x.slot :: t

/-- The first chain operand whose value is not available (R184). -/
def firstMissing (s : State) (lid : Nat) (l : Launch) (lane i : Nat) : List (Option ChainRead) → Option ChainWait
  | [] => none
  | none :: r => firstMissing s lid l lane i r
  | some x :: r =>
    let n := (l.chainItem x.slot i).reads + 1
    if (chainValue s lid l x.slot (i + 1) i x.dist n).isNone then some (.read lane x.slot x.dist n)
    else firstMissing s lid l lane i r

/-- The value of an operand that may be a chain read. -/
def chainOr (s : State) (lid : Nat) (l : Launch) (i : Nat) (r : Option ChainRead) (plain : Nat) : Nat :=
  match r with
  | none => plain
  | some x => ((chainValue s lid l x.slot (i + 1) i x.dist ((l.chainItem x.slot i).reads + 1)).getD 0).toNat

/-- One lane of an issue, in ascending order (R186). -/
def vLane (s : State) (is : Issue) (o : VOps) (f : Form) (fn : LaneFn) (reads : List (Option ChainRead)) (pub : Option (Nat × ChainDecl))
    (p : Prog) (l : Nat) : Prog :=
  let i := is.g.item l
  let lid := is.g.launch
  let slots := chainSlots reads
  let room : Option ChainWait := match pub with
    | some (c, d) => if 8 ≤ unconsumed s lid p.l c d.maxk i then some (.room l c) else none
    | none => none
  match (firstMissing s lid p.l l i reads).or room with
    | some w => { p with waits := p.waits ++ [(l, w)] }
    | none =>
      let a := chainOr s lid p.l i (reads.getD 0 none) (opValue is o.a f.wideA f.imm l)
      let b := chainOr s lid p.l i (reads.getD 1 none) (opValue is o.b f.wideB f.imm l)
      let c := chainOr s lid p.l i (reads.getD 2 none) (opValue is o.c f.wideC f.imm l)
      let d := if f.readsD then opValue is o.d f.wide 0 l else 0
      let (x, fl) := fn l a b c d
      let la := slots.foldl (fun la c => la.setChain c i { la.chainItem c i with reads := (la.chainItem c i).reads + 1 }) p.l
      let la := match pub with
        | some (c, _) => la.setChain c i { la.chainItem c i with pubs := (la.chainItem c i).pubs ++ [BitVec.ofNat 32 x] }
        | none => la
      { p with l := la, out := p.out ++ [(l, x)], flags := p.flags ||| fl }

/-- The value of a lane among results. -/
def outAt (out : List (Nat × Nat)) (l : Nat) : Nat := (lookup out l).getD 0

/-- R104: the shape of a result, from its sources' tags. -/
def resultShape (is : Issue) (o : VOps) (f : Form) : Shape :=
  if o.pub || o.ka != 0 || o.kb != 0 || o.kc != 0 then .g
  else match f.shape with
    | some x => x
    | none =>
      let ta := opTag is o.a f.wideA f.imm
      let tb := opTag is o.b f.wideB f.imm
      let tc := opTag is o.c f.wideC f.imm
      if ta.isU && tb.isU && tc.isU then .u
      else if f.wide then .g
      else match f.affine ta tb with
        | some (base, stride) => .a base stride
        | none => .g

/-- R104: the shapes of both registers of a 64-bit result; the second counts only there. A 64-bit result never takes A. -/
def resultShapes (is : Issue) (o : VOps) (f : Form) : Shape × Shape :=
  let one := resultShape is o f
  if !f.halves || !f.wide || o.pub || o.ka != 0 || o.kb != 0 || o.kc != 0 then (one, one)
  else
    let half := fun (high : Bool) => if (halfTag is o.a high f.imm).isU && (halfTag is o.b high f.imm).isU && (opTag is o.c f.wideC f.imm).isU
      then Shape.u else .g
    (half false, half true)

/-- R97, R98, R29: writes a result to its destination in the lanes of `m`; `high` is the shape of the second register of a pair. -/
def Group.writeD (g : Group) (d : Opnd) (wide signed : Bool) (m : Mask) (shape : Shape) (val : Nat → Nat) (high : Shape := shape) : Group :=
  match d with
  | .v n =>
    let g' := g.writeV n.val m shape (fun l => BitVec.ofNat 32 (val l))
    if wide then g'.writeV (n.val + 1) m high (fun l => BitVec.ofNat 32 (val l / 2 ^ 32)) else g'
  | .s n =>
    match m.lanes g.width with
    | [] => g
    | l :: _ =>
      g.writeS n.val (if wide then BitVec.ofNat 64 (val l)
        else if signed then (BitVec.ofNat 32 (val l)).signExtend 64 else (BitVec.ofNat 32 (val l)).zeroExtend 64)
  | .p n => g.writeP n.val m (Mask.of g.width (fun l => val l != 0))
  | _ => g

/-- R90: leaves a long-latency result pending, to be written when it arrives. -/
def Group.pendD (g : Group) (d : Opnd) (wide signed : Bool) (look : Nat) (m : Mask) (shape : Shape) (flags : Word) (val : Nat → Nat) : Group :=
  match d with
  | .v n =>
    let g' := pendV g n.val look m shape (fun l => BitVec.ofNat 32 (val l)) flags
    let g' := if wide then pendV g' (n.val + 1) look m shape (fun l => BitVec.ofNat 32 (val l / 2 ^ 32)) else g'
    { g' with nextSeq := g.nextSeq + 1 }
  | .s n =>
    match m.lanes g.width with
    | [] => g
    | l :: _ =>
      { pendS g n.val look m (if wide then BitVec.ofNat 64 (val l)
        else if signed then (BitVec.ofNat 32 (val l)).signExtend 64 else (BitVec.ofNat 32 (val l)).zeroExtend 64) flags with
        nextSeq := g.nextSeq + 1 }
  | _ => g

/-- The conditions of lanes that cannot go on, for every lane of a mask: where an instruction combines lanes, none goes on without the others (log 14). -/
def waitAll (width : Nat) (m : Mask) (waits : List (Nat × ChainWait)) : List (Nat × ChainWait) :=
  (m.lanes width).flatMap (fun l => waits.map (fun w => (l, w.2)))

/-- R170: lanes enter `chainwait` with what they wait for. -/
def Group.chainwait (g : Group) (m : Mask) (waits : List (Nat × ChainWait)) : Group :=
  { g.setLanes m .chainwait with chainWaits := g.chainWaits.filter (fun w => !m.has w.1) ++ waits }

/-- R189: the lane that shadows a lane, or that it shadows. -/
def shadowOf (is : Issue) (l : Nat) : Nat := if l < is.g.width / 2 then l + is.g.width / 2 else l - is.g.width / 2

/-- R189, R190: the primaries whose shadow, a lane outside `wrote` (it is not executing, or its predicate is false), computed another value than `val`, ascending, with that value. -/
def shadowMisses (is : Issue) (primaries wrote : Mask) (val : Nat → Nat) : List (Nat × Nat) :=
  if !is.g.dup then []
  else (primaries.lanes is.g.width).filterMap (fun l => match lookup is.g.integrity.shadow l with
    | some x => if !wrote.has (shadowOf is l) && val l != x.toNat then some (l, x.toNat) else none
    | none => none)

/-- R189: the shadow lanes have recomputed a shadowed issue. -/
def shadowsDone (is : Issue) (s : State) : State :=
  if is.g.dup && !is.g.integrity.shadow.isEmpty then s.onGroup is.key (fun g => { g with integrity := { g.integrity with shadow := [] } }) else s

/-- R189, R190: the end of a shadowed issue: it commits, and traps after where shadows differ. Each mismatch is logged with both values; FADDR holds the lowest lane's. -/
def shadowed (is : Issue) (s : State) (stay primaries wrote : Mask) (val : Nat → Nat) : Verdict :=
  let s := shadowsDone is s
  match shadowMisses is primaries wrote val with
  | [] => .commit s stay 0
  | (l, x) :: r =>
    let all := (l, x) :: r
    .after (all.foldl (fun s m => logEvent s is.g.ctx false 8 is.core is.slot m.1 (val m.1) m.2) s)
      stay 14 0 (val l % 2 ^ 32 + x % 2 ^ 32 * 2 ^ 32) (all.foldl (fun m w => m.add w.1) (0 : Mask))

/-- Puts an issue's results into the state. -/
def vCommit (s : State) (is : Issue) (o : VOps) (f : Form) (look : Option Nat) (serial : Bool) (p : Prog) : Verdict :=
  let wait := p.waits.foldl (fun m w => m.add w.1) (0 : Mask)
  let wrote := is.gd &&& ~~~wait
  let shapes := resultShapes is o f
  let s := s.setLaunch is.g.launch p.l
  let s := s.onGroup is.key fun g =>
    let g := if wrote == 0 then g else match look with
      | none => (g.writeD o.d f.wide f.signed wrote shapes.1 (outAt p.out) shapes.2).orFlags p.flags
      | some k => g.pendD o.d f.wide f.signed k wrote shapes.1 p.flags (outAt p.out)
    if wait == 0 then g else g.chainwait wait p.waits
  if f.shadowed && !serial then shadowed is s wait wrote is.gd (outAt p.out) else .commit s wait 0

/-- R181: an instruction's chain operands. -/
def VOps.chain (o : VOps) : List (Opnd × BitVec 3) := [(o.a, o.ka), (o.b, o.kb), (o.c, o.kc)]

/-- R181: the instruction reads a chain register or publishes. -/
def VOps.chained (o : VOps) : Bool := o.pub || o.ka != 0 || o.kb != 0 || o.kc != 0

/-- R183: the slot an instruction publishes to. -/
def VOps.pubSlot (o : VOps) (l : Launch) : Option (Nat × ChainDecl) :=
  if o.pub then (match o.d with
    | .v n => chainSlot l n.val
    | _ => none) else none

/-- R182: CHAIN_BAD as the launch and the handler decide it. -/
def chainBad (o : VOps) (reads : List (Opnd × BitVec 3)) (is : Issue) : Option Nat :=
  if (chainReads is.l reads).isNone || (o.pub && (VOps.pubSlot o is.l).isNone) || (VOps.chained o && is.g.handler.isSome) then some 12 else none

/-- R182: lanes that would take a count past 65,535: reads of the slots `reads`, publications of `pub`. -/
def beyondCounts (is : Issue) (reads : List Nat) (pub : Option (Nat × ChainDecl)) (m : Mask) : Mask :=
  m &&& Mask.of is.g.width (fun l =>
    reads.any (fun c => 65535 ≤ (is.l.chainItem c (is.g.item l)).reads) || (match pub with
      | some (c, _) => 65535 ≤ (is.l.chainItem c (is.g.item l)).pubs.length
      | none => false))

/-- R182 and its place in R95: before REG_PARITY, whose registers the counts do not need. -/
def chainAhead (o : VOps) (reads : List (Opnd × BitVec 3)) : Ahead where
  first := chainBad o reads
  second := fun is s =>
    let bad := beyondCounts is (chainSlots ((chainReads is.l reads).getD [])) (VOps.pubSlot o is.l) is.gd
    if bad == 0 then none else some (.trap s 12 0 0 bad)

/-- R187: a publication is a release: it waits for the item's earlier accesses. -/
def pubWaits (o : VOps) (is : Issue) (s : State) : Bool := o.pub && is.gd != 0 && mustWait s is.key .rel true

/-- R181 to R188, R208: the issue of a format V instruction. -/
def vBody (o : VOps) (f : Form) (long : Bool) (fn : LaneFn) (is : Issue) (s : State) : Verdict :=
  if pubWaits o is s then .hold s
  else
    let reads := (chainReads is.l (VOps.chain o)).getD []
    let pub := VOps.pubSlot o is.l
    let p := (is.gd.lanes is.g.width).foldl (vLane s is o f fn reads pub) { l := is.l }
    let serial := match pub with
      | some (c, _) => (chainSlots reads).contains c
      | none => false
    vCommit s is o f (if long then some o.look.toNat else none) serial p

/-- Registers a format V instruction reads and writes (R90, R114). A chain operand is no register read; a shadowed instruction reads DUP in `gs` (R189). -/
def VOps.touched (o : VOps) (f : Form) : List RegCode × List RegCode :=
  ((if f.shadowed then [226] else []) ++ (if o.ka == 0 then Opnd.regs o.a f.wideA else []) ++ (if o.kb == 0 then Opnd.regs o.b f.wideB else []) ++
     (if o.kc == 0 then Opnd.regs o.c f.wideC else []) ++ (if f.readsD then Opnd.regs o.d f.wide else []),
   Opnd.regs o.d f.wide)

/-- The meaning of a format V instruction from its form and its operation on one lane. -/
def execV (o : VOps) (f : Form) (fn : LaneFn) (s : State) (long : Bool := false) : Host.Outcome State Fault Refusal :=
  s.run o.pred o.neg (VOps.touched o f).1 (VOps.touched o f).2 (vBody o f long fn) (chainAhead o (VOps.chain o))

end Sys2Proof.Machine
end

