-- ==== Sys2Proof/Machine/Transfer.lean ====
section
/-! DEFINITION. Machine/Transfer: bytes between lanes and places: loads with their pending results, stores to memory, to peers and to reduce-on-store pages (R90, R249, R254, R265, R376, R437). -/
namespace Sys2Proof.Machine

/-- `n` bytes the manual gives no value, where a line holds an uncorrectable error (R119, source 7). -/
def freeBytes (s : State) (n : Nat) : List Byte × State :=
  ((List.range n).map (fun k => Config.freeByte (s.env.tick * 65536 + k)), { s with env := { s.env with tick := s.env.tick + 1 } })

/-- Bytes at a key; an uncorrectable error is logged, and its bytes are free. -/
def readKey (s : State) (ctx core key n : Nat) : List Byte × State :=
  if s.badLine key then freeBytes (logEvent s ctx false 7 core 0 (lineName key) 0 0) n
  else (Memory.bytes s.mem key n, s)

/-- The use of a place's translation (R377, R378). -/
def touch (s : State) (ctx : Nat) (u : Use) : Place → State
  | .sram _ => s
  | .page va w pa => s.used ctx va u w pa

/-- Where a place's bytes are. -/
def Place.loc : Place → Loc
  | .sram key => .here key
  | .page va w _ => leafLoc w va

/-- What a load reads of a place: its bytes, or `none` while a peer has still to send them. -/
def readPlace (s : State) (is : Issue) (p : Place) (n : Nat) : Option (List Byte) × State :=
  let s := touch s is.g.ctx .read p
  match p.loc with
  | .here key => let (b, s) := readKey s is.g.ctx is.core key n; (some b, s)
  | .peer _ _ => (none, s)

/-- Reads every place of a load, in lane order. -/
def readPlaces (is : Issue) (n : Nat) : State → List (Nat × Place) → List (Nat × Option (List Byte)) × State
  | s, [] => ([], s)
  | s, (l, p) :: r =>
    let (b, s) := readPlace s is p n
    let (t, s) := readPlaces is n s r
    ((l, b) :: t, s)

/-- The value of a lane among loaded bytes. -/
def loaded (t : List (Nat × Option (List Byte))) (l : Nat) : Nat :=
  match lookup t l with
  | some (some b) => leNat b
  | _ => 0

/-- Lanes whose bytes a peer has still to send. -/
def unsent (t : List (Nat × Option (List Byte))) : Mask := maskOf ((t.filter (fun x => x.2.isNone)).map (·.1))

/-- R90, R249: leaves a value of `n` bytes pending in its registers. A scalar takes the lowest lane's (R97). -/
def pendLoad (g : Group) (d : Opnd) (n look : Nat) (m missing : Mask) (shape : Shape) (flags : Word) (val : Nat → Nat) : Group :=
  let mark := fun (l : List Pend) => l.map (fun p => if p.seq == g.nextSeq then { p with missing } else p)
  match d with
  | .v r =>
    let g' := (List.range (max 1 (n / 4))).foldl (fun h k =>
      pendV h (r.val + k) look m shape (fun l => BitVec.ofNat 32 (val l / 2 ^ (32 * k))) flags) g
    { g' with pend := mark g'.pend, nextSeq := g.nextSeq + 1 }
  | .s r =>
    match m.lanes g.width with
    | [] => g
    | l :: _ =>
      let g' := pendS g r.val look m (BitVec.ofNat 64 (val l)) flags
      { g' with pend := g'.pend.map (fun p => if p.seq == g.nextSeq then { p with missing := missing &&& Mask.bit l } else p), nextSeq := g.nextSeq + 1 }
  | _ => g

/-- Registers of a data operand of `n` bytes (R249). -/
def dataRegs (d : Opnd) (n : Nat) : List RegCode :=
  match d with
  | .v r => (List.range (max 1 (n / 4))).map (r.val + ·)
  | .s r => [128 + r.val]
  | _ => []

/-- The value of `n` bytes a lane stores from its data operand (R249). -/
def dataOf (is : Issue) (d : Opnd) (n l : Nat) : Nat :=
  match d with
  | .v r => (List.range (max 1 (n / 4))).foldr (fun k x => (is.g.vlane (r.val + k) l).toNat + 2 ^ 32 * x) 0
  | .s r => (is.g.sread is.ex r.val).toNat
  | _ => 0

/-- Asks a peer for the bytes that the lanes of a load find at one place of its memory, by whatever address: all of them receive the same (R254, R432). -/
def askPeers (is : Issue) (cls : Cls) (seq n : Nat) (ok : List (Nat × Place)) (s : State) (p : Place) : State :=
  match p with
  | .sram _ => s
  | .page va w _ =>
    match leafLoc w va with
    | .here _ => s
    | .peer _ pa => sendPeer s is.key is.g.ctx va w pa cls (.read n) (.load is.key seq (maskOf ((ok.filter (fun x => x.2.loc == p.loc)).map (·.1))) n)

/-- The places of a list, each byte of memory once. -/
def onePlaceEach : List Place → List Place
  | [] => []
  | p :: r => p :: (onePlaceEach r).filter (fun q => q.loc != p.loc)

/-- A load of `n` bytes a lane from its places, left pending (R254). -/
def loadLanes (s : State) (is : Issue) (d : Opnd) (look n : Nat) (cls : Cls) (uniform : Bool) (ok : List (Nat × Place)) : State :=
  match ok with
  | [] => s
  | (_, p) :: r =>
    let m := maskOf (ok.map (·.1))
    let shape : Shape := if uniform && r.all (fun x => x.2 == p) then .u else .g
    let (t, s) := readPlaces is n s ok
    let seq := is.g.nextSeq
    let s := s.onGroup is.key (fun g => pendLoad g d n look m (unsent t) shape 0 (loaded t))
    (onePlaceEach (ok.map (·.2))).foldl (askPeers is cls seq n ok) s

/-- Stores bytes at a place (R254, R376, R432). -/
def storePlace (s : State) (is : Issue) (cls : Cls) (p : Place) (b : List Byte) : State :=
  match p with
  | .sram key => s.poke key b
  | .page va w pa =>
    let s := s.used is.g.ctx va .write w pa
    if leafRed w then contributeAll (Cls.releases cls) s is.g.ctx w va b
    else match leafLoc w va with
      | .here key => (holdDirty s is.g.ctx key).poke key b
      | .peer _ at_ => sendPeer s is.key is.g.ctx va w at_ cls (.write b) .nobody

/-- A store of `n` bytes a lane, in ascending lane order (R254). -/
def storeLanes (s : State) (is : Issue) (cls : Cls) (n : Nat) (val : Nat → Nat) (ok : List (Nat × Place)) : State :=
  ok.foldl (fun s x => storePlace s is cls x.2 (leBytes n (val x.1))) s

/-- A reduce-on-store page. -/
def Place.red : Place → Bool
  | .page _ w _ => leafRed w
  | .sram _ => false

/-- R437: a store would leave more contributions held than the buffer of a port takes. -/
def noRoom (s : State) (is : Issue) (cls : Cls) (n : Nat) (val : Nat → Nat) (ok : List (Nat × Place)) : Bool :=
  ok.any (fun x => x.2.red) && portsFull (storeLanes s is cls n val ok)

/-- What an instruction finds that reads `n` bytes once for its issue (R302, R314, R403). -/
inductive ReadOnce where
  | got (b : List Byte) (s : State) (p : Place)
  | stop (v : Verdict)
  deriving DecidableEq, Repr

/-- Bytes of a peer's memory, asked for once: the instruction holds until they have come. -/
def readOncePeer (s : State) (is : Issue) (p : Place) (a n : Nat) (w : Dword) (pa : Nat) : ReadOnce :=
  match is.g.sent a n with
  | some b => .got b s p
  | none => .stop (.hold (askOnce s is.key is.g.ctx a w pa n))

/-- R252, R344: the checks of an access that acts once: it is the lowest item's whose guard is true, and its faults have every executing lane as a participant. -/
def onceChecks (s : State) (is : Issue) (a al : Nat) : Checked :=
  let x := if a % al != 0 then .align else pageAllows .read al (resolve s is .generic .read false ((is.gd.lanes is.g.width).headD 0) a)
  match x with
  | .malformed va => .stop (.trap (logMalformed s is.g.ctx is.core va) 7 0 a is.ex)
  | _ => settleAccess s { is with gd := is.ex } .read ((is.ex.lanes is.g.width).map (fun l => (l, a, x)))

/-- Reads `n` bytes at one generic address that is a multiple of `al`, by one plain load. -/
def readOnce (s : State) (is : Issue) (a n : Nat) (al : Nat := n) : ReadOnce :=
  if mustWait s is.key .plain false then .stop (.hold s)
  else
    match onceChecks s is a al with
    | .stop v => .stop v
    | .go s' ((_, p) :: _) _ =>
      match p, p.loc with
      | .page va w _, .peer _ pa => readOncePeer s' is p va n w pa
      | _, _ =>
        match readPlace s' is p n with
        | (some b, s') => .got b s' p
        | (none, s') => .stop (.commit s' is.ex 0)
    | .go s' [] _ => .stop (.commit s' is.ex 0)

/-- Reads a range so, line by line; the place is the first's. -/
def readRange (is : Issue) : Nat → Nat → Nat → State → ReadOnce
  | 0, a, n, s => readOnce s is a n 1
  | f + 1, a, n, s =>
    let k := min n (64 - a % 64)
    match readOnce s is a k 1 with
    | .stop v => .stop v
    | .got b s p =>
      if k == n then .got b s p
      else match readRange is f (a + k) (n - k) s with
        | .stop v => .stop v
        | .got b' s _ => .got (b ++ b') s p

end Sys2Proof.Machine
end

