-- ==== Sys2Proof/Machine/Tile.lean ====
section
/-! DEFINITION. Machine/Tile: tiles and tensor identifiers, major 0x50 (R272 to R288). -/
namespace Sys2Proof.Machine

/-- The frame of a format E instruction; without a participant it has no effect. -/
def execE (o : EOps) (reads writes : List RegCode) (body : Issue → State → Verdict) (s : State) (ahead : Ahead := {}) :
    Host.Outcome State Fault Refusal :=
  s.run o.pred o.neg reads writes (fun is s => if is.gd == 0 then .commit s 0 0 else body is s) ahead

/-- The scalar a byte names, and scalars that follow it. -/
def scalAt (is : Issue) (b : Byte) (k : Nat) : Dword := is.g.sread is.ex (byteScalar b + k)
/-- Codes of `n` scalars from the one a byte names. -/
def scalCodes (b : Byte) (n : Nat) : List RegCode := (List.range n).map (b.toNat + ·)
/-- The 32-bit value of a V or S byte in a lane. -/
def byteVal (is : Issue) (b : Byte) (l : Nat) : Nat := opValue is (Opnd.ofByte b) false 0 l
def byteCodes (b : Byte) : List RegCode := if isNone b then [] else Opnd.regs (Opnd.ofByte b) false

/-- Writes scalars in a row (R97). -/
def writeScals (g : Group) (n : Nat) : List Dword → Group
  | [] => g
  | x :: r => writeScals (g.writeS n x) (n + 1) r

/-! ### Tiles -/

/-- The key of a tile number on the core a group runs on (R272). -/
def tileKey (is : Issue) (n : Nat) : Nat := is.t.memberOf is.core * 256 + n

def Team.tile (t : Team) (k : Nat) : Tile := (lookup t.tiles k).getD {}
def Team.setTile (t : Team) (k : Nat) (x : Tile) : Team := { t with tiles := insert t.tiles k x }

/-- Changes a tile of a team. -/
def State.onTile (s : State) (team k : Nat) (f : Tile → Tile) : State :=
  match lookup s.teams team with
  | some t => s.setTeam team (t.setTile k (f (t.tile k)))
  | none => s

/-- R272: physical tile entries of a core in use. -/
def tilesUsed (s : State) (core : Nat) : Nat :=
  s.teams.foldl (fun k x =>
    k + (x.2.tiles.filter (fun y => y.2.phys && x.2.cores.getD (y.1 / 256) (2 ^ 20) == core)).length) 0

/-- R274, R275: one reader or writer of a tile has performed its last access. -/
def Tile.endRead (t : Tile) : Tile :=
  let rd := t.rd - 1
  if t.state == .draining && rd == 0 then { wr := t.wr } else { t with rd }
def Tile.endWrite (t : Tile) : Tile :=
  let wr := t.wr - 1
  if t.state == .empty && wr == 0 then { rd := t.rd } else { t with wr }

def TileState.code : TileState → Nat
  | .empty => 0
  | .filling => 1
  | .ready => 2
  | .draining => 3

/-- R276: what a use of a tile finds. -/
inductive TileUse where
  | go
  | wait
  | bad
  deriving DecidableEq, Repr

/-- R276, R274: an instruction that reads a tile. -/
def Tile.forRead (t : Tile) : TileUse :=
  match t.state with
  | .ready => if t.rd < 65535 then .go else .wait
  | .filling => .wait
  | _ => .bad

/-- R276, R274: an instruction that writes a tile. -/
def Tile.forWrite (t : Tile) : TileUse :=
  match t.state with
  | .filling => if t.wr < 65535 then .go else .wait
  | _ => .bad

/-- R279, R283: the precision a format allows. -/
def fmtOk (fmt p : Nat) : Bool := fmt ≤ 8 && (if fmt == 7 then 1 ≤ p && p ≤ 16 else p == 0)

/-- R280: a configuration word's fields are legal. -/
def tileWordOk (w base : Nat) : Bool :=
  bits w 63 53 == 0 && bits w 43 41 == 0 && bits w 31 26 == 0 && bits w 19 0 == 0 && fmtOk (bits w 47 44) (bits w 52 48) &&
    (bits w 40 40 == 0 || bits w 47 44 == 0) && base % 64 == 0

/-- R279: a tile from its configuration word and base, filling. -/
def tileFrom (w base : Nat) : Tile :=
  { state := .filling, prec := bits w 52 48, fmt := bits w 47 44, space := bits w 40 40, rows := bits w 39 32 + 1,
    rb := 64 * (bits w 25 20 + 1), base, phys := true }

/-- R280: a tile lies in its team's cistern window or sump allocation. -/
def tileFits (l : Launch) (t : Tile) : Bool :=
  if t.space == 0 then directFits l t.base (t.rows * t.rb) else t.base + t.rows * t.rb ≤ l.record.sump

/-- R279: word 0 and word 1 of a tile. -/
def tileWords (t : Tile) : List Dword :=
  let w0 := if t.state == .empty then 0
    else t.state.code * 2 ^ 62 + t.prec * 2 ^ 48 + t.fmt * 2 ^ 44 + t.space * 2 ^ 40 + (t.rows - 1) * 2 ^ 32 + (t.rb / 64 - 1) * 2 ^ 20
  [BitVec.ofNat 64 w0, BitVec.ofNat 64 (t.rd * 2 ^ 48 + t.wr * 2 ^ 32 + (if t.state == .empty then 0 else t.base))]

/-- R282: FADDR of a tile instruction: the tile number and a byte offset. -/
def tileAddr (n o : Nat) : Nat := n * 2 ^ 48 + o % 2 ^ 32

/-- `tcfg` (R275, R280). -/
def execTcfg (o : EOps) (s : State) : Host.Outcome State Fault Refusal :=
  execE o (scalCodes o.a 1 ++ scalCodes o.b 1) [] (fun is s =>
    let n := o.d.toNat
    let k := tileKey is n
    let t := is.t.tile k
    match t.state with
    | .filling | .ready => .trap s 8 1 0 is.ex
    | .draining => .hold s
    | .empty =>
      if t.rd != 0 || t.wr != 0 || 256 ≤ tilesUsed s is.core then .hold s
      else
        let w := (scalAt is o.a 0).toNat
        let base := (scalAt is o.b 0).toNat % 2 ^ 32
        let x := tileFrom w base
        if !tileWordOk w base then .trap s 8 2 0 is.ex
        else if !tileFits is.l x then .trap s 7 0 (tileAddr n base) is.ex
        else .commit (s.onTile is.g.team k (fun _ => x)) 0 0) s

/-- `tget` (R282). -/
def execTget (o : EOps) (s : State) : Host.Outcome State Fault Refusal :=
  execE o [] (scalCodes o.d 2) (fun is s =>
    .commit (s.onGroup is.key (fun g => writeScals g (byteScalar o.d) (tileWords (is.t.tile (tileKey is o.a.toNat))))) 0 0) s

/-- `tset` (R275, R276); `tset.ready` is a release (R278). -/
def execTset (o : EOps) (s : State) : Host.Outcome State Fault Refusal :=
  execE o [] [] (fun is s =>
    let k := tileKey is o.d.toNat
    let t := is.t.tile k
    let fill := o.bit 0
    match t.state with
    | .filling => if fill then .commit s 0 0 else if t.wr == 0 && !mustWait s is.key .rel true then .commit (s.onTile is.g.team k (fun t => { t with state := .ready })) 0 0 else .hold s
    | .ready => if !fill then .commit s 0 0 else if t.rd == 0 then .commit (s.onTile is.g.team k (fun t => { t with state := .filling })) 0 0 else .hold s
    | _ => .trap s 8 1 0 is.ex) s

/-- R275: a tile after `trel`. -/
def Tile.released (t : Tile) : Tile :=
  match t.state with
  | .filling => { rd := t.rd, wr := t.wr, phys := t.wr != 0 }
  | .ready => if t.rd == 0 then { wr := t.wr } else { t with state := .draining }
  | _ => t

/-- `trel` (R275). -/
def execTrel (o : EOps) (s : State) : Host.Outcome State Fault Refusal :=
  execE o [] [] (fun is s => .commit (s.onTile is.g.team (tileKey is o.d.toNat) Tile.released) 0 0) s

/-- The byte of a tile at an offset: in the team's window, or in its sump allocation on the group's core. -/
def tileByte (is : Issue) (t : Tile) (o : Nat) : Nat :=
  if t.space == 0 then (directKey is.t is.l (t.base + o)).getD 0
  else sumpKey is.core (is.t.sump.getD (is.t.memberOf is.core) 0 + t.base + o)

/-- `tld` and `tst`: a lane's row, column and offset in the tile. -/
structure TileAt where
  row : Nat
  col : Nat
  o : Nat
  deriving DecidableEq, Repr

def tileAt (is : Issue) (o : EOps) (t : Tile) (l : Nat) : TileAt :=
  let row := byteVal is o.b l
  let col := (if isNone o.c then 0 else byteVal is o.c l) + (o.ctl.extractLsb' 0 12).toNat
  { row, col, o := row * t.rb + col }

/-- R282: the fault code of a lane's access, 0 for none. -/
def tileFault (t : Tile) (n : Nat) (x : TileAt) : Nat :=
  if x.o % n != 0 then 5 else if t.rows ≤ x.row || t.rb < x.col + n then 7 else 0

/-- R281: the bytes of a size code. -/
def tileSize (o : EOps) : Nat := 2 ^ (o.ctl.extractLsb' 12 3).toNat

/-- R276, R282: the checks of `tld` and `tst`, all lanes before any access. They are plain accesses of the item, and wait for what R250 and R351 order before them. -/
def tileAccess (o : EOps) (write : Bool) (is : Issue) (s : State) (go : Tile → Nat → Verdict) : Verdict :=
  let num := o.a.toNat
  let t := is.t.tile (tileKey is num)
  let n := tileSize o
  match (if write then t.forWrite else t.forRead) with
  | .wait => .hold s
  | .bad => .trap s 8 1 0 is.ex
  | .go =>
    let at_ := tileAt is o t
    let code := fun l => tileFault t n (at_ l)
    match (is.gd.lanes is.g.width).find? (fun l => code l != 0) with
    | some l => .trap s (code l) 0 (tileAddr num (at_ l).o) (is.gd &&& Mask.of is.g.width (fun k => code k == code l))
    | none => if mustWait s is.key .plain write then .hold s else go t n

/-- Registers of a tile access's row and column. -/
def tileRegs (o : EOps) : List RegCode := byteCodes o.b ++ byteCodes o.c

/-- `tld` (R282): its result is G. -/
def execTld (o : EOps) (s : State) : Host.Outcome State Fault Refusal :=
  execE o (tileRegs o) (dataRegs (Opnd.ofByte o.d) (tileSize o)) (fun is s =>
    tileAccess o false is s fun t n =>
      .commit (s.onGroup is.key (fun g => pendLoad g (Opnd.ofByte o.d) n o.look.toNat is.gd 0 .g 0
        (fun l => Memory.value s.mem (tileByte is t (tileAt is o t l).o) n))) 0 0) s

/-- `tst` (R282): the highest lane's bytes remain. -/
def execTst (o : EOps) (s : State) : Host.Outcome State Fault Refusal :=
  execE o (tileRegs o ++ dataRegs (Opnd.ofByte o.d) (tileSize o)) [] (fun is s =>
    tileAccess o true is s fun t n =>
      .commit ((is.gd.lanes is.g.width).foldl (fun s l =>
        s.poke (tileByte is t (tileAt is o t l).o) (leBytes n (dataOf is (Opnd.ofByte o.d) n l))) s) 0 0) s

/-! ### Tensor identifiers -/

/-- A record of a context's table; one never written is zero (R284). -/
def State.tid (s : State) (c n : Nat) : List Dword := (lookup (s.ctx c).tids n).getD (List.replicate 8 0)

def tidWord (r : List Dword) (k : Nat) : Nat := (r.getD k 0).toNat

/-- The fields of a record (R284). -/
def tidFmt (r : List Dword) : Nat := bits (tidWord r 0) 55 52
def tidP (r : List Dword) : Nat := bits (tidWord r 0) 51 47
def tidBase (r : List Dword) : Nat := tidWord r 1
def tidExtent (r : List Dword) (k : Nat) : Nat := tidWord r (2 + k / 2) / 2 ^ (32 * (k % 2)) % 2 ^ 32
def tidStride (r : List Dword) (k : Nat) : Int :=
  match k with
  | 0 => signed 32 (tidWord r 4)
  | 1 => signed 32 (tidWord r 4 / 2 ^ 32)
  | 2 => signed 64 (tidWord r 5)
  | _ => signed 64 (tidWord r 6)
def tidScaleOff (r : List Dword) : Int := signed 32 (tidWord r 7 / 2 ^ 32)
def tidTileRows (r : List Dword) : Nat := bits (tidWord r 7) 23 16 + 1
def tidTileCols (r : List Dword) : Nat := bits (tidWord r 7) 15 0

/-- R283: bytes of an element, for formats 0 to 6. -/
def fmtBytes : Nat → Nat
  | 0 | 6 => 4
  | 1 | 2 => 2
  | _ => 1

/-- R286: what BASE and strides must be multiples of. -/
def fmtAlign (fmt : Nat) : Nat := if fmt == 7 then 4 else if fmt == 8 then 16 else fmtBytes fmt

/-- R286: the code of the first check a record fails, 0 when it is valid. `pinned`: a pinned handle is accepted. -/
def tidCode (r : List Dword) (pinned : Bool) : Nat :=
  let w0 := tidWord r 0
  let fmt := tidFmt r
  let al := fmtAlign fmt
  let tag := tidBase r / 2 ^ 57
  if bits w0 63 63 == 0 then 1
  else if !fmtOk fmt (tidP r) then 2
  else if bits w0 62 56 != 0 || bits w0 46 0 != 0 || bits (tidWord r 7) 31 24 != 0 || (fmt != 8 && bits (tidWord r 7) 63 32 != 0) then 3
  else if (List.range 4).any (fun k => tidExtent r k == 0) || (7 ≤ fmt && tidExtent r 0 % 32 != 0) then 4
  else if !(tag == 0 || tag == 0x7e || (pinned && tag == 0x7c)) then 5
  else if tidBase r % al != 0 || (List.range 4).any (fun k => 1 < tidExtent r k && tidStride r k % al != 0) ||
      (7 ≤ fmt && tidStride r 0 != 0) then 6
  else if tidTileCols r == 0 || 4096 < tidTileCols r then 7
  else 0

/-- An address plus an offset, modulo 2^64. -/
def offset64 (a : Nat) (d : Int) : Nat := (((a : Int) + d) % (2 ^ 64 : Nat)).toNat

/-- R285: the address of row (i1, i2, i3). -/
def tidRow (r : List Dword) (i1 i2 i3 : Nat) : Nat :=
  offset64 (tidBase r) (i1 * tidStride r 1 + i2 * tidStride r 2 + i3 * tidStride r 3)

/-- R285: the address of an element of formats 0 to 6. -/
def tidElem (r : List Dword) (i0 i1 i2 i3 : Nat) : Nat := offset64 (tidRow r i1 i2 i3) (i0 * tidStride r 0)

/-- `tidw` (R288). -/
def execTidw (o : EOps) (s : State) : Host.Outcome State Fault Refusal :=
  execE o (scalCodes o.a 8) [] (fun is s =>
    let c := s.ctx is.g.ctx
    .commit (s.setCtx is.g.ctx { c with tids := insert c.tids o.d.toNat ((List.range 8).map (scalAt is o.a)) }) 0 0) s

/-- `tidr` (R288). -/
def execTidr (o : EOps) (s : State) : Host.Outcome State Fault Refusal :=
  execE o [] (scalCodes o.d 8) (fun is s =>
    .commit (s.onGroup is.key (fun g => writeScals g (byteScalar o.d) ((s.tid is.g.ctx o.a.toNat).take 8))) 0 0) s

/-- `tidv` (R288): a pinned handle fails here, as in every use but a `plane` job's source. -/
def execTidv (o : EOps) (s : State) : Host.Outcome State Fault Refusal :=
  execE o [] (scalCodes o.d 1) (fun is s =>
    .commit (s.onGroup is.key (fun g => g.writeS (byteScalar o.d) (BitVec.ofNat 64 (tidCode (s.tid is.g.ctx o.a.toNat) false)))) 0 0) s

end Sys2Proof.Machine
end

