-- ==== Sys2Proof/Machine/Matrix.lean ====
section
/-! DEFINITION. Machine/Matrix: completion counters as operations use them, octet operations of the plane array, bank conflicts, and the array's idle state and ramp (R23, R289 to R299, R323). -/
namespace Sys2Proof.Machine

/-! ### Counters (R323) -/

def Group.counter (g : Group) (n : Nat) : Word := g.regs.cc.getD n 0
def Group.setCounter (g : Group) (n : Nat) (x : Word) : Group := { g with regs := { g.regs with cc := g.regs.cc.set n x } }

/-- R323: an issue that would take the count past its limit holds. -/
def counterFull (g : Group) (n : Option Nat) : Bool :=
  match n with
  | none => false
  | some k => g.counter k == BitVec.allOnes 32

/-- R323: an operation that names a counter adds one at issue, and subtracts one when it completes; a decrement at zero leaves zero. -/
def countUp (g : Group) (n : Option Nat) : Group :=
  match n with
  | none => g
  | some k => g.setCounter k (g.counter k + 1)
def countDown (g : Group) (n : Option Nat) : Group :=
  match n with
  | none => g
  | some k => g.setCounter k (if g.counter k == 0 then 0 else g.counter k - 1)

/-! ### Bytes of a team's window -/

/-- Bytes of a team's directly addressed window (R246). -/
def teamRead (s : State) (t : Team) (l : Launch) (off n : Nat) : List Byte :=
  (List.range n).map (fun k => match directKey t l (off + k) with
    | some key => Memory.read s.mem key
    | none => 0)

/-- Writes bytes of a team's directly addressed window. -/
def teamWrite (t : Team) (l : Launch) (s : State) (off : Nat) : List Byte → State
  | [] => s
  | b :: r => teamWrite t l (match directKey t l off with
    | some key => s.poke key [b]
    | none => s) (off + 1) r

/-- The offset of an address in the team's cistern window; `none` where its tag names another space. -/
def windowOff (a : Nat) : Option Nat := if a / 2 ^ 57 == 0x7e then some (a % 2 ^ 57) else none

/-- R246: `n` bytes at a cistern address lie in the directly addressed window. -/
def windowFits (l : Launch) (a n : Nat) : Bool :=
  match windowOff a with
  | some off => directFits l off n
  | none => false

/-! ### The array's idle state and ramp (R23) -/

/-- An operation of a core is in flight. -/
def arrayBusy (s : State) (core : Nat) : Bool := s.matops.any (fun x => x.2.core == core)

/-- R23: the array has had no operation in flight for 4,096 clk. -/
def arrayIdle (s : State) (core : Nat) : Bool :=
  let a := (s.core core).array
  a.idle || (!arrayBusy s core && a.since + 4096 ≤ s.clk)

/-- R23: the first operation after idle starts a ramp. -/
def startArray (s : State) (core : Nat) : State :=
  if arrayIdle s core then s.setCore core { s.core core with array := { idle := false, since := s.clk, step := 1, stepAt := s.clk } } else s

/-- R23: no operation of a core is in flight any more. -/
def restArray (s : State) (core : Nat) : State :=
  let c := s.core core
  s.setCore core { c with array := { c.array with since := s.clk } }

/-- PLANE_ARRAY_IDLE (R23): 4,096 clk with no operation in flight. -/
def execPlaneArrayIdle (core : Nat) (s : State) : Host.Outcome State Fault Refusal :=
  if arrayIdle s core && !(s.core core).array.idle then .next (s.setCore core { s.core core with array := { idle := true, since := s.clk } }) else .next s

/-- RAMP_STEP (R23): 256 clk of a ramp have passed; after step 16 it ends. -/
def execRampStep (core : Nat) (s : State) : Host.Outcome State Fault Refusal :=
  let c := s.core core
  let a := c.array
  if !a.idle && a.step != 0 && a.stepAt + 256 ≤ s.clk then
    .next (s.setCore core { c with array := { a with step := if a.step == 16 then 0 else a.step + 1, stepAt := a.stepAt + 256 } })
  else .next s

/-! ### Octet operations -/

/-- R289: the leaders of the octets that take part. -/
def leaders (g : Group) (m : Mask) : List Nat :=
  (List.range (g.width / 8)).filterMap (fun o => (List.range 8).findSome? (fun k => if m.has (8 * o + k) then some (8 * o + k) else none))

/-- R295: an octet's coordinates, from its leader's lanes. -/
def octetOf (is : Issue) (o : EOps) (l : Nat) : Octet :=
  let v := fun (b k : Nat) => (is.g.vlane (b + k) l).toNat
  let e := v o.e.toNat 0
  { m0 := v o.c.toNat 0, n0 := v o.c.toNat 1, kb := bits e 15 0, drow := bits e 23 16, g := bits e 28 24 }

/-- R285: the address of block kb of a row. -/
def blockAddr (r : List Dword) (row kb : Nat) : Nat := offset64 (tidRow r row 0 0) (kb * (8 + 4 * tidP r) : Nat)

/-- R297: the rows from `r0` whose block is read, out of `n`; others are zero blocks. -/
def rowsRead (r : List Dword) (r0 n kb : Nat) : List Nat :=
  if tidExtent r 0 ≤ 32 * kb then [] else ((List.range n).map (r0 + ·)).filter (fun x => x < tidExtent r 1)

/-- R296: the addresses of every block an octet reads: those of A, then of B. -/
def blockAddrs (a b : List Dword) (x : Octet) : List Nat :=
  (rowsRead a x.m0 8 x.kb).map (fun r => blockAddr a r x.kb) ++ (rowsRead b x.n0 32 x.kb).map (fun r => blockAddr b r x.kb)

/-- R296: the first block, in order, that lies outside the direct window, as its offset. -/
def strayBlock (l : Launch) (r : List Dword) (x : List Nat) : Option Nat :=
  (x.find? (fun a => !windowFits l a (8 + 4 * tidP r))).map (· % 2 ^ 57)

/-! ### Bank conflicts (R298) -/

/-- The lines a block of `n` bytes at an offset touches, as keys of its core. -/
def linesOf (t : Team) (l : Launch) (off n : Nat) : List Nat :=
  ((List.range n).filterMap (fun k => (directKey t l (off + k)).map (· / 64))).eraseDups

/-- R298: conflicts of a step: lines beyond the first in each bank of each core. -/
def stepConflicts (lines : List Nat) : Nat :=
  let ls := lines.eraseDups
  ls.length - (ls.map (fun x => (x / 2 ^ 18, x % 32))).eraseDups.length

/-- Lines of the blocks of rows. -/
def rowLines (t : Team) (l : Launch) (r : List Dword) (rows : List Nat) (kb : Nat) : List Nat :=
  rows.flatMap (fun x => linesOf t l (blockAddr r x kb % 2 ^ 57) (8 + 4 * tidP r))

/-- R298: conflicts of an operation's A step. -/
def aConflicts (is : Issue) (a : List Dword) (x : Octet) : Nat := stepConflicts (rowLines is.t is.l a (rowsRead a x.m0 8 x.kb) x.kb)

/-- R298: conflicts of a B step. -/
def bConflicts (is : Issue) (b : List Dword) (x : Octet) : Nat := stepConflicts (rowLines is.t is.l b (rowsRead b x.n0 32 x.kb) x.kb)

/-- R298: a count of 32 bits that stops at its limit. -/
def addConflicts (g : Group) (n : Nat) : Group := { g with conflicts := min (g.conflicts + n) (2 ^ 32 - 1) }

/-- R291: two members of one fused set. -/
def Fused.same (a b : Fused) : Bool := a.tid == b.tid && a.n0 == b.n0 && a.kb == b.kb && a.pb == b.pb

/-- R291, R298: an operation's B step joins a fused set of the clk, or makes one, whose group is that of its lowest octet. -/
def joinFused (s : State) (core : Nat) (f : Fused) : State :=
  let c := s.core core
  let sets := if c.fusedAt == s.clk then c.fused else []
  let put := fun (l : List Fused) => s.setCore core { c with fusedAt := s.clk, fused := l }
  match sets.find? f.same with
  | none => put (f :: sets)
  | some e => if e.octet ≤ f.octet then s else put (f :: sets.filter (fun y => !f.same y))

/-- R298: once the clk is over that a core's fused sets stand for, each is counted, once, in its group (log 41). -/
def settleFused (s : State) : State :=
  s.cores.foldl (fun s x =>
    if x.2.fused.isEmpty || x.2.fusedAt == s.clk then s
    else (x.2.fused.foldl (fun s f => s.onGroup f.group (fun g => addConflicts g f.conflicts)) s).setCore x.1 { x.2 with fused := [] }) s

/-- R291, R298: the conflicts of an issue's operations, each with its octet. -/
def countConflicts (s : State) (is : Issue) (o : EOps) (a b : List Dword) (pb : Nat) (xs : List (Nat × Octet)) : State :=
  let s := s.onGroup is.key (fun g => addConflicts g ((xs.map (fun x => aConflicts is a x.2)).sum))
  xs.foldl (fun s x => joinFused s is.core {
    tid := o.b.toNat, n0 := x.2.n0, kb := x.2.kb, pb, octet := x.1, group := is.key, conflicts := bConflicts is b x.2 }) s

/-! ### `mma` and `mmaz` -/

/-- R290: octet operations of a core in its slots or waiting for one. -/
def octetsOn (s : State) (core : Nat) : Nat :=
  s.matops.foldl (fun k x => if x.2.core == core then k + x.2.octets.length else k) 0

/-- R296: what an identifier of an operand must be. -/
def planeTid (r : List Dword) : Bool := tidFmt r == 7 && tidBase r / 2 ^ 57 == 0x7e

/-- R296, step 3: an octet's coordinates fit the tile. -/
def octetFits (t : Tile) (vE : Nat) (x : Octet) : Bool := bits vE 31 29 == 0 && x.drow + 8 ≤ t.rows && (x.g + 1) * 128 ≤ t.rb

/-- The operand tile of a matrix instruction (R295). -/
def mmaTile (o : EOps) : Option Nat := if o.bit 9 then some (o.ctl.extractLsb' 10 8).toNat else none

/-- R296, step 1: the tiles, in order; `none` when they let the instruction go on. -/
def mmaTiles (is : Issue) (o : EOps) (s : State) : Option Verdict :=
  let d := is.t.tile (tileKey is o.d.toNat)
  match d.forWrite with
  | .bad => some (.trap s 8 1 0 is.ex)
  | .wait => some (.hold s)
  | .go =>
    if d.space != 1 || d.fmt != 0 then some (.trap s 8 3 0 is.ex)
    else match mmaTile o with
      | none => none
      | some n => match (is.t.tile (tileKey is n)).forRead with
        | .bad => some (.trap s 8 1 0 is.ex)
        | .wait => some (.hold s)
        | .go => none

/-- R296, step 2: the code of the identifiers' first failure, 0 for none. -/
def mmaTids (a b : List Dword) : Nat :=
  if tidCode a false != 0 then tidCode a false
  else if tidCode b false != 0 then tidCode b false
  else if planeTid a && planeTid b then 0 else 8

/-- The counter a format E instruction names when bit `k` of its ctl is set. -/
def EOps.counterAt (o : EOps) (k : Nat) : Option Nat := if o.bit k then some o.cnt.val else none

/-- R292, R294, R298: an operation that has issued. -/
def startMat (s : State) (is : Issue) (o : EOps) (acc : Bool) (a b : List Dword) (xs : List (Nat × Octet)) : State :=
  let d := is.t.tile (tileKey is o.d.toNat)
  let (id, s) := s.fresh
  let op : MatOp := {
    ctx := is.g.ctx, core := is.core, group := is.key, team := is.g.team, accumulate := acc, tidA := a, tidB := b
    pa := (o.ctl.extractLsb' 0 4).toNat + 1, pb := (o.ctl.extractLsb' 4 4).toNat + 1
    tileD := tileKey is o.d.toNat, dBase := d.base, dRb := d.rb, tileT := (mmaTile o).map (tileKey is), counter := EOps.counterAt o 8
    octets := xs.map (·.2), order := id }
  let s := (startArray s is.core)
  let s := { s with matops := insert s.matops id op }
  let s := s.onTile is.g.team op.tileD (fun t => { t with wr := t.wr + 1 })
  let s := match op.tileT with
    | none => s
    | some k => s.onTile is.g.team k (fun t => { t with rd := t.rd + 1 })
  countConflicts (s.onGroup is.key (fun g => countUp g op.counter)) is o a b op.pb xs

/-- R296, R297: the issue of `mma` and `mmaz`. -/
def mmaBody (o : EOps) (acc : Bool) (is : Issue) (s : State) : Verdict :=
  match mmaTiles is o s with
  | some v => v
  | none =>
    let a := s.tid is.g.ctx o.a.toNat
    let b := s.tid is.g.ctx o.b.toNat
    let code := mmaTids a b
    if code != 0 then .trap s 9 code 0 is.ex
    else
      let d := is.t.tile (tileKey is o.d.toNat)
      let ls := leaders is.g is.gd
      let vE := fun l => (is.g.vlane o.e.toNat l).toNat
      match ls.find? (fun l => !octetFits d (vE l) (octetOf is o l)) with
      | some l => .trap s 7 0 (tileAddr o.d.toNat (vE l)) is.ex
      | none =>
        let xs := ls.map (octetOf is o)
        let stray := xs.findSome? (fun x =>
          (strayBlock is.l a ((rowsRead a x.m0 8 x.kb).map (fun r => blockAddr a r x.kb))).or
            (strayBlock is.l b ((rowsRead b x.n0 32 x.kb).map (fun r => blockAddr b r x.kb))))
        match stray with
        | some off => .trap s 7 0 off is.ex
        | none =>
          if 144 < octetsOn s is.core + xs.length || counterFull is.g (EOps.counterAt o 8) then .hold s
          else .commit (startMat s is o acc a b ((ls.map (· / 8)).zip xs)) 0 0

/-- R77, R114: the code of a counter, among the register tables; an operation that counts reads its counter. -/
def ccCode (n : Nat) : RegCode := 208 + n
def ccRead : Option Nat → List RegCode
  | none => []
  | some n => [ccCode n]

/-- Registers of the coordinates, and the counter. -/
def mmaRegs (o : EOps) : List RegCode := ccRead (EOps.counterAt o 8) ++ [o.c.toNat, o.c.toNat + 1, o.e.toNat]

/-- `mma` (R297). -/
def execMma (o : EOps) (s : State) : Host.Outcome State Fault Refusal := execE o (mmaRegs o) [] (mmaBody o true) s

/-- `mmaz` (R297). -/
def execMmaz (o : EOps) (s : State) : Host.Outcome State Fault Refusal := execE o (mmaRegs o) [] (mmaBody o false) s

/-- R46, R297: a sump word after one block value. -/
def accumulate (acc : Bool) (w : Nat) (v : Option (Int × Int)) : Nat × Word :=
  let term := fun (x : Int × Int) => ((decide (x.1 < 0), x.1.natAbs, x.2) : Term)
  if acc then
    match binary32.decode w with
    | .nan sig => (binary32.nan, if sig then fNV else 0)
    | .inf n => match v with
      | none => (binary32.nan, 0)
      | some _ => binary32.infRes n
    | .fin n m e => match v with
      | none => (binary32.nan, 0)
      | some x => binary32.sum .rn [(n, m, e), term x]
  else match v with
    | none => (binary32.nan, 0)
    | some x => if x.1 == 0 then (0, 0) else binary32.sum .rn [term x]

/-- R297: the block of a row, with its flags. -/
def operandBlock (s : State) (t : Team) (l : Launch) (r : List Dword) (row kb : Nat) : Block × Word :=
  if tidExtent r 1 ≤ row || tidExtent r 0 ≤ 32 * kb then (Block.flat 0 (tidP r), 0)
  else readBlock (tidP r) (teamRead s t l (blockAddr r row kb % 2 ^ 57) (8 + 4 * tidP r))

/-- R297: one word of an octet's result. -/
def octetWord (op : MatOp) (base : Nat) (x : Octet) (bb : List (Block × Word)) (i : Nat) (ba : Block) (m : List Host.Cell × Word) (j : Nat) :
    List Host.Cell × Word :=
  let key := base + (x.drow + i) * op.dRb + 4 * (32 * x.g + j)
  let y := accumulate op.accumulate (Memory.value m.1 key 4) (blockProduct ba (bb.getD j (Block.flat 0 1, 0)).1 op.pa op.pb)
  (Memory.store m.1 key (leBytes 4 y.1), m.2 ||| y.2)

/-- R297: the results of one octet operation, with its flags. -/
def octetResult (s : State) (t : Team) (l : Launch) (op : MatOp) (x : Octet) : List Host.Cell × Word :=
  let ab := (List.range 8).map (fun i => operandBlock s t l op.tidA (x.m0 + i) x.kb)
  let bb := (List.range 32).map (fun j => operandBlock s t l op.tidB (x.n0 + j) x.kb)
  let member := t.memberOf op.core
  let base := sumpKey op.core (t.sump.getD member 0 + op.dBase)
  let f0 := (ab ++ bb).foldl (fun (f : Word) y => f ||| y.2) 0
  (List.range 8).foldl (fun m i => (List.range 32).foldl (octetWord op base x bb i (ab.getD i (Block.flat 0 1, 0)).1) m) (s.mem, f0)

/-- The bytes an octet operation writes: keys with lengths. -/
def octetBytes (t : Team) (op : MatOp) (x : Octet) : List (Nat × Nat) :=
  let base := sumpKey op.core (t.sump.getD (t.memberOf op.core) 0 + op.dBase)
  (List.range 8).map (fun i => (base + (x.drow + i) * op.dRb + 128 * x.g, 128))

/-- R292: no earlier operation of the team on its core is still to be performed. -/
def matTurn (s : State) (op : MatOp) : Bool :=
  !s.matops.any (fun x => x.2.core == op.core && x.2.team == op.team && x.2.order < op.order)

/-- R294: a store reached bytes of an operand's block while the operation was in flight. -/
def blockRaced (t : Team) (l : Launch) (op : MatOp) (r : List Dword) (row kb : Nat) : Bool :=
  row < tidExtent r 1 && 32 * kb < tidExtent r 0 &&
    (List.range (8 + 4 * tidP r)).any (fun k => ((directKey t l (blockAddr r row kb % 2 ^ 57 + k)).map op.raced.contains).getD false)

/-- R271, R294: the sump words of an octet whose result is undefined: those that read a block stored to meanwhile, and those stored to themselves. -/
def racedWords (t : Team) (l : Launch) (op : MatOp) (x : Octet) : List Nat :=
  let base := sumpKey op.core (t.sump.getD (t.memberOf op.core) 0 + op.dBase)
  let cols := (List.range 32).map (fun j => blockRaced t l op op.tidB (x.n0 + j) x.kb)
  (List.range 8).flatMap (fun i =>
    let row := blockRaced t l op op.tidA (x.m0 + i) x.kb
    ((List.range 32).map (fun j => (j, base + (x.drow + i) * op.dRb + 4 * (32 * x.g + j)))).filterMap (fun y =>
      if row || cols.getD y.1 false || (List.range 4).any (fun k => op.raced.contains (y.2 + k)) then some y.2 else none))

/-- R293: the flags an operation may set. -/
def matFlags : Word := fNV ||| fOF ||| fUF ||| fNX ||| fSAT ||| fRC

/-- R271, R294: undefined results take free values, and so do the flags they would set (log 60). -/
def racedResults (s : State) (op : MatOp) : State :=
  match lookup s.teams op.team, (lookup s.teams op.team).bind (fun t => lookup s.launches t.launch) with
  | some t, some l =>
    match op.done.flatMap (racedWords t l op) with
    | [] => s
    | ks =>
      let (k, s) := s.free
      let s := s.onGroup op.group (fun g => g.orFlags (Config.freeWord k &&& matFlags))
      ks.foldl (fun s key => let (b, s) := freeBytes s 4; s.poke key b) s
  | _, _ => s

/-- R294: an operation whose octets are all performed releases its counter and its tile counts. -/
def endMat (s : State) (id : Nat) (op : MatOp) : State :=
  let s := if op.raced.isEmpty then s else racedResults s op
  let s := { s with matops := erase s.matops id }
  let s := s.onTile op.team op.tileD Tile.endWrite
  let s := match op.tileT with
    | none => s
    | some k => s.onTile op.team k Tile.endRead
  restArray (s.onGroup op.group (fun g => countDown g op.counter)) op.core

/-- MATRIX_OP_COMPLETE (R294): the operation's next octet, in the order of acceptance, is performed. -/
def execMatrixOpComplete (op : Nat) (s : State) : Host.Outcome State Fault Refusal :=
  match lookup s.matops op with
  | none => .next s
  | some x =>
    match lookup s.teams x.team, (lookup s.teams x.team).bind (fun t => lookup s.launches t.launch), x.octets with
    | some t, some l, o :: rest =>
      if matTurn s x then
        let (mem, fl) := octetResult s t l x o
        let s := (({ s with mem } : State).noteWrites (octetBytes t x o)).onGroup x.group (fun g => g.orFlags fl)
        let y := { x with octets := rest, done := x.done ++ [o] }
        .next (if rest.isEmpty then endMat s op y else { s with matops := insert s.matops op y })
      else .next s
    | _, _, _ => .next s

/-- `mbank` (R299). -/
def execMbank (o : EOps) (s : State) : Host.Outcome State Fault Refusal :=
  execE o [] (scalCodes o.d 1) (fun is s =>
    .commit (s.onGroup is.key (fun g => { g.writeS (byteScalar o.d) (BitVec.ofNat 64 g.conflicts) with conflicts := 0 })) 0 0) s

end Sys2Proof.Machine
end

