-- ==== Sys2Proof/Machine/Gate.lean ====
section
/-! DEFINITION. Machine/Gate: the gate pipeline: its programs, their results and the streams its scans carry (R300 to R310). -/
namespace Sys2Proof.Machine

/-! ### Gate programs (R300, R302) -/

/-- The fields of a micro-operation. -/
def gOp (w : Word) : Nat := bits w.toNat 31 28
def gTD (w : Word) : Nat := bits w.toNat 27 25
def gTA (w : Word) : Nat := bits w.toNat 24 22
def gTB (w : Word) : Nat := bits w.toNat 21 19
def gTC (w : Word) : Nat := bits w.toNat 18 16
def gK (w : Word) : Nat := bits w.toNat 15 0

/-- R300: a micro-operation's code is not reserved and its unused fields are zero. -/
def gWordOk (w : Word) : Bool :=
  let zero := fun (td ta tb tc k : Bool) =>
    (td || gTD w == 0) && (ta || gTA w == 0) && (tb || gTB w == 0) && (tc || gTC w == 0) && (k || gK w == 0)
  match gOp w with
  | 0 => zero false false false false false
  | 1 | 2 | 3 | 4 => zero true true false false false
  | 5 => zero true true true true false
  | 6 => zero true true true false false
  | 7 => zero true false false false true
  | _ => false

/-- R302: the status of an image, from word `n` on. -/
def gateStatus : List Word → Nat → Bool → Bool → Nat
  | [], _, ended, _ => if ended then 0 else 17
  | w :: r, n, ended, scan =>
    if ended then (if w != 0 then n + 1 else gateStatus r (n + 1) ended scan)
    else if !gWordOk w || (gOp w == 6 && scan) then n + 1
    else gateStatus r (n + 1) (gOp w == 0) (scan || gOp w == 6)

/-- The words of a byte list, four bytes each. -/
def wordsOf (b : List Byte) (n : Nat) : List Word := (List.range n).map (fun k => BitVec.ofNat 32 (field b (4 * k) 4))

/-- `gcfg` (R302). -/
def execGcfg (o : EOps) (s : State) : Host.Outcome State Fault Refusal :=
  execE o (scalCodes o.a 1) (scalCodes o.d 1) (fun is s =>
    match readOnce s is (scalAt is o.a 0).toNat 64 with
    | .stop v => v
    | .got b s _ =>
      let img := wordsOf b 16
      let status := gateStatus img 0 false false
      let s := if status == 0 then
          (match lookup s.teams is.g.team with
          | some t => s.setTeam is.g.team { t with gates := insert t.gates (o.ctl.extractLsb' 0 3).toNat img }
          | none => s)
        else s
      .commit (s.onGroup is.key (fun g => g.writeS (byteScalar o.d) (BitVec.ofNat 64 status))) 0 0) s

/-! ### One element (R301, R305) -/

/-- The element registers, the carried element, and the flags so far. -/
structure GElem where
  t : List Nat
  h : Nat
  flags : Word := 0
  deriving DecidableEq, Repr

/-- R301: a micro-operation's result. -/
def gResult (w : Word) (x : GElem) : FRes :=
  let v := fun (k : Nat) => binary32.decode (x.t.getD k 0)
  match gOp w with
  | 1 => gateSig (v (gTA w))
  | 2 => gateTanh (v (gTA w))
  | 3 => gateSilu (v (gTA w))
  | 4 => gateExp (v (gTA w))
  | 5 => binary32.fma .rn (v (gTA w)) (v (gTB w)) (v (gTC w))
  | 6 => binary32.fma .rn (v (gTA w)) (binary32.decode x.h) (v (gTB w))
  | _ => (gK w * 2 ^ 16, 0)

/-- R305: runs a program on one element up to its `gend`. -/
def gRun : List Word → GElem → GElem
  | [], x => x
  | w :: r, x =>
    if gOp w == 0 then x
    else
      let y := gResult w x
      gRun r { t := x.t.set (gTD w) y.1, h := if gOp w == 6 then y.1 else x.h, flags := x.flags ||| y.2 }

/-! ### Streams (R307) -/

/-- A stream entry; one never written is invalid, with no mark. -/
def State.stream (s : State) (c n : Nat) : List Dword :=
  (lookup (s.ctx c).streams n).getD [0, 0, BitVec.allOnes 64, 0]

def strValid (e : List Dword) : Bool := (tidWord e 0).testBit 0
def strState (e : List Dword) : Nat := bits (tidWord e 0) 23 16
def strReset (e : List Dword) : Bool := (tidWord e 0).testBit 32
def strInitV (e : List Dword) : Bool := (tidWord e 0).testBit 39
def strInit (e : List Dword) : Nat := bits (tidWord e 0) 47 40
def strPos (e : List Dword) : Nat := tidWord e 1
def strMark (e : List Dword) : Nat := tidWord e 2

def State.setStream (s : State) (c n : Nat) (e : List Dword) : State :=
  let x := s.ctx c
  s.setCtx c { x with streams := insert x.streams n e }

/-- Operations on a stream that are not finished, the earliest first (R310). -/
def streamOps (s : State) (c n : Nat) : List StreamOp := (lookup (s.ctx c).streamOps n).getD []

/-- R310: an operation joins the order of its stream. -/
def joinStream (s : State) (c n : Nat) (x : StreamOp) : State :=
  let y := s.ctx c
  s.setCtx c { y with streamOps := insert y.streamOps n (streamOps s c n ++ [x]) }

/-- R310: an operation has finished. -/
def leaveStream (s : State) (c n : Nat) (x : StreamOp) : State :=
  let y := s.ctx c
  s.setCtx c { y with streamOps := insert y.streamOps n ((streamOps s c n).filter (· != x)) }

/-- R304: the offset of an end of row 0 that lies outside the direct window. -/
def rowStray (l : Launch) (r : List Dword) : Option Nat :=
  ([tidBase r, tidElem r (tidExtent r 0 - 1) 0 0 0].find? (fun a => !windowFits l a 4)).map (· % 2 ^ 57)

/-- R304: an identifier of a stream is valid for a gate or a stream job. -/
def stateTid (r : List Dword) : Nat :=
  if tidCode r false != 0 then tidCode r false
  else if tidFmt r != 0 || tidBase r / 2 ^ 57 != 0x7e then 8 else 0

/-! ### `gate` (R303 to R306) -/

/-- The fields of a `gate`. -/
def gateSU (o : EOps) : Bool := o.bit 5
def gateY (o : EOps) : Option Nat := if o.bit 3 then some o.b.toNat else none
def gateZ (o : EOps) : Option Nat := if o.bit 4 then some o.c.toNat else none
def gateStream (o : EOps) : Option Nat := if o.bit 5 then some (o.ctl.extractLsb' 6 10).toNat else none

/-- The tiles a `gate` reads, each once: an operation counts once in a tile (R274). -/
def gateInputs (o : EOps) : List Nat := (o.a.toNat :: (gateY o).toList ++ (gateZ o).toList).eraseDups

/-- R304, step 1: the tiles in order. A tile that is both written and read must be filling. -/
def gateTiles (is : Issue) (o : EOps) : List Nat → TileUse
  | [] => (is.t.tile (tileKey is o.d.toNat)).forWrite
  | n :: r =>
    match (if n == o.d.toNat then TileUse.go else (is.t.tile (tileKey is n)).forRead) with
    | .go => gateTiles is o r
    | x => x

/-- R304, step 4: the stream of a `gate`: code, DETAIL and the offset PROT reports; code 0 when it may be used. -/
def gateStreamCode (s : State) (is : Issue) (n : Nat) : Nat × Nat × Nat :=
  let e := s.stream is.g.ctx n
  if !strValid e then (9, 9, 0)
  else
    let a := s.tid is.g.ctx (strState e)
    let b := s.tid is.g.ctx (strInit e)
    if tidCode a false != 0 then (9, tidCode a false, 0)
    else if strInitV e && tidCode b false != 0 then (9, tidCode b false, 0)
    else if stateTid a != 0 || (strInitV e && stateTid b != 0) then (9, 8, 0)
    else match (rowStray is.l a).or (if strInitV e then rowStray is.l b else none) with
      | some off => (7, 0, off)
      | none => (0, 0, 0)

/-- R306: gates of a core that wait or run: one runs, 16 wait. -/
def gatesOn (s : State) (core : Nat) : Nat := (s.gateops.filter (fun x => x.2.core == core)).length

/-- The counter of a `gate`. -/
def gateCounter (o : EOps) : Option Nat := if o.bit 16 then some o.cnt.val else none

/-- R294, R305: a `gate` that has issued, with the copies it takes. -/
def startGate (s : State) (is : Issue) (o : EOps) (prog : List Word) : State :=
  let d := is.t.tile (tileKey is o.d.toNat)
  let at_ := fun (n : Nat) => let t := is.t.tile (tileKey is n); (t.space, t.base)
  let e := s.stream is.g.ctx ((gateStream o).getD 0)
  let (id, s) := s.fresh
  let op : GateOp := {
    ctx := is.g.ctx, core := is.core, group := is.key, team := is.g.team, prog, rows := d.rows, cols := d.rb / 4
    tileD := tileKey is o.d.toNat, tileX := tileKey is o.a.toNat, tileY := (gateY o).map (tileKey is), tileZ := (gateZ o).map (tileKey is)
    dBase := at_ o.d.toNat, xBase := at_ o.a.toNat, yBase := at_ ((gateY o).getD 0), zBase := at_ ((gateZ o).getD 0)
    stream := gateStream o, stateRec := s.tid is.g.ctx (strState e), initRec := s.tid is.g.ctx (strInit e)
    counter := gateCounter o, order := id }
  let s := { s with gateops := insert s.gateops id op }
  let s := (gateInputs o).foldl (fun s n => if n == o.d.toNat then s else s.onTile is.g.team (tileKey is n) (fun t => { t with rd := t.rd + 1 })) s
  let s := s.onTile is.g.team op.tileD (fun t => { t with wr := t.wr + 1 })
  let s := match op.stream with
    | none => s
    | some n => joinStream s is.g.ctx n (.gate id)
  s.onGroup is.key (fun g => countUp g op.counter)

/-- R304: the issue of `gate`. -/
def gateBody (o : EOps) (is : Issue) (s : State) : Verdict :=
  match gateTiles is o (gateInputs o) with
  | .bad => .trap s 8 1 0 is.ex
  | .wait => .hold s
  | .go =>
    match lookup is.t.gates (o.ctl.extractLsb' 0 3).toNat with
    | none => .trap s 8 4 0 is.ex
    | some prog =>
      let d := is.t.tile (tileKey is o.d.toNat)
      if (o.d.toNat :: gateInputs o).any (fun n => let t := is.t.tile (tileKey is n); t.fmt != 0 || t.rows != d.rows || t.rb != d.rb) then
        .trap s 8 3 0 is.ex
      else
        let (code, detail, off) := match gateStream o with
          | none => (0, 0, 0)
          | some n => gateStreamCode s is n
        if code != 0 then .trap s code detail off is.ex
        else if 17 ≤ gatesOn s is.core || counterFull is.g (gateCounter o) then .hold s
        else .commit (startGate s is o prog) 0 0

/-- `gate` (R303 to R306). -/
def execGate (o : EOps) (s : State) : Host.Outcome State Fault Refusal := execE o (ccRead (gateCounter o)) [] (gateBody o) s

/-! ### The operation -/

/-- The byte of a tile's area at an offset: its space and base as they were at issue. -/
def areaKey (t : Team) (l : Launch) (core : Nat) (b : Nat × Nat) (o : Nat) : Nat :=
  if b.1 == 0 then (directKey t l (b.2 + o)).getD 0 else sumpKey core (t.sump.getD (t.memberOf core) 0 + b.2 + o)

/-- What a stream gives an operation: position, mark (R305), the element counts of STATE and INIT. -/
structure Scan where
  pos : Nat
  mark : Option Nat
  state : List Dword
  init : Option (List Dword)
  deriving DecidableEq, Repr

/-- R305: the element h takes at a mark. -/
def initElem (s : State) (t : Team) (l : Launch) (x : Scan) (j : Nat) : Nat :=
  match x.init with
  | some r => if j < tidExtent r 0 then leNat (teamRead s t l (tidElem r j 0 0 0 % 2 ^ 57) 4) else 0
  | none => 0

/-- The progress of an operation: memory, the carried row, flags. -/
structure GProg where
  mem : List Host.Cell
  h : List Nat
  flags : Word := 0
  deriving DecidableEq, Repr

/-- R305: one element. -/
def gateElem (s : State) (t : Team) (l : Launch) (op : GateOp) (x : Option Scan) (row : Nat) (p : GProg) (j : Nat) : GProg :=
  let o := 4 * (row * op.cols + j)
  let rd := fun (b : Nat × Nat) => Memory.value p.mem (areaKey t l op.core b o) 4
  let h := match x with
    | some y => if y.mark == some (y.pos + row) then initElem { s with mem := p.mem } t l y j else p.h.getD j 0
    | none => p.h.getD j 0
  let z := gRun op.prog {
    t := [rd op.xBase, if op.tileY.isSome then rd op.yBase else 0, if op.tileZ.isSome then rd op.zBase else 0, 0, 0, 0, 0, 0], h }
  { mem := Memory.store p.mem (areaKey t l op.core op.dBase o) (leBytes 4 (z.t.getD 0 0)), h := p.h.set j z.h, flags := p.flags ||| z.flags }

/-- R305: a stream's part before the rows. -/
def scanOf (s : State) (op : GateOp) (n : Nat) : Scan :=
  let e := s.stream op.ctx n
  let p := strPos e
  let mk := if strReset e then p else strMark e
  { pos := p, mark := some (max mk p), state := op.stateRec, init := if strInitV e then some op.initRec else none }

/-- R305: the carried row at the start. -/
def firstRow (s : State) (t : Team) (l : Launch) (op : GateOp) : Option Scan → List Nat
  | none => List.replicate op.cols 0
  | some x => (List.range op.cols).map (fun j => if j < tidExtent x.state 0 then leNat (teamRead s t l (tidElem x.state j 0 0 0 % 2 ^ 57) 4) else 0)

/-- R305: the rows. -/
def gateRows (s : State) (t : Team) (l : Launch) (op : GateOp) (x : Option Scan) : GProg :=
  (List.range op.rows).foldl (fun p row => (List.range op.cols).foldl (gateElem s t l op x row) p)
    { mem := s.mem, h := firstRow s t l op x }

/-- R305: writes the carried state and the stream's entry. -/
def writeStream (s : State) (t : Team) (l : Launch) (op : GateOp) (n : Nat) (x : Scan) (h : List Nat) : State :=
  let s := (List.range (min op.cols (tidExtent x.state 0))).foldl (fun s j => teamWrite t l s (tidElem x.state j 0 0 0 % 2 ^ 57) (leBytes 4 (h.getD j 0))) s
  let e := s.stream op.ctx n
  let used := match x.mark with
    | some mk => decide (mk < x.pos + op.rows)
    | none => false
  s.setStream op.ctx n [e.getD 0 0 &&& ~~~(1#64 <<< 32), BitVec.ofNat 64 (x.pos + op.rows), if used then BitVec.allOnes 64 else e.getD 2 0, e.getD 3 0]

/-- The bytes of D that an operation writes: keys with lengths, one a result. -/
def gateBytes (t : Team) (l : Launch) (op : GateOp) : List (Nat × Nat) :=
  (List.range (op.rows * op.cols)).map (fun k => (areaKey t l op.core op.dBase (4 * k), 4))

/-! ### Results that a store has raced (R271, R294) -/

/-- A store reached one of `n` bytes from a key while the operation was in flight. -/
def GateOp.hit (op : GateOp) (key n : Nat) : Bool := (List.range n).any (fun k => op.raced.contains (key + k))

/-- R294: a store reached what an element of the tiles read gives. -/
def inputHit (t : Team) (l : Launch) (op : GateOp) (row j : Nat) : Bool :=
  let o := 4 * (row * op.cols + j)
  let hit := fun (b : Nat × Nat) => op.hit (areaKey t l op.core b o) 4
  hit op.xBase || (op.tileY.isSome && hit op.yBase) || (op.tileZ.isSome && hit op.zBase)

/-- A store reached element j of row 0 of a stream's identifier. -/
def rowHit (t : Team) (l : Launch) (op : GateOp) (r : List Dword) (j : Nat) : Bool :=
  decide (j < tidExtent r 0) && ((directKey t l (tidElem r j 0 0 0 % 2 ^ 57)).map (fun k => op.hit k 4)).getD false

/-- R294, R305: the rows of a column whose results are undefined, and whether the element the column carries on is: an element carried comes from the rows before it up to the last mark. -/
def columnHits (t : Team) (l : Launch) (op : GateOp) (x : Option Scan) (j : Nat) : List Nat × Bool :=
  let scans := op.prog.any (fun w => gOp w == 6)
  let first := match x with
    | some y => rowHit t l op y.state j
    | none => false
  (List.range op.rows).foldl (fun (p : List Nat × Bool) row =>
    let h := match x with
      | some y => if y.mark == some (y.pos + row) then (y.init.map (fun r => rowHit t l op r j)).getD false else p.2
      | none => p.2
    let hit := inputHit t l op row j
    let h' := if scans then h || hit else h
    (if hit || (scans && h) then p.1 ++ [row] else p.1, h')) ([], first)

/-- R271, R294: writes free values over the results of a column that a store raced, over those stored to themselves, and over its carried element (log 60); whether there was any. -/
def racedColumn (t : Team) (l : Launch) (op : GateOp) (x : Option Scan) (z : State × Bool) (j : Nat) : State × Bool :=
  let (rows, h) := columnHits t l op x j
  let keyOf := fun (row : Nat) => areaKey t l op.core op.dBase (4 * (row * op.cols + j))
  let open_ := (List.range op.rows).filter (fun row => rows.contains row || op.hit (keyOf row) 4)
  let s := open_.foldl (fun s row => let (b, s) := freeBytes s 4; s.poke (keyOf row) b) z.1
  match x with
  | some y =>
    if decide (j < tidExtent y.state 0) && (h || rowHit t l op y.state j) then
      let (b, s) := freeBytes s 4
      (teamWrite t l s (tidElem y.state j 0 0 0 % 2 ^ 57) b, true)
    else (s, z.2 || !open_.isEmpty)
  | none => (s, z.2 || !open_.isEmpty)

/-- R271, R294: the results of a finished operation that stores raced, and then any flags it may set. -/
def racedGate (s : State) (t : Team) (l : Launch) (op : GateOp) (x : Option Scan) (flags : Word) : State × Word :=
  if op.raced.isEmpty then (s, flags)
  else
    let (s, any) := (List.range op.cols).foldl (racedColumn t l op x) (s, false)
    if any then let (k, s) := s.free; (s, flags ||| (Config.freeWord k &&& matFlags)) else (s, flags)

/-- R294: a finished `gate` releases its tiles, its stream and its counter; its conflicts, where a tile lies in the cistern, are an amount the manual does not give. -/
def endGate (s : State) (id : Nat) (op : GateOp) (flags : Word) : State :=
  let s := { s with gateops := erase s.gateops id }
  let s := ((op.tileX :: op.tileY.toList ++ op.tileZ.toList).eraseDups).foldl (fun s k => if k == op.tileD then s else s.onTile op.team k Tile.endRead) s
  let s := s.onTile op.team op.tileD Tile.endWrite
  let s := match op.stream with
    | none => s
    | some n => leaveStream s op.ctx n (.gate id)
  let cistern := op.dBase.1 == 0 || op.xBase.1 == 0 || (op.tileY.isSome && op.yBase.1 == 0) || (op.tileZ.isSome && op.zBase.1 == 0) || op.stream.isSome
  let (k, s) := if cistern then s.free else (0, s)
  s.onGroup op.group (fun g =>
    (if cistern then addConflicts (countDown g op.counter) (Config.freeWord k).toNat else countDown g op.counter).orFlags flags)

/-- The gate that a core runs: the oldest (R306). -/
def oldestGate (s : State) (core : Nat) : Option (Nat × GateOp) :=
  s.gateops.foldl (fun best x =>
    if x.2.core != core then best
    else match best with
      | none => some x
      | some b => if x.2.order < b.2.order then some x else best) none

/-- GATE_OP_COMPLETE (R305, R306): the gate a core runs is performed, once every earlier operation on its stream has finished (R310). -/
def execGateOpComplete (core : Nat) (s : State) : Host.Outcome State Fault Refusal :=
  match oldestGate s core with
  | none => .next s
  | some (id, op) =>
    match lookup s.teams op.team, (lookup s.teams op.team).bind (fun t => lookup s.launches t.launch) with
    | some t, some l =>
      let first := match op.stream with
        | none => true
        | some n => (streamOps s op.ctx n).head? == some (.gate id)
      if !first then .next s
      else
        let x := op.stream.map (scanOf s op)
        let p := gateRows s t l op x
        let s := ({ s with mem := p.mem } : State).noteWrites (gateBytes t l op)
        let s := match op.stream, x with
          | some n, some x => writeStream s t l op n x p.h
          | _, _ => s
        let (s, flags) := racedGate s t l op x p.flags
        .next (endGate s id op flags)
    | _, _ => .next s

end Sys2Proof.Machine
end

