-- ==== Sys2Proof/Machine/Job.lean ====
section
/-! DEFINITION. Machine/Job: the pump's jobs, their cards, edges, units and completion, the counter instructions and the stream instructions (R311 to R331, R469). -/
namespace Sys2Proof.Machine

/-! ### Footprints and edges (R315, R321) -/

/-- R315: a footprint word is zero or legal. -/
def footOk (w : Nat) : Bool :=
  let lsz := w % 64
  w == 0 || ((w / 2 ^ 57 == 0 || w / 2 ^ 57 == 0x7e || w / 2 ^ 57 == 0x7f) && 6 ≤ lsz && lsz ≤ 40 && bits w 56 6 * 64 % 2 ^ lsz == 0)

/-- The footprint a word declares; none for zero. -/
def footOf (w : Nat) : List Foot := if w == 0 then [] else [{ sp := w / 2 ^ 57, base := bits w 56 6 * 64, lsz := w % 64 }]

/-- R315: two footprints overlap. -/
def Foot.meets (a b : Foot) : Bool := a.sp == b.sp && a.base < b.base + 2 ^ b.lsz && b.base < a.base + 2 ^ a.lsz

/-- R321: a later job of these footprints has an edge from an earlier one. -/
def Job.edgeTo (i : Job) (reads writes : List Foot) : Bool :=
  i.writes.any (fun x => (reads ++ writes).any x.meets) || i.reads.any (fun x => writes.any x.meets)

/-- The edges of a new job of a team: the jobs it waits for. -/
def edgesFrom (s : State) (team : Nat) (reads writes : List Foot) : List Nat :=
  (s.jobs.filter (fun x => x.2.team == team && x.2.edgeTo reads writes)).map (·.1)

/-- R311: jobs in a core's pump. -/
def pumpJobs (s : State) (core : Nat) : Nat := (s.jobs.filter (fun x => x.2.core == core)).length

def pumpSize : Nat := 32

/-! ### Addresses a job reaches (R316, R317, R386) -/

/-- R386: the byte a pinned handle names; `none` where its index is not registered or the offset passes the region. -/
def pinKey (x : Ctx) (a : Nat) : Option Nat :=
  match lookup x.pins (bits a 56 47) with
  | none => none
  | some p =>
    let pg := if p.host then 4096 else 65536
    let off := bits a 46 0
    (p.frames[off / pg]?).map (fun f => (if p.host then hostKey f else f) + off % pg)

/-- R386: `n` bytes at a handle lie in its region. -/
def pinFits (x : Ctx) (a n : Nat) : Bool :=
  match lookup x.pins (bits a 56 47) with
  | none => false
  | some p => bits a 46 0 + n ≤ p.frames.length * (if p.host then 4096 else 65536)

/-- Where a job's access lands. A reduce-on-store page takes no write of a pump (log 7). -/
def jobPlace (s : State) (j : Job) (t : Team) (l : Launch) (u : Use) (sump : Bool) (a : Nat) : Access :=
  if sump then .ok (.sram (sumpKey j.core (t.sump.getD (t.memberOf j.core) 0 + a)))
  else if a / 2 ^ 57 == 0x7e then
    match windowKey j.core t l (a % 2 ^ 57) with
    | some k => .ok (.sram k)
    | none => .prot
  else if a / 2 ^ 57 == 0x7c then
    match pinKey (s.ctx j.ctx) a with
    | some k => .ok (.sram k)
    | none => .prot
  else
    match globalAccess s j.ctx u false a with
    | .ok (.page va w pa) => if u.writes && leafRed w then .prot else .ok (.page va w pa)
    | x => x

/-- Pieces of a range from a source to a destination, each within one line of both. -/
def splitPieces : Nat → Nat → Nat → Nat → List (Nat × Nat × Nat)
  | 0, _, _, _ => []
  | f + 1, a, b, n =>
    if n == 0 then []
    else
      let k := min n (min (64 - a % 64) (64 - b % 64))
      (a, b, k) :: splitPieces f (a + k) (b + k) (n - k)

/-- R318: bytes of a unit of a copy. -/
def sectorBytes (j : Job) (u : Nat) : Nat := min 512 (j.len - 512 * u)

/-- R317: the pieces of a sector, in job offset order. -/
def sectorPieces (j : Job) (u : Nat) : List (Nat × Nat × Nat) :=
  match j.kind with
  | .copy src dst xp cols spitch dpitch _ _ =>
    let o := 512 * u
    if xp == 0 then splitPieces 32 (src + o) (dst + o) (sectorBytes j u)
    else (List.range (sectorBytes j u / xp)).map (fun i =>
      let e := o / xp + i
      let r := e / cols
      let k := e % cols
      ((src + r * spitch + k * xp) % 2 ^ 64, (dst + k * dpitch + r * xp) % 2 ^ 64, xp))
  | _ => []

/-! ### One unit (R312, R318, R319) -/

/-- What the attempt of a unit comes to. -/
inductive UnitEnd where
  | written (s : State) (flags : Word)
  | missing (s : State) (tickets : List Word)
  | failed (s : State) (code addr : Nat)
  | stays (s : State)
  deriving DecidableEq, Repr

/-- The faults of a list of accesses, each with its address. -/
def accessProt (l : List (Nat × Access)) : Option (Nat × Access) := l.find? (fun x => x.2.isProt)

/-- Translation faults of accesses. -/
def accessMisses (l : List (Nat × Access)) : List (Nat × Nat) := l.filterMap (fun x => match x.2 with
  | .xlate va r => some (va, r)
  | _ => none)

/-- Places of accesses that stand. -/
def accessPlaces (l : List (Nat × Access)) : List Place := l.filterMap (fun x => match x.2 with
  | .ok p => some p
  | _ => none)

/-- R382: the fault a job enters. -/
def jobFault (id : Nat) (j : Job) (write : Bool) (x : Nat × Nat) : FaultIn :=
  { die := j.core / 40, ctx := j.ctx, va := x.1, reason := x.2, write, core := j.core, job := true, card := j.card, waiter := .job id }

/-- Enters faults one after the other, with their tickets; `none` when the buffer is full. -/
def enterTickets (s : State) : List FaultIn → Option (List Word × State)
  | [] => some ([], s)
  | f :: r =>
    match enterFault s f with
    | none => none
    | some (t, s) => (enterTickets s r).map (fun x => (t :: x.1, x.2))

/-- Lines of a peer that a unit reads, with their leaves. -/
def peerLines (l : List (Nat × Place)) : List (Nat × Dword × Nat) := l.filterMap (fun x => match x.2 with
  | .page va w _ => (match leafLoc w va with
    | .peer _ pa => some (va / 64 * 64, w, pa / 64 * 64)
    | .here _ => none)
  | .sram _ => none)

/-- The name under which requests of a job stand in the retry store. -/
def jobAgent (id : Nat) : Nat := 2 ^ 32 + id

/-- Asks a peer for a line that a job has neither received nor asked for. -/
def askLine (id : Nat) (j : Job) (s : State) (x : Nat × Dword × Nat) : State :=
  if (lookup j.inbox x.1).isSome || (groupReqs s (jobAgent id)).any (fun r => r.for_ == .job id x.1) then s
  else sendPeer s (jobAgent id) j.ctx x.1 x.2.1 x.2.2 .plain (.read 64) (.job id x.1)

/-- The bytes of a place, a peer's from what it sent. -/
def jobBytes (s : State) (j : Job) (p : Place) (n : Nat) : List Byte :=
  match p with
  | .sram k => Memory.bytes s.mem k n
  | .page va w _ =>
    match leafLoc w va with
    | .here k => Memory.bytes s.mem k n
    | .peer _ _ => (((lookup j.inbox (va / 64 * 64)).getD []).drop (va % 64)).take n

/-- The key of a place in a line with an uncorrectable error. -/
def badPlace (s : State) (p : Place) : Option Nat :=
  match p.loc with
  | .here k => if s.badLine k then some k else none
  | .peer _ _ => none

/-- Writes bytes where a job's access lands. A handle names its pages by their frames (R386), whose leaves a write marks dirty (R131). -/
def jobStore (id : Nat) (j : Job) (s : State) (p : Place) (b : List Byte) : State :=
  match p with
  | .sram k =>
    let s := if k < 2 ^ 64 then s.dirtyFrame k b.length else s
    (holdDirty s j.ctx k).poke k b
  | .page va w pa =>
    let s := s.used j.ctx va .write w pa
    match leafLoc w va with
    | .here k => (holdDirty s j.ctx k).poke k b
    | .peer _ at_ => sendPeer s (jobAgent id) j.ctx va w at_ .plain (.write b) .nobody

/-- R318, R319: what a unit's accesses come to before it moves anything: its first failure, its translation faults, lines still to come from peers. -/
def unitCheck (s : State) (id : Nat) (j : Job) (reads writes : List (Nat × Access)) (go : State → UnitEnd) : UnitEnd :=
  match accessProt (reads ++ writes) with
  | some (a, x) => .failed (match x with
    | .malformed va => logMalformed s j.ctx j.core va
    | _ => s) 1 a
  | none =>
    match reads.findSome? (fun x => match x.2 with
      | .ok p => (badPlace s p).map (fun k => (x.1, k))
      | _ => none) with
    | some (a, k) => .failed (logEvent s j.ctx false 7 j.core 0 (lineName k) 0 0) 2 a
    | none =>
      let fs := (accessMisses reads).map (jobFault id j false) ++ (accessMisses writes).map (jobFault id j true)
      if fs.isEmpty then
        let s := (accessPlaces reads).foldl (fun s p => touch s j.ctx .read p) s
        let lines := peerLines ((accessPlaces reads).map (fun p => (0, p)))
        if lines.all (fun x => (lookup j.inbox x.1).isSome) then go s
        else .stays (lines.foldl (askLine id j) s)
      else match enterTickets s fs with
        | none => .stays s
        | some (ts, s) => .missing s ts

/-- R317: a byte of a copy's destination that its own source range covers, where both sides name one space. -/
def selfCovered (j : Job) (oneSpace : Bool) (a : Nat) : Bool :=
  match j.kind with
  | .copy src _ xp cols spitch _ _ _ =>
    oneSpace && src ≤ a && a < src + (if xp == 0 then j.len else (j.len / (cols * xp) - 1) * spitch + cols * xp)
  | _ => false

/-- The bytes for addresses from `a` on, with a free value where the manual leaves one undefined (log 58). -/
def orFree (open_ : Nat → Bool) (s : State) (a : Nat) (b : List Byte) : List Byte × State :=
  if (List.range b.length).any (fun k => open_ (a + k)) then
    let (x, s) := freeBytes s b.length
    ((List.range b.length).map (fun k => if open_ (a + k) then x.getD k 0 else b.getD k 0), s)
  else (b, s)

/-- A sector of a copy: written whole or not at all. -/
def copyUnit (s : State) (id : Nat) (j : Job) (t : Team) (l : Launch) (srcSump dstSump : Bool) (u : Nat) : UnitEnd :=
  let ps := sectorPieces j u
  let reads := ps.map (fun x => (x.1, jobPlace s j t l .read srcSump x.1))
  let writes := ps.map (fun x => (x.2.1, jobPlace s j t l .write dstSump x.2.1))
  unitCheck s id j reads writes fun s =>
    let data := ((accessPlaces reads).zip ps).map (fun x => jobBytes s j x.1 x.2.2.2)
    .written (((accessPlaces writes).zip (ps.zip data)).foldl (fun s x =>
      let (b, s) := orFree (selfCovered j (srcSump == dstSump)) s x.2.1.2.1 x.2.2
      jobStore id j s x.1 b) s) 0

/-! ### Plane jobs (R327) -/

/-- The indices of block n: i0, i1, i2, i3. -/
def blockIdx (r : List Dword) (n : Nat) : Nat × Nat × Nat × Nat :=
  let per := tidExtent r 0 / 32
  let m := n / per
  (32 * (n % per), m % tidExtent r 1, m / tidExtent r 1 % tidExtent r 2, m / (tidExtent r 1 * tidExtent r 2))

/-- R327: the number of blocks. -/
def planeBlocks (r : List Dword) : Nat := tidExtent r 1 * tidExtent r 2 * tidExtent r 3 * (tidExtent r 0 / 32)

/-- R285: the address of destination block n. -/
def planeDst (r : List Dword) (n : Nat) : Nat :=
  let (i0, i1, i2, i3) := blockIdx r n
  offset64 (tidRow r i1 i2 i3) (i0 / 32 * (8 + 4 * tidP r) : Nat)

/-- R285: the pieces of source block n: addresses and sizes. -/
def planeSrc (r : List Dword) (n : Nat) : List (Nat × Nat) :=
  let (i0, i1, i2, i3) := blockIdx r n
  if tidFmt r == 8 then
    [(offset64 (tidRow r i1 i2 i3) (i0 / 2 : Nat), 16),
     (offset64 (tidBase r) (tidScaleOff r + (((i3 * tidExtent r 2 + i2) * tidExtent r 1 + i1) * (tidExtent r 0 / 32) + i0 / 32 : Nat)), 1)]
  else (List.range 32).map (fun k => (tidElem r (i0 + k) i1 i2 i3, fmtBytes (tidFmt r)))

/-- A datum of a source element (R283). -/
def planeDatum (fmt x : Nat) : FVal :=
  match fmt with
  | 0 => binary32.decode x
  | 1 => bf16.decode x
  | 2 => fp16.decode x
  | 3 => e4m3.decode x
  | 4 => e5m2.decode x
  | 5 => .fin (signed 8 x < 0) (signed 8 x).natAbs 0
  | _ => .fin (signed 32 x < 0) (signed 32 x).natAbs 0

/-- The largest finite value of a source format, for R43. -/
def planeBig (fmt : Nat) : Nat × Int :=
  match fmt with
  | 1 => fmtBig bf16
  | 2 => fmtBig fp16
  | 3 => fmtBig e4m3
  | 4 => fmtBig e5m2
  | _ => fmtBig binary32

/-- R327: a block from the bytes of its source pieces. -/
def jobBlock (fmt p : Nat) (data : List (List Byte)) : Block × Word :=
  if fmt == 8 then
    let codes := (List.range 32).map (fun k => ((data.getD 0 []).getD (k / 2) 0).toNat / 16 ^ (k % 2) % 16)
    let scale := ((data.getD 1 []).getD 0 0).toNat
    if p == 4 then mxToPlane scale codes
    else toPlane p (planeBig 0) (codes.map (fun c =>
      if scale == 255 then .nan false else .fin (e2m1 c).1 (e2m1 c).2 ((scale : Int) - 128)))
  else toPlane p (planeBig fmt) (data.map (fun b => planeDatum fmt (leNat b)))

/-- A block of a plane job. -/
def planeUnit (s : State) (id : Nat) (j : Job) (t : Team) (l : Launch) (src dst : List Dword) (u : Nat) : UnitEnd :=
  let ps := planeSrc src u
  let reads := ps.map (fun x => (x.1, jobPlace s j t l .read false x.1))
  unitCheck s id j reads [] fun s =>
    let (b, f) := jobBlock (tidFmt src) (tidP dst) (((accessPlaces reads).zip ps).map (fun x => jobBytes s j x.1 x.2.2))
    .written (teamWrite t l s (planeDst dst u % 2 ^ 57) b.bytes) f

/-! ### Word 7 and the end of a job -/

/-- R318: units of a group of the mask. -/
def maskGroup (j : Job) : Nat := max 1 (ceilDiv j.units 32)

/-- R318: the mask's marked groups. -/
def markedGroups (j : Job) : List Nat :=
  (List.range 32).filter (fun b => (j.missing ++ j.todo).any (fun u => u / maskGroup j == b))

/-- What a unit counts in DONE: its bytes, or one for a block. -/
def unitCount (j : Job) (u : Nat) : Nat :=
  match j.kind with
  | .copy .. => sectorBytes j u
  | _ => 1

/-- R318: word 7: DONE, then MASK. -/
def jobWord7 (j : Job) : Nat :=
  let m := markedGroups j
  let left := (List.range j.units).foldl (fun k u => if m.contains (u / maskGroup j) then k + unitCount j u else k) 0
  (j.len - left) % 2 ^ 32 + 2 ^ 32 * m.foldl (fun k b => k + 2 ^ b) 0

/-- R312, R318: writes word 7 of a copy's card. A card the pump may not write is left as it is (log 15); a malformed entry is reported (R375). -/
def putWord7 (s : State) (id : Nat) (j : Job) : State × Job :=
  let w := jobWord7 j
  let j := { j with word7 := w }
  match j.kind, lookup s.teams j.team, (lookup s.teams j.team).bind (fun t => lookup s.launches t.launch) with
  | .copy .., some t, some l =>
    match jobPlace s j t l .write false (j.cardAt + 56) with
    | .ok p => (jobStore id j s p (leBytes 8 w), j)
    | .malformed va => (logMalformed s j.ctx j.core va, j)
    | _ => (s, j)
  | _, _, _ => (s, j)

/-- R145: a failed job is a fault of its launch. -/
def jobFaulted (s : State) (j : Job) : State :=
  match (lookup s.teams j.team).bind (fun t => (lookup s.launches t.launch).map (fun l => (t.launch, l))) with
  | some (id, l) => s.setLaunch id { l with faulted := true }
  | none => s

/-- The keys of `n` bytes at the places of a list of accesses, those of peers apart. -/
def accessKeys (l : List (Nat × Access)) (n : Nat) : List Nat := (accessPlaces l).flatMap (fun p => match p.loc with
  | .here k => (List.range n).map (k + ·)
  | .peer _ _ => [])

/-- R271: writes free values over the bytes of a copied piece whose source or destination was stored to while the job was in flight. -/
def racedPiece (id : Nat) (j : Job) (t : Team) (l : Launch) (srcSump dstSump : Bool) (s : State) (p : Nat × Nat × Nat) : State :=
  (List.range p.2.2).foldl (fun s k =>
    let src := accessKeys [(p.1 + k, jobPlace s j t l .read srcSump (p.1 + k))] 1
    let dst := jobPlace s j t l .write dstSump (p.2.1 + k)
    if (src ++ accessKeys [(p.2.1 + k, dst)] 1).any j.raced.contains then
      match dst with
      | .ok x => let (b, s) := freeBytes s 1; jobStore id j s x b
      | _ => s
    else s) s

/-- R271: writes free values over a block whose source, or over the bytes of one that themselves, were stored to; and whether the source was. -/
def racedBlock (j : Job) (t : Team) (l : Launch) (src dst : List Dword) (s : State) (u : Nat) : State × Bool :=
  let from_ := (planeSrc src u).any (fun p => (accessKeys [(p.1, jobPlace s j t l .read false p.1)] p.2).any j.raced.contains)
  let at_ := planeDst dst u % 2 ^ 57
  ((List.range (8 + 4 * tidP dst)).foldl (fun s k =>
    if from_ || ((directKey t l (at_ + k)).map j.raced.contains).getD false then let (b, s) := freeBytes s 1; teamWrite t l s (at_ + k) b else s) s, from_)

/-- R43, R331: the flags a plane job may set. -/
def planeFlags : Word := fNV ||| fOF ||| fUF ||| fNX ||| fSAT ||| fRC

/-- R271: a store to bytes that a job in flight read or wrote leaves its result undefined in those bytes, which take free values; so do flags computed from them (log 60). -/
def racedResult (s : State) (id : Nat) (j : Job) : State × Job :=
  match lookup s.teams j.team, (lookup s.teams j.team).bind (fun t => lookup s.launches t.launch) with
  | some t, some l =>
    let us := (List.range j.units).filter (fun u => !j.missing.contains u)
    match j.kind with
    | .copy _ _ _ _ _ _ a b => (us.foldl (fun s u => (sectorPieces j u).foldl (racedPiece id j t l a b) s) s, j)
    | .plane a b =>
      let (s, open_) := us.foldl (fun (x : State × Bool) u => let (s, f) := racedBlock j t l a b x.1 u; (s, x.2 || f)) (s, false)
      if open_ then let (k, s) := s.free; (s, { j with flags := j.flags ||| (Config.freeWord k &&& planeFlags) }) else (s, j)
    | _ => (s, j)
  | _, _ => (s, j)

/-- R312: a job that is done or failed leaves the pump. -/
def leavePump (s : State) (id : Nat) (j : Job) : State :=
  let s := match j.tileR with
    | some k => s.onTile j.team k Tile.endRead
    | none => s
  let s := match j.tileW with
    | some k => s.onTile j.team k Tile.endWrite
    | none => s
  let s := if j.failCode == 0 then s
    else report (jobFaulted s j) j.ctx (record 64 [(2, 5), (2, j.failCode), (2, j.core), (2, 0), (8, j.card), (8, j.word7), (8, j.faultAddr)])
  let s := s.onGroup j.group (fun g => (countDown g j.counter).orFlags j.flags)
  { s with jobs := erase s.jobs id }

/-- R312, R318: a job is done or has failed: its card says so, and it leaves the pump once a peer has acknowledged what was written there, for its completion releases all it wrote (R271, R356). -/
def finishJob (s : State) (id : Nat) (j : Job) : State :=
  let (s, j) := if j.raced.isEmpty then (s, j) else racedResult s id j
  let (s, j) := putWord7 s id j
  if (groupReqs s (jobAgent id)).isEmpty then leavePump s id j
  else { s with jobs := insert s.jobs id { j with state := if j.failCode == 0 then .done else .failed } }

/-- R318: a job that returns to running copies every unit of the marked groups. -/
def resumeJob (j : Job) : Job :=
  let m := markedGroups j
  { j with state := .running, todo := (List.range j.units).filter (fun u => m.contains (u / maskGroup j)) }

/-- R324, R469: lanes parked by `ccwait` on the job's counter wait on its entries too. -/
def joinCcwait (s : State) (j : Job) : State :=
  let ws := ((s.faults.flatMap (·.waiters)).filter (fun w => match w with
    | .ccwait k _ n => k == j.group && j.counter == some n
    | _ => false)).eraseDups
  if ws.isEmpty then s
  else { s with faults := s.faults.map (fun e => if j.tickets.contains e.ticket then { e with waiters := e.waiters ++ ws.filter (fun w => !e.waiters.contains w) } else e) }

/-- R312: what becomes of a job after a unit. One that waits for a peer to acknowledge a write is not done (R145, R432). -/
def afterUnit (s : State) (id : Nat) (j : Job) : State :=
  if !j.todo.isEmpty || !(groupReqs s (jobAgent id)).isEmpty then { s with jobs := insert s.jobs id j }
  else if j.failCode != 0 || j.missing.isEmpty then finishJob s id j
  else
    let (s, j) := putWord7 s id j
    if j.tickets.isEmpty then { s with jobs := insert s.jobs id (resumeJob j) }
    else joinCcwait { s with jobs := insert s.jobs id { j with state := .partialFault } } j

/-- Attempts a job's next unit. -/
def tryUnit (s : State) (id : Nat) (j : Job) (t : Team) (l : Launch) (u : Nat) : UnitEnd :=
  match j.kind with
  | .copy _ _ _ _ _ _ a b => copyUnit s id j t l a b u
  | .plane a b => planeUnit s id j t l a b u
  | _ => .stays s

/-- JOB_START (R312, R322): every job it has an edge from is done or failed. -/
def execJobStart (job : Nat) (s : State) : Host.Outcome State Fault Refusal :=
  match lookup s.jobs job with
  | none => .next s
  | some j =>
    if j.state == .waiting && j.edges.all (fun i => (lookup s.jobs i).isNone) then
      .next { s with jobs := insert s.jobs job { j with state := .running } }
    else .next s

/-! ### The copy of a COPY packet (R143, R382) -/

def CopyJob.units (c : CopyJob) : Nat := ceilDiv c.len 512

/-- A COPY as a job of its home die, for what it shares with jobs. DESIGN CHOICE (log 19): its faults name the die's first core. -/
def CopyJob.asJob (c : CopyJob) : Job :=
  { ctx := c.ctx, core := 40 * c.die, group := 0, team := 0, kind := .copy c.src c.dst 0 0 0 0 false false, card := 0, cardAt := 0, len := c.len
    counter := none, reads := [], writes := [], edges := [], tileR := none, tileW := none, units := c.units, todo := [], inbox := c.inbox, order := 0 }

/-- The unit a COPY attempts next. -/
def CopyJob.unit (c : CopyJob) : Option Nat := if c.next < c.units then some c.next else c.retry.head?

/-- The COPY with its next unit taken. -/
def CopyJob.taken (c : CopyJob) : CopyJob :=
  if c.next < c.units then { c with next := c.next + 1, inbox := [] } else { c with retry := c.retry.drop 1, inbox := [] }

/-- The missing units of a COPY are attempted again when all its entries are freed. -/
def CopyJob.again (c : CopyJob) : CopyJob :=
  if c.tickets.isEmpty && c.failCode == 0 && c.retry.isEmpty && c.next == c.units then { c with retry := c.missing } else c

/-- One unit of a COPY. It stands still while its context is not ACTIVE (log 19). -/
def copySector (s : State) (id : Nat) (c : CopyJob) : State :=
  match c.unit with
  | none => s
  | some u =>
    if (s.ctx c.ctx).state != .active then s
    else
      let put := fun (s : State) (x : CopyJob) => { s with copies := insert s.copies id x.again }
      let rest := c.missing.filter (· != u)
      match copyUnit s id c.asJob default default false false u with
      | .stays s => s
      | .written s _ => put s { c.taken with missing := rest }
      | .missing s ts => put s { c.taken with missing := rest ++ [u], tickets := c.tickets ++ ts.filter (fun t => !c.tickets.contains t) }
      | .failed s code a => put s { c.taken with
          missing := rest ++ [u]
          failCode := if c.failCode == 0 then code else c.failCode
          faultAddr := if c.failCode == 0 then a else c.faultAddr }

/-- The units of a job are moved by the pump's sectors (R312). -/
def JobKind.moves : JobKind → Bool
  | .copy .. => true
  | .plane .. => true
  | _ => false

/-- R320: the running jobs of a core's pump are served in acceptance order, round robin: the order of the next one. -/
def pumpNext (s : State) (core : Nat) : Option Nat :=
  let os := (s.jobs.filter (fun x => x.2.core == core && x.2.state == .running && x.2.kind.moves)).map (·.2.order)
  (minimum (os.filter (fun n => (s.core core).served < n))).or (minimum os)

/-- R318: one unit of a running job. -/
def serveJob (s : State) (id : Nat) (j : Job) : State :=
  match j.todo, lookup s.teams j.team, (lookup s.teams j.team).bind (fun t => lookup s.launches t.launch) with
  | [], some _, some _ => afterUnit s id j
  | u :: rest, some t, some l =>
    let j' := { j with todo := rest, inbox := [] }
    match tryUnit s id j t l u with
    | .stays s => s
    | .written s f => afterUnit s id { j' with missing := j.missing.filter (· != u), flags := j.flags ||| f }
    | .missing s ts => afterUnit s id { j' with
        missing := j.missing.filter (· != u) ++ [u], tickets := j.tickets ++ ts.filter (fun t => !j.tickets.contains t) }
    | .failed s code a => afterUnit s id { j' with
        missing := j.missing.filter (· != u) ++ [u]
        failCode := if j.failCode == 0 then code else j.failCode
        faultAddr := if j.failCode == 0 then a else j.faultAddr }
  | _, _, _ => s

/-- R133, R382: after a restart, fresh entries with reason 3 for the host pages a faulted-partial job still has to copy. Those that find no free entry wait until one is freed. -/
def openSome (id : Nat) : List (Nat × Bool) → State × Job → State × Job
  | [], x => x
  | p :: r, (s, j) =>
    match enterFault s (jobFault id j p.2 (p.1, 3)) with
    | none => (s, { j with opening := p :: r })
    | some (t, s) => openSome id r (s, { j with tickets := if j.tickets.contains t then j.tickets else j.tickets ++ [t], opening := r })

def openPages (s : State) (id : Nat) : State :=
  match lookup s.jobs id with
  | none => s
  | some j =>
    let (s, j) := openSome id j.opening (s, j)
    { s with jobs := insert s.jobs id j }

/-- PUMP_SECTOR (R318, R320): one unit of the running job whose turn it is, or of a COPY; a job that is done or failed leaves; a job that a restart left without all its fault-buffer entries tries for them (R133). -/
def execPumpSector (job : Nat) (s : State) : Host.Outcome State Fault Refusal :=
  match lookup s.jobs job with
  | none => .next (match lookup s.copies job with
    | some c => copySector s job c
    | none => s)
  | some j =>
    if !j.opening.isEmpty then .next (openPages s job)
    else if j.state == .done || j.state == .failed then .next (if (groupReqs s (jobAgent job)).isEmpty then leavePump s job j else s)
    else if j.state == .running && pumpNext s j.core == some j.order then
      .next (serveJob (s.setCore j.core { s.core j.core with served := j.order }) job j)
    else .next s

/-! ### Issue of jobs -/

/-- R312: a job that has passed its checks: its counts, its edges, its place in the pump. -/
def startJob (s : State) (is : Issue) (j : Job) : Nat × State :=
  let (id, s) := s.fresh
  let j := { j with edges := edgesFrom s j.team j.reads j.writes, order := id }
  let s := match j.tileR with
    | some k => s.onTile j.team k (fun t => { t with rd := t.rd + 1 })
    | none => s
  let s := match j.tileW with
    | some k => s.onTile j.team k (fun t => { t with wr := t.wr + 1 })
    | none => s
  (id, ({ s with jobs := insert s.jobs id j }).onGroup is.key (fun g => countUp g j.counter))

/-- R311: a job instruction holds for room in the pump before its other checks. -/
def withPump (is : Issue) (s : State) (go : Verdict) : Verdict := if pumpSize ≤ pumpJobs s is.core then .hold s else go

/-! ### `cpy` (R314, R316, R326) -/

/-- The card of a job. -/
structure Card where
  src : Nat
  dst : Nat
  w2 : Nat
  w3 : Nat
  fpa : Nat
  fpb : Nat
  fpw : Nat
  w7 : Nat
  deriving DecidableEq, Repr

def cardOf (b : List Byte) : Card :=
  let w := fun (k : Nat) => field b (8 * k) 8
  { src := w 0, dst := w 1, w2 := w 2, w3 := w 3, fpa := w 4, fpb := w 5, fpw := w 6, w7 := w 7 }

namespace Card
def xp (c : Card) : Nat := bits c.w2 38 37
def cv (c : Card) : Bool := c.w2.testBit 36
def cnt (c : Card) : Nat := bits c.w2 35 32
def len (c : Card) : Nat := bits c.w2 31 0
def rows (c : Card) : Nat := bits c.w3 15 0
def cols (c : Card) : Nat := bits c.w3 31 16
def spitch (c : Card) : Nat := bits c.w3 47 32
def dpitch (c : Card) : Nat := bits c.w3 63 48
/-- Bytes from the first to the last that the job reads, or writes. -/
def srcSpan (c : Card) : Nat := if c.xp == 0 then c.len else (c.rows - 1) * c.spitch + c.cols * c.xp
def dstSpan (c : Card) : Nat := if c.xp == 0 then c.len else (c.cols - 1) * c.dpitch + c.rows * c.xp

/-- R316, check 4: one side's address is of a kind the mode allows. -/
def sideOk (x : Ctx) (a span : Nat) (sump : Bool) : Bool :=
  let tag := a / 2 ^ 57
  sump || tag == 0x7e || (if x.replayable then tag == 0 else tag == 0x7c && pinFits x a span)

/-- R316, check 5: one side's bytes in the cistern or the sump lie where they may. -/
def sideFits (l : Launch) (a span : Nat) (sump : Bool) : Bool :=
  if sump then a + span ≤ l.record.sump
  else a / 2 ^ 57 != 0x7e || directFits l (a % 2 ^ 57) span

/-- R316: the DETAIL of the first card check that fails, 0 for none. -/
def detail (c : Card) (x : Ctx) (l : Launch) (srcSump dstSump : Bool) : Nat :=
  if bits c.w2 63 39 != 0 || c.xp == 3 || c.len == 0 || c.w7 != 0 || (!c.cv && c.cnt != 0) then 1
  else if (if c.xp == 0 then c.w3 != 0
      else c.rows == 0 || c.cols == 0 || c.len != c.rows * c.cols * c.xp || c.spitch < c.cols * c.xp || c.dpitch < c.rows * c.xp) then 2
  else if !(footOk c.fpa && footOk c.fpb && footOk c.fpw) then 3
  else if !(sideOk x c.src c.srcSpan srcSump && sideOk x c.dst c.dstSpan dstSump) then 4
  else if !(sideFits l c.src c.srcSpan srcSump && sideFits l c.dst c.dstSpan dstSump) then 5
  else 0

/-- R316, step 5: a transposing job's addresses and pitches are multiples of its element size. -/
def aligned (c : Card) : Bool :=
  c.xp == 0 || (c.src % c.xp == 0 && c.dst % c.xp == 0 && c.spitch % c.xp == 0 && c.dpitch % c.xp == 0)
end Card

/-- The tiles of a `cpy`: destination and source. -/
def cpyDst (o : EOps) : Option Nat := if o.bit 0 then some o.d.toNat else none
def cpySrc (o : EOps) : Option Nat := if o.bit 1 then some o.b.toNat else none

/-- R316, step 3: the destination tile, then the source tile. -/
def cpyTiles (is : Issue) (o : EOps) : TileUse :=
  let w := match cpyDst o with
    | none => .go
    | some n => (is.t.tile (tileKey is n)).forWrite
  let r := match cpySrc o with
    | none => .go
    | some n => if cpyDst o == some n then .go else (is.t.tile (tileKey is n)).forRead
  if w == .go then r else w

/-- A tile named lies in the sump. -/
def inSump (is : Issue) (n : Option Nat) : Bool :=
  match n with
  | none => false
  | some k => (is.t.tile (tileKey is k)).space == 1

/-- The address at which a card that was read can be written again. -/
def cardPlace (a : Nat) : Place → Nat
  | .page va _ _ => va
  | .sram _ => a

/-- R316: the checks of a card that has been read, and its job. -/
def cpyCard (o : EOps) (is : Issue) (s : State) (a at_ : Nat) (c : Card) : Verdict :=
  let srcSump := inSump is (cpySrc o)
  let dstSump := inSump is (cpyDst o)
  match cpyTiles is o with
  | .bad => .trap s 8 1 a is.ex
  | .wait => .hold s
  | .go =>
    let d := c.detail (s.ctx is.g.ctx) is.l srcSump dstSump
    if d != 0 then .trap s 7 d a is.ex
    else if !c.aligned then .trap s 5 0 a is.ex
    else
      let counter := if c.cv then some c.cnt else none
      let (s, bad) := checkRegs s is (ccRead counter)
      if bad != 0 then .trap s 15 0 0 bad
      else if counterFull is.g counter then .hold s
      else
        let n := ceilDiv c.len 512
        .commit (startJob s is {
          ctx := is.g.ctx, core := is.core, group := is.key, team := is.g.team
          kind := .copy c.src c.dst c.xp c.cols c.spitch c.dpitch srcSump dstSump
          card := a, cardAt := at_, len := c.len, counter, reads := footOf c.fpa ++ footOf c.fpb, writes := footOf c.fpw, edges := []
          tileR := if cpySrc o == cpyDst o then none else (cpySrc o).map (tileKey is), tileW := (cpyDst o).map (tileKey is)
          units := n, todo := List.range n, order := 0 }).2 0 0

/-- `cpy` (R326). -/
def execCpy (o : EOps) (s : State) : Host.Outcome State Fault Refusal :=
  execE o (scalCodes o.a 1) [] (fun is s =>
    let a := (scalAt is o.a 0).toNat
    withPump is s (match readOnce s is a 64 with
      | .stop v => v
      | .got b s p => cpyCard o is s a (cardPlace a p) (cardOf b))) s

/-! ### `plane` (R327) -/

/-- R327: a source piece may be read: in the cistern's direct window, or by a handle that reaches it. -/
def pieceOk (x : Ctx) (l : Launch) (pinned : Bool) (p : Nat × Nat) : Bool :=
  let tag := p.1 / 2 ^ 57
  if tag == 0x7e then directFits l (p.1 % 2 ^ 57) p.2 else !pinned || (tag == 0x7c && pinFits x p.1 p.2)

/-- The tile of a `plane`. -/
def planeTile (o : EOps) : Option Nat := if o.bit 1 then some o.c.toNat else none
def planeCounter (o : EOps) : Option Nat := if o.bit 0 then some o.cnt.val else none
/-- The footprint words of a `plane`. -/
def planeFoot (is : Issue) (o : EOps) (k : Nat) : Nat := if isNone o.b then 0 else (scalAt is o.b k).toNat

/-- The fault of a `plane`'s identifiers, footprints and addresses: code, DETAIL, FADDR. -/
def planeFault (s : State) (is : Issue) (o : EOps) (d a : List Dword) : Option (Nat × Nat × Nat) :=
  let x := s.ctx is.g.ctx
  let pinned := !x.replayable
  let dc := tidCode d false
  let ac := tidCode a pinned
  if dc != 0 then some (9, dc, 0)
  else if ac != 0 then some (9, ac, 0)
  else if tidFmt a == 7 || tidFmt d != 7 || tidBase d / 2 ^ 57 != 0x7e then some (9, 8, 0)
  else if (List.range 4).any (fun k => tidExtent a k != tidExtent d k) then some (9, 10, 0)
  else
    let n := planeBlocks d
    let stray := ((List.range n).map (planeDst d)).find? (fun y => !windowFits is.l y (8 + 4 * tidP d))
    let src := ((List.range n).flatMap (planeSrc a)).find? (fun p => p.1 / 2 ^ 57 == 0x7e && !directFits is.l (p.1 % 2 ^ 57) p.2)
    match stray.or (src.map (·.1)) with
    | some y => some (7, 5, y % 2 ^ 57)
    | none =>
      if !((List.range 3).all (fun k => footOk (planeFoot is o k))) then some (7, 3, 0)
      else none

/-- R327: in pinned mode a global source is a handle that holds all of it. -/
def planeHandle (s : State) (is : Issue) (a : List Dword) : Bool :=
  let x := s.ctx is.g.ctx
  ((List.range (planeBlocks a)).flatMap (planeSrc a)).all (pieceOk x is.l (!x.replayable))

/-- `plane` (R327). -/
def planeIssue (o : EOps) (is : Issue) (s : State) : Verdict :=
  let d := s.tid is.g.ctx o.d.toNat
  let a := s.tid is.g.ctx o.a.toNat
  match planeFault s is o d a with
  | some (code, detail, faddr) => .trap s code detail faddr is.ex
  | none =>
    match (match planeTile o with
      | none => TileUse.go
      | some n => (is.t.tile (tileKey is n)).forWrite) with
    | .bad => .trap s 8 1 0 is.ex
    | .wait => .hold s
    | .go =>
      if !planeHandle s is a then .trap s 7 4 0 is.ex
      else if counterFull is.g (planeCounter o) then .hold s
      else
        let n := planeBlocks d
        .commit (startJob s is {
          ctx := is.g.ctx, core := is.core, group := is.key, team := is.g.team, kind := .plane a d
          card := 0, cardAt := 0, len := n, counter := planeCounter o
          reads := footOf (planeFoot is o 0) ++ footOf (planeFoot is o 1), writes := footOf (planeFoot is o 2), edges := []
          tileR := none, tileW := (planeTile o).map (tileKey is), units := n, todo := List.range n, order := 0 }).2 0 0

def execPlane (o : EOps) (s : State) : Host.Outcome State Fault Refusal :=
  execE o (ccRead (planeCounter o) ++ (if isNone o.b then [] else scalCodes o.b 3)) [] (fun is s => withPump is s (planeIssue o is s)) s

/-! ### Counters (R324, R328) -/

/-- `ccget` (R328). -/
def execCcget (o : EOps) (s : State) : Host.Outcome State Fault Refusal :=
  execE o [ccCode o.cnt.val] (byteCodes o.d) (fun is s =>
    .commit (s.onGroup is.key (fun g => g.writeD (Opnd.ofByte o.d) false false is.gd .u (fun _ => (is.g.counter o.cnt.val).toNat))) 0 0) s

/-- R328: a group's operations in flight that name a counter. -/
def countedOps (s : State) (key n : Nat) : Nat :=
  (s.jobs.filter (fun x => x.2.group == key && x.2.counter == some n)).length +
    (s.matops.filter (fun x => x.2.group == key && x.2.counter == some n)).length +
    (s.gateops.filter (fun x => x.2.group == key && x.2.counter == some n)).length

/-- `ccset` (R328). -/
def execCcset (o : EOps) (s : State) : Host.Outcome State Fault Refusal :=
  execE o (ccCode o.cnt.val :: (if isNone o.a then [] else scalCodes o.a 1)) [] (fun is s =>
    let n := o.cnt.val
    let v := if isNone o.a then (o.ctl.extractLsb' 0 16).toNat else (scalAt is o.a 0).toNat % 2 ^ 32
    .commit (s.onGroup is.key (fun g => g.setCounter n (BitVec.ofNat 32 (max v (countedOps s is.key n))))) 0 0) s

/-- R324: tickets of the faulted-partial jobs counted in a counter. -/
def partialTickets (s : State) (key n : Nat) : List Word :=
  (s.jobs.filter (fun x => x.2.group == key && x.2.counter == some n && x.2.state == .partialFault)).flatMap (fun x => x.2.tickets)

/-- R324, R469: parks lanes on entries, without an entry or a record of their own. -/
def parkCcwait (s : State) (is : Issue) (n : Nat) (ts : List Word) : State :=
  let ws := (is.ex.lanes is.g.width).map (fun l => Waiter.ccwait is.key l n)
  { s.onGroup is.key (fun g => g.setLanes is.ex .parked) with
    faults := s.faults.map (fun e => if ts.contains e.ticket then { e with waiters := e.waiters ++ ws.filter (fun w => !e.waiters.contains w) } else e) }

/-- `ccwait` (R324). -/
def execCcwait (o : EOps) (s : State) : Host.Outcome State Fault Refusal :=
  execE o [ccCode o.cnt.val] [] (fun is s =>
    let n := o.cnt.val
    if (is.g.counter n).toNat < (o.ctl.extractLsb' 0 16).toNat then .commit s 0 0
    else
      let ts := partialTickets s is.key n
      if ts.isEmpty then .hold s else .commit (parkCcwait s is n ts) is.ex 0) s

/-! ### Streams (R329, R330) -/

def strNum (o : EOps) : Nat := (o.ctl.extractLsb' 0 10).toNat

/-- R329: bytes of the record of `n` elements at `a`: what `sexp` writes, or what `simp` finds there, by INITV. -/
def strLength (s : State) (is : Issue) (isImport : Bool) (e : List Dword) (n a : Nat) : Nat :=
  let init := if isImport then leNat (teamRead s is.t is.l (a % 2 ^ 57 + 24) 1) % 2 == 1 else strInitV e
  64 + n * (if init then 8 else 4)

/-- R329: the entry of `sexp` and `simp`, checked: code, DETAIL, FADDR. DEDUCED (log 15): the length of the record `simp` reads goes by the record's own INITV, as it stands at issue. -/
def strFault (s : State) (is : Issue) (isImport : Bool) (n a : Nat) : Option (Nat × Nat × Nat) :=
  let e := s.stream is.g.ctx n
  let st := s.tid is.g.ctx (strState e)
  let it := s.tid is.g.ctx (strInit e)
  if a % 64 != 0 then some (5, 0, a)
  else if a / 2 ^ 57 != 0x7e then some (7, 0, a)
  else
    let (code, detail, off) := gateStreamCode s is n
    if code != 0 then some (code, detail, off)
    else if 65536 < tidExtent st 0 || (strInitV e && 65536 < tidExtent it 0) then some (9, 8, 0)
    else if !directFits is.l (a % 2 ^ 57) (strLength s is isImport e (tidExtent st 0) a) then some (7, 0, a)
    else none

/-- R310, R311, R329: the issue of a stream job. -/
def streamJob (o : EOps) (isImport : Bool) (is : Issue) (s : State) : Verdict :=
  let n := strNum o
  let a := (scalAt is o.a 0).toNat
  let counter := EOps.counterAt o 10
  match strFault s is isImport n a with
  | some (code, detail, faddr) => .trap s code detail faddr is.ex
  | none =>
    if counterFull is.g counter then .hold s
    else
      let e := s.stream is.g.ctx n
      let st := s.tid is.g.ctx (strState e)
      let it := s.tid is.g.ctx (strInit e)
      let (id, s) := startJob s is {
        ctx := is.g.ctx, core := is.core, group := is.key, team := is.g.team
        kind := if isImport then .simp n a st it else .sexp n a st it
        card := 0, cardAt := 0, len := 1, counter, reads := [], writes := [], edges := [], tileR := none, tileW := none
        units := 1, todo := [0], order := 0 }
      .commit (joinStream s is.g.ctx n (.job id)) 0 0

def execSexp (o : EOps) (s : State) : Host.Outcome State Fault Refusal :=
  execE o (ccRead (EOps.counterAt o 10) ++ scalCodes o.a 1) [] (fun is s => withPump is s (streamJob o false is s)) s

def execSimp (o : EOps) (s : State) : Host.Outcome State Fault Refusal :=
  execE o (ccRead (EOps.counterAt o 10) ++ scalCodes o.a 1) [] (fun is s => withPump is s (streamJob o true is s)) s

/-- R271: bytes from an offset of the team's window as a job finds them that stores reached: a byte stored to while the job was in flight is free (log 60). -/
def racedRead (t : Team) (l : Launch) (j : Job) (x : List Byte × State) (off : Nat) : List Byte × State :=
  if j.raced.isEmpty then x
  else orFree (fun a => ((directKey t l a).map j.raced.contains).getD false) x.2 off x.1

/-- R271: bytes that a job has written and that were stored to meanwhile are free. -/
def racedWritten (t : Team) (l : Launch) (j : Job) (off n : Nat) (s : State) : State :=
  if j.raced.isEmpty then s
  else
    let (b, s) := racedRead t l j (teamRead s t l off n, s) off
    teamWrite t l s off b

/-- Element j of row 0 of an identifier in the cistern. -/
def rowElem (s : State) (t : Team) (l : Launch) (r : List Dword) (j : Nat) : List Byte := teamRead s t l (tidElem r j 0 0 0 % 2 ^ 57) 4


/-- Writes row 0 of an identifier from the bytes of its elements. -/
def writeRow (t : Team) (l : Launch) (j : Job) (r : List Dword) (n : Nat) (b : List Byte) (s : State) : State :=
  (List.range n).foldl (fun s k =>
    let off := tidElem r k 0 0 0 % 2 ^ 57
    racedWritten t l j off 4 (teamWrite t l s off ((b.drop (4 * k)).take 4))) s

/-- Row 0 of an identifier, the elements listed; zero beyond its extent. -/
def rowBytes (t : Team) (l : Launch) (j : Job) (r : List Dword) : List Nat → State → List Byte × State
  | [], s => ([], s)
  | k :: rest, s =>
    let (b, s) := if k < tidExtent r 0 then racedRead t l j (rowElem s t l r k, s) (tidElem r k 0 0 0 % 2 ^ 57) else (leBytes 4 0, s)
    let (x, s) := rowBytes t l j r rest s
    (b ++ x, s)

/-- R329: `sexp` writes its record. An INIT row shorter than N reads as +0 beyond its end, as in R305. -/
def exportStream (s : State) (t : Team) (l : Launch) (j : Job) (n a : Nat) (st it : List Dword) : State :=
  let e := s.stream j.ctx n
  let k := tidExtent st 0
  let head := leBytes 4 1 ++ leBytes 4 k ++ leBytes 8 (strPos e) ++ leBytes 8 (strMark e) ++
    leBytes 1 ((if strInitV e then 1 else 0) + (if strReset e then 2 else 0)) ++ leBytes 39 0
  let (state, s) := rowBytes t l j st (List.range k) s
  let (init, s) := if strInitV e then rowBytes t l j it (List.range k) s else ([], s)
  let b := head ++ state ++ init
  racedWritten t l j (a % 2 ^ 57) b.length (teamWrite t l s (a % 2 ^ 57) b)

/-- R329: a record that `simp` accepts. INIT is the identifier its entry names. -/
def importOk (r : List Byte) (k : Nat) (it : List Dword) : Bool :=
  field r 0 4 == 1 && field r 24 1 < 4 && (r.drop 25).take 39 == leBytes 39 0 && field r 4 4 == k &&
    ((field r 24 1) % 2 == 0 || (stateTid it == 0 && tidExtent it 0 == k))

/-- R329: `simp`: whether it passed, and the state after. -/
def importStream (s : State) (t : Team) (l : Launch) (j : Job) (n a : Nat) (st it : List Dword) : Bool × State :=
  let k := tidExtent st 0
  let (r, s) := racedRead t l j (teamRead s t l (a % 2 ^ 57) (64 + 8 * k), s) (a % 2 ^ 57)
  if !importOk r k it then (false, s)
  else
    let initv := field r 24 1 % 2 == 1
    let s := writeRow t l j st k ((r.drop 64).take (4 * k)) s
    let s := if initv then writeRow t l j it k ((r.drop (64 + 4 * k)).take (4 * k)) s else s
    let e := s.stream j.ctx n
    let keep := e.getD 0 0 &&& ~~~(1#64 <<< 39) &&& ~~~(1#64 <<< 32)
    let w0 := keep ||| (if initv then 1#64 <<< 39 else 0) ||| (if 2 ≤ field r 24 1 then 1#64 <<< 32 else 0)
    (true, s.setStream j.ctx n [w0, BitVec.ofNat 64 (field r 8 8), BitVec.ofNat 64 (field r 16 8), e.getD 3 0])

/-- A stream job is done: it leaves its stream and the pump. -/
def endStreamJob (s : State) (id : Nat) (j : Job) (n : Nat) (flags : Word) : State :=
  finishJob (leaveStream s j.ctx n (.job id)) id { j with todo := [], flags }

/-- STREAM_JOB_COMPLETE (R310, R329): the job is performed, when it is the first on its stream. -/
def execStreamJobComplete (job : Nat) (s : State) : Host.Outcome State Fault Refusal :=
  match lookup s.jobs job with
  | none => .next s
  | some j =>
    match j.state, lookup s.teams j.team, (lookup s.teams j.team).bind (fun t => lookup s.launches t.launch) with
    | .running, some t, some l =>
      match j.kind with
      | .sexp n a st it =>
        if (streamOps s j.ctx n).head? == some (.job job) then .next (endStreamJob (exportStream s t l j n a st it) job j n 0) else .next s
      | .simp n a st it =>
        if (streamOps s j.ctx n).head? == some (.job job) then
          let (ok, s) := importStream s t l j n a st it
          .next (endStreamJob s job j n (if ok then 0 else fRC))
        else .next s
      | _ => .next s
    | _, _, _ => .next s

/-- R307: the zero fields of word 0 of a stream entry. -/
def strZeros (w : Nat) : Bool := bits w 63 48 == 0 && bits w 38 33 == 0 && bits w 31 24 == 0 && bits w 15 1 == 0

/-- `srst` and `srst.mark` (R330). -/
def execSrst (o : EOps) (s : State) : Host.Outcome State Fault Refusal :=
  execE o (scalCodes o.a (if o.bit 10 then 1 else 3)) [] (fun is s =>
    let n := strNum o
    let e := s.stream is.g.ctx n
    if !(streamOps s is.g.ctx n).isEmpty then .hold s
    else if o.bit 10 then
      if !strValid e then .trap s 9 9 0 is.ex
      else .commit (s.setStream is.g.ctx n [e.getD 0 0, e.getD 1 0, scalAt is o.a 0, e.getD 3 0]) 0 0
    else if !strZeros (scalAt is o.a 0).toNat then .trap s 9 11 0 is.ex
    else .commit (s.setStream is.g.ctx n [scalAt is o.a 0, scalAt is o.a 1, scalAt is o.a 2, e.getD 3 0]) 0 0) s

end Sys2Proof.Machine
end

