-- ==== Sys2Proof/Machine/Barrier.lean ====
section
/-! DEFINITION. Machine/Barrier: barrier slots and handoff queues, major 0x68 (R332 to R343). -/
namespace Sys2Proof.Machine

/-! ### Barrier slots -/

/-- The index of a group in its team (R162). -/
def Group.inTeam (g : Group) (l : Launch) : Nat := g.index % max 1 l.record.team

/-- A barrier slot of a team. -/
def Team.bar (t : Team) (n : Nat) : Bar := t.bars.getD n {}

/-- R338: `barw` lets a generation pass that lies 1 to 2^31 - 1 ahead of the one it names. -/
def barPast (gen x : Nat) : Bool :=
  let d := (gen + 2 ^ 32 - x) % 2 ^ 32
  1 ≤ d && d < 2 ^ 31

/-- R338: a hold ends with the slot at generation `gen`. -/
def BarHold.ends (h : BarHold) (gen : Nat) : Bool := if h.split then barPast gen h.gen else h.gen != gen

/-- R338: a group's hold ends. Lanes that waited at a `barw` go on after it; those outside a handler that the group has entered meanwhile, when that returns. -/
def passBar (g : Group) (h : BarHold) : Group :=
  let here := match g.handler with
    | some x => h.lanes &&& x.lanes
    | none => h.lanes
  let g := countWindows ({ g with barrier := none }.setLpc here (fun l => g.withPc l (nextPc (g.pc l)))) g.nextSeq here 0
  { g with handler := g.handler.map (fun x => { x with passed := x.passed ||| (h.lanes &&& ~~~x.lanes) }) }

/-- R333, R336: releases the groups of a team that hold on a slot now at generation `gen`. -/
def releaseBar (s : State) (team n gen : Nat) : State :=
  { s with groups := s.groups.map (fun x =>
      match x.2.barrier with
      | some h => if x.2.team == team && h.slot == n && h.ends gen then (x.1, passBar x.2 h) else x
      | none => x) }

/-- R333, R338: a slot completes when the expected set lies within its arrivals. -/
def settleBar (s : State) (team n : Nat) : State :=
  match lookup s.teams team with
  | none => s
  | some t =>
    let b := t.bar n
    if t.live.within b.arr then
      let gen := (b.gen + 1) % 2 ^ 32
      releaseBar (s.setTeam team { t with bars := t.bars.set n { arr := 0, gen } }) team n gen
    else s

/-- R334, R338: the group's arrival in a slot. -/
def arriveBar (s : State) (is : Issue) (n : Nat) : State :=
  match lookup s.teams is.g.team with
  | none => s
  | some t =>
    let b := t.bar n
    settleBar (s.setTeam is.g.team { t with bars := t.bars.set n { b with arr := b.arr.add (is.g.inTeam is.l) } }) is.g.team n

/-- R333: a group leaves the expected set of its team, which can complete slots. The last group frees them. -/
def leaveTeam (s : State) (team index : Nat) : State :=
  match lookup s.teams team with
  | none => s
  | some t =>
    let t := { t with live := t.live.del index }
    let s := s.setTeam team t
    if t.live == 0 then s else (List.range t.bars.length).foldl (fun s n => settleBar s team n) s

/-- The slot a barrier instruction names. -/
def barNo (o : EOps) : Nat := (o.ctl.extractLsb' 0 4).toNat

/-- R336, R337: what every barrier instruction checks: the team's kind at every issue, before its registers, then its slot and SAT_TRAP. It reads `gs` for that. -/
def execBarrier (o : EOps) (pair : Bool) (reads writes : List RegCode) (body : Issue → State → Verdict) (s : State) :
    Host.Outcome State Fault Refusal :=
  execE o (226 :: reads) writes (fun is s =>
    if is.l.record.bars ≤ barNo o then .trap s 7 0 (barNo o) is.ex
    else if is.g.satTraps then .trap s 13 0 0 is.ex
    else if is.gd != 0 && mustWait s is.key .ar true then .hold s
    else body is s) s { first := fun is => if is.l.record.pair != pair then some 1 else none }

/-- R338: the generation of the slot an instruction names. -/
def barGen (is : Issue) (o : EOps) : Nat := (is.t.bar (barNo o)).gen

/-- R338: `bar` and `barp` arrive, and the group is held until the generation ends. -/
def barBody (o : EOps) (is : Issue) (s : State) : Verdict :=
  let n := barNo o
  let gen := barGen is o
  let held := s.onGroup is.key (fun g => { g with barrier := some { slot := n, gen } })
  .commit (arriveBar held is n) 0 0

/-- `bar` (R338). -/
def execBar (o : EOps) (s : State) : Host.Outcome State Fault Refusal := execBarrier o false [] [] (barBody o) s

/-- `barp` (R338). -/
def execBarp (o : EOps) (s : State) : Host.Outcome State Fault Refusal := execBarrier o true [] [] (barBody o) s

/-- `barv` (R338). -/
def execBarv (o : EOps) (s : State) : Host.Outcome State Fault Refusal :=
  execBarrier o false [] (scalCodes o.d 1) (fun is s =>
    .commit ((arriveBar s is (barNo o)).onGroup is.key (fun g => g.writeS (byteScalar o.d) (BitVec.ofNat 64 (barGen is o)))) 0 0) s

/-- `barw` (R338). Where it has to wait the group is held with its lanes at it, and its release takes them past it: flags set meanwhile do not disturb the wait, and it is not issued again (R336). -/
def execBarw (o : EOps) (s : State) : Host.Outcome State Fault Refusal :=
  execBarrier o false (scalCodes o.a 1) [] (fun is s =>
    let x := (scalAt is o.a 0).toNat % 2 ^ 32
    if barPast (barGen is o) x then .commit s 0 0
    else .commit (s.onGroup is.key (fun g => { g with barrier := some { slot := barNo o, gen := x, split := true, lanes := is.ex } })) is.ex 0) s

/-! ### Handoff queues -/

def queueNo (o : EOps) : Nat := (o.ctl.extractLsb' 0 4).toNat
def queueCap (o : EOps) : Nat := (o.ctl.extractLsb' 4 9).toNat

/-- Groups that are still held where they were (R341); a halted one no longer is (R196). -/
def stillHeld (s : State) (l : List (Nat × Nat)) : List (Nat × Nat) :=
  l.filter (fun x => match s.group x.1 with
    | some g => !g.halted && g.issuePc == some x.2
    | none => false)

/-- R343: the fault of a `qcfg`, 0 for none. -/
def qcfgFault (l : Launch) (o cap : Nat) : Nat :=
  if cap == 0 then 0 else if o % 64 != 0 then 5 else if !directFits l o (64 + 8 * cap) then 7 else 0

/-- `qcfg` (R340, R343). -/
def execQcfg (o : EOps) (s : State) : Host.Outcome State Fault Refusal :=
  execE o (scalCodes o.a 1) [] (fun is s =>
    let a := (scalAt is o.a 0).toNat
    let cap := queueCap o
    let code := qcfgFault is.l a cap
    if code != 0 then .trap s code 0 a is.ex
    else
      let held := match lookup is.t.handoff (queueNo o) with
        | none => false
        | some q => !(stillHeld s (q.pushes ++ q.pops ++ q.filling)).isEmpty
      if held || mustWait s is.key .rel true then .hold s
      else if cap == 0 then .commit (s.setTeam is.g.team { is.t with handoff := erase is.t.handoff (queueNo o) }) 0 0
      else
        let s := s.setTeam is.g.team { is.t with handoff := insert is.t.handoff (queueNo o) { offset := a, cap } }
        .commit (teamWrite is.t is.l s a (leBytes 4 cap ++ leBytes 60 0)) 0 0) s

/-- A 32-bit field of a queue's ring. -/
def ringField (s : State) (is : Issue) (q : Handoff) (o : Nat) : Nat := leNat (teamRead s is.t is.l (q.offset + o) 4)

/-- Changes a queue of the issuing team. -/
def setHandoff (s : State) (is : Issue) (n : Nat) (q : Handoff) : State :=
  match lookup s.teams is.g.team with
  | some t => s.setTeam is.g.team { t with handoff := insert t.handoff n q }
  | none => s

/-- R339: the header of a bound queue is what the device wrote there. -/
def headerKept (s : State) (is : Issue) (q : Handoff) : Bool :=
  ringField s is q 0 == q.cap && ringField s is q 4 == q.head && ringField s is q 8 == q.tail

/-- R339: a store by an item has reached the header of a bound queue of the team. -/
def upsetRings (s : State) (is : Issue) : Bool := is.t.ringsUpset || is.t.handoff.any (fun x => !headerKept s is x.2)

/-- What a push or a pop finds of its ring: HEAD, TAIL, and the offset in the ring of the entry they name. -/
structure Ring where
  head : Nat
  tail : Nat
  push : Nat
  pop : Nat
  deriving DecidableEq, Repr

/-- R339: a ring as its header stands. Once a store has reached a header of the team, HEAD, TAIL and the bytes a queue takes for entries are free within its ring (log 73). -/
def ringNow (s : State) (is : Issue) (q : Handoff) : Ring × State :=
  if upsetRings s is then
    let s := match lookup s.teams is.g.team with
      | some t => s.setTeam is.g.team { t with ringsUpset := true }
      | none => s
    let (head, s) := s.draw (2 ^ 32)
    let (tail, s) := s.draw (2 ^ 32)
    let (at_, s) := s.draw (57 + 8 * q.cap)
    ({ head, tail, push := at_, pop := at_ }, s)
  else
    let head := ringField s is q 4
    let tail := ringField s is q 8
    ({ head, tail, push := 64 + 8 * (tail % q.cap), pop := 64 + 8 * (head % q.cap) }, s)

/-- R341: the groups held before this one, itself last unless it is held already. -/
def inLine (s : State) (is : Issue) (l : List (Nat × Nat)) : List (Nat × Nat) :=
  let l := stillHeld s l
  if l.contains (is.key, is.pc) then l else l ++ [(is.key, is.pc)]

/-- R343: what a push finds of its tile: it reads it. -/
def pushTile (t : Tile) : TileUse :=
  match t.state with
  | .ready => .go
  | .filling => .wait
  | _ => .bad

/-- `qpush` (R341, R343). -/
def execQpush (o : EOps) (s : State) : Host.Outcome State Fault Refusal :=
  execE o (if isNone o.b then [] else scalCodes o.b 1) [] (fun is s =>
    let n := queueNo o
    match lookup is.t.handoff n with
    | none => .trap s 8 5 0 is.ex
    | some q =>
      match pushTile (is.t.tile (tileKey is o.a.toNat)) with
      | .bad => .trap s 8 1 0 is.ex
      | .wait => .hold (setHandoff s is n { q with filling := inLine s is q.filling })
      | .go =>
        let q := { q with filling := q.filling.filter (· != (is.key, is.pc)) }
        let (r, s) := ringNow s is q
        let line := inLine s is q.pushes
        if (r.tail + 2 ^ 32 - r.head) % 2 ^ 32 < q.cap && line.head? == some (is.key, is.pc) && !mustWait s is.key .ar true then
          let tag := if isNone o.b then 0 else (scalAt is o.b 0).toNat % 2 ^ 32
          let s := setHandoff s is n { q with pushes := line.drop 1, tail := (r.tail + 1) % 2 ^ 32 }
          let s := teamWrite is.t is.l s (q.offset + r.push) (leBytes 4 o.a.toNat ++ leBytes 4 tag)
          .commit (teamWrite is.t is.l s (q.offset + 8) (leBytes 4 (r.tail + 1))) 0 0
        else .hold (setHandoff s is n { q with pushes := line })) s

/-- `qpop` (R341, R343). -/
def execQpop (o : EOps) (s : State) : Host.Outcome State Fault Refusal :=
  execE o [] (scalCodes o.d 1) (fun is s =>
    let n := queueNo o
    match lookup is.t.handoff n with
    | none => .trap s 8 5 0 is.ex
    | some q =>
      let (r, s) := ringNow s is q
      let line := inLine s is q.pops
      if r.tail != r.head && line.head? == some (is.key, is.pc) && !mustWait s is.key .ar true then
        let x := leNat (teamRead s is.t is.l (q.offset + r.pop) 8)
        let s := setHandoff s is n { q with pops := line.drop 1, head := (r.head + 1) % 2 ^ 32 }
        let s := teamWrite is.t is.l s (q.offset + 4) (leBytes 4 (r.head + 1))
        .commit (s.onGroup is.key (fun g => g.writeS (byteScalar o.d) (BitVec.ofNat 64 x))) 0 0
      else .hold (setHandoff s is n { q with pops := line })) s

end Sys2Proof.Machine
end

