-- ==== Sys2Proof/Machine/System.lean ====
section
/-! DEFINITION. Machine/System: major 0x00 and the end of a pause (R108, R195, R198, R199, R173). -/
namespace Sys2Proof.Machine

/-- The guard-free part of a format S instruction. -/
def execS (o : SOps) (reads writes : List RegCode) (body : Issue → State → Verdict) (s : State) : Host.Outcome State Fault Refusal :=
  s.run o.pred o.neg reads writes body

/-- `nop` (R199). -/
def execNop (o : SOps) (s : State) : Host.Outcome State Fault Refusal :=
  execS o [] [] (fun _ s => .commit s 0 0) s

/-- `trap` (R199): USER_TRAP on the guarded lanes, after the instruction. -/
def execTrap (o : SOps) (s : State) : Host.Outcome State Fault Refusal :=
  execS o [] [] (fun is s => if is.gd == 0 then .commit s 0 0 else .after s 0 32 (o.imm.toNat % 2 ^ 16) 0 is.gd) s

/-- R193: a lane state of the area. -/
def areaState (b : List Byte) (l : Nat) : Option LaneState := LaneState.ofCode (field b (32 + l / 2) 1 / 16 ^ (l % 2) % 16)

/-- R193: a saved `lpc` of the area. -/
def areaLpc (b : List Byte) (l : Nat) : Dword := BitVec.ofNat 64 (field b (64 + 8 * l) 8)

/-- R193: a saved set of the area. -/
def areaSet (b : List Byte) (n : Nat) : JSet :=
  { members := BitVec.ofNat 64 (field b (576 + 20 * n) 8), arrived := BitVec.ofNat 64 (field b (584 + 20 * n) 8), entry := field b (592 + 20 * n) 4 }

/-- R195: what the area must still hold. -/
def areaOk (g : Group) (h : Handler) (b : List Byte) : Bool :=
  let done := Mask.of g.width (fun l => areaState b l == some .done)
  (List.range g.width).all (fun l =>
    if h.lanes.has l then areaState b l == some .run || areaState b l == some .done
    else areaState b l == some (h.states.getD l .off) && areaLpc b l == h.lpcs.getD l 0) &&
  (List.range 8).all (fun n =>
    let x := areaSet b n
    let y := h.sets.getD n {}
    x.members ||| done == y.members ||| done && x.arrived ||| done == y.arrived ||| done && x.entry == y.entry)

/-- R195: restores a group from the trap save area. R90: what resumes stands outside every window. R338: a lane whose wait at a `barw` ended meanwhile stands after it. -/
def restoreGroup (g : Group) (h : Handler) (b : List Byte) : Group :=
  let lanes := (List.range g.width).map (fun l =>
    let st := (areaState b l).getD .off
    if st == .parked && h.replayed.has l then .run else st)
  let done := Mask.of g.width (fun l => areaState b l == some .done)
  let g := (closeWindows g).setLpc (Mask.below g.width) (areaLpc b)
  let g := g.setLpc h.passed (fun l => g.withPc l (nextPc (g.pc l)))
  quitSets { g with
    handler := none
    lanes
    regs := { g.regs with j := (List.range 8).map (areaSet b) } } done

/-- What a read of the trap save area comes to. -/
inductive AreaRead where
  | got (b : List Byte) (s : State)
  | wait (s : State)
  | fault (f : DevFault)
  deriving DecidableEq, Repr

/-- R195: one line of the area, an ordinary global load; a peer's line is asked for once and awaited. -/
def areaLine (s : State) (k : Nat) (g : Group) (va : Nat) : AreaRead :=
  if va / 2 ^ 57 != 0 then .fault (.prot va)
  else match translate s g.ctx va .read with
    | .fault reason => .fault (.xlate va reason)
    | .prot => .fault (.prot va)
    | .malformed => .fault (.malformed va)
    | .to w pa =>
      let s := s.used g.ctx va .read w pa
      match leafLoc w va with
      | .here key => if s.badLine key then .fault (.memory va key) else .got (Memory.bytes s.mem key 64) s
      | .peer _ at_ =>
        match g.sent va 64 with
        | some b => .got b s
        | none =>
          if (groupReqs s k).any (fun r => r.for_ == .once k va 64) then .wait s
          else match s.peerOf g.ctx va w with
            | some (_, ports) => if (portOf s ports at_).isSome then .wait (askOnce s k g.ctx va w at_ 64) else .fault (.prot va)
            | none => .fault (.prot va)

/-- R193, R195: lines of the area from an address on; every line that a peer has to send is asked for. -/
def areaLines (k : Nat) (g : Group) : Nat → Nat → State → AreaRead
  | 0, _, s => .got [] s
  | n + 1, va, s =>
    match areaLine s k g va with
    | .fault f => .fault f
    | .got b s => match areaLines k g n (va + 64) s with
      | .got b' s => .got (b ++ b') s
      | x => x
    | .wait s => match areaLines k g n (va + 64) s with
      | .got _ s => .wait s
      | x => x

/-- R195: every handler lane has reached `tret`. -/
def finishTret (s : State) (is : Issue) (g : Group) (h : Handler) : Verdict :=
  let halt := fun (s : State) (second : Nat) => Verdict.commit (haltGroup s is.key h.cause second is.pc is.gd) is.ex 0
  match areaLines is.key is.g 28 (is.g.sread is.ex 63).toNat s with
  | .fault f => halt (logDevFault (s.setGroup is.key g) g.ctx f) f.code
  | .wait s => .hold s
  | .got b s => if areaOk g h b then .commit (s.setGroup is.key (restoreGroup g h b)) is.ex 0 else halt (s.setGroup is.key g) 0

/-- `tret` (R195): the guarded lanes leave the issue; the last of the handler's lanes to come ends the handler. -/
def tretBody (is : Issue) (s : State) : Verdict :=
  match is.g.handler with
  | none => .trap s 1 0 0 is.ex
  | some h =>
    if is.gd == 0 then .commit s 0 0
    else
      let h := { h with tret := h.tret ||| is.gd }
      let g := { ((s.group is.key).getD is.g) with handler := some h }
      if h.lanes.within h.tret then finishTret s is g h
      else if deadlocked g then .trap s 10 0 0 is.ex
      else .commit (s.setGroup is.key g) is.gd 0

/-- `tret`; outside a handler it is ILLEGAL_OP (R198). The last of its lanes reads s63. -/
def execTret (o : SOps) (s : State) : Host.Outcome State Fault Refusal :=
  s.run o.pred o.neg [191] [] tretBody { first := fun is => if is.g.handler.isNone then some 1 else none }

/-- `lsp` plus a signed 48-bit offset, in a lane (R199). -/
def lspPlus (is : Issue) (o : SOps) (l : Nat) : Dword := is.g.regs.lsp.get l + o.imm.signExtend 64

/-- `rsp` (R199). -/
def execRsp (o : SOps) (s : State) : Host.Outcome State Fault Refusal :=
  execS o [225] (Opnd.regs o.d true) (fun is s =>
    .commit (s.onGroup is.key (fun g => g.writeD o.d true false is.gd (if lspUniform is.g then .u else .g) (fun l => (lspPlus is o l).toNat))) 0 0) s

/-- R199: a stack pointer with room for `need` bytes below it. -/
def stackOk (l : Launch) (x : Dword) (need : Nat) : Bool :=
  let off := x.toNat % 2 ^ 57
  x.toNat / 2 ^ 57 == 0x7d && off % 8 == 0 && need ≤ off && off ≤ l.record.privSz

/-- `wsp` (R199). -/
def execWsp (o : SOps) (s : State) : Host.Outcome State Fault Refusal :=
  execS o [225] [225] (fun is s =>
    let bad := is.gd &&& ~~~(Mask.of is.g.width (fun l => stackOk is.l (lspPlus is o l) 0))
    if bad != 0 then .trap s 16 0 0 bad
    else .commit (s.onGroup is.key (fun g => g.writeLsp is.gd (lspUniform is.g) (lspPlus is o))) 0 0) s

/-- R108: stages registers in ascending order while they fit. -/
def stageList (g : Group) (o : SOps) (b : Nat) : Nat → Nat → List Staged
  | _, 0 => []
  | words, n + 1 =>
    let k := 47 - n
    if o.imm.getLsbD k then
      let c := (g.regs.v.getD (b + k) (.u 0)).cost g.width
      if words + c ≤ Group.partitionWords then { reg := b + k, dirty := false, bad := badOf g.integrity.bad (b + k) } :: stageList g o b (words + c) n
      else stageList g o b words n
    else stageList g o b words n

/-- R108: the entries an `rgn` makes once the dirty ones have been written back. It raises no fault, so a word whose parity fails is staged as it is (log 63). -/
def staging (g : Group) (o : SOps) : Group :=
  let g := cleanStaged g
  { g with staged := match o.d with
      | .v b => stageList g o b.val 0 48
      | _ => [] }

/-- `rgn` (R108). It raises nothing for a failing word: that is staged as it is (log 63). -/
def execRgn (o : SOps) (s : State) : Host.Outcome State Fault Refusal :=
  execS o [] [] (fun is s =>
    if is.gd == 0 then .commit s 0 0
    else .commit (s.onGroup is.key (fun g => staging g o)) 0 0) s

/-- `pause` (R173, R199). -/
def execPause (o : SOps) (s : State) : Host.Outcome State Fault Refusal :=
  execS o [] [] (fun is s =>
    if is.gd == 0 then .commit s 0 0
    else .commit (s.onGroup is.key (fun g => { g with
      yields := g.yields.filter (fun y => !is.gd.has y.lane) ++ (is.gd.lanes g.width).map (fun l => { lane := l, issued := 0 })
      pausedUntil := s.clk + o.imm.toNat % 2 ^ 12 })) 0 0) s

/-- PAUSE_EXPIRY (R173): a group stops being paused n clk after the issue of its `pause`. -/
def execPauseExpiry (core slot : Nat) (s : State) : Host.Outcome State Fault Refusal :=
  .next (s.onGroup (groupKey core slot) (fun g => if g.pausedUntil ≤ s.clk then { g with pausedUntil := 0 } else g))

end Sys2Proof.Machine
end

