-- ==== Sys2Proof/Machine/Records.lean ====
section
/-! DEFINITION. Machine/Records: the records of a group's registers in a save (R111, R112, R128). -/
namespace Sys2Proof.Machine

/-- R112: a tag word. -/
def tagWord (width reg tag : Nat) : List Byte := leBytes 4 (width * 2 ^ 16 + reg * 2 ^ 8 + tag)

/-- R112: the record of a vector register. -/
def vregRecord (width n : Nat) (v : VReg) : List Byte :=
  tagWord width n v.tag ++ (match v with
    | .u x => leBytes 4 x.toNat
    | .a b d => leBytes 4 b.toNat ++ leBytes 4 d.toNat
    | .g l => (List.range width).flatMap (fun k => leBytes 4 (l.getD k 0).toNat))

/-- R112: the record of `lpc`, U where the live lanes agree. -/
def lpcRecord (g : Group) : List Byte :=
  if g.lpcUniform then tagWord g.width 224 0 ++ leBytes 8 (g.regs.lpc.getD ((g.live.lanes g.width).headD 0) 0).toNat
  else tagWord g.width 224 2 ++ (List.range g.width).flatMap (fun k => leBytes 8 (g.regs.lpc.getD k 0).toNat)

/-- R112: the record of `lsp`. -/
def lspRecord (g : Group) : List Byte :=
  match g.regs.lsp with
  | .u x => tagWord g.width 225 0 ++ leBytes 8 x.toNat
  | .g l => tagWord g.width 225 2 ++ (List.range g.width).flatMap (fun k => leBytes 8 (l.getD k 0).toNat)

/-- R112: the vector block. -/
def vectorBlock (g : Group) : List Byte :=
  (List.range 128).flatMap (fun n => vregRecord g.width n (g.regs.v.getD n (.u 0))) ++ lpcRecord g ++ lspRecord g

/-- R128: the fixed part, 1,920 bytes. -/
def fixedPart (key length : Nat) (g : Group) (l : Launch) : List Byte :=
  leBytes 4 length ++ leBytes 2 (key / 64) ++ leBytes 1 (key % 64) ++ leBytes 1 g.width ++ leBytes 8 g.index ++ stateBytes g.lanes ++
    leBytes 8 g.regs.gs.toNat ++ (List.range 64).flatMap (fun n => leBytes 8 (g.sreg n).toNat) ++
    (List.range 8).flatMap (fun n => leBytes 8 (g.pred n).toNat) ++ setBytes g.regs.j ++
    (List.range 16).flatMap (fun n => leBytes 4 (g.regs.cc.getD n 0).toNat) ++ chainBytes g l ++
    leBytes 4 ((if g.handler.isSome then 1 else 0) + (if g.halted then 2 else 0)) ++ leBytes 36 0

/-- R127: the trap save area of a group in a handler, read as `tret` reads it. What faults reads as zeros (log 23). -/
def areaCopy (s : State) (key : Nat) (g : Group) : List Byte :=
  if g.handler.isNone then []
  else match areaLines key g 28 (g.sreg 63).toNat s with
    | .got b _ => b
    | _ => leBytes 1792 0

/-- R127, R128: a group's record. -/
def groupRecord (s : State) (key : Nat) (g : Group) : List Byte :=
  let l := (lookup s.launches g.launch).getD default
  let rest := vectorBlock g ++ areaCopy s key g
  fixedPart key (1920 + rest.length) g l ++ rest

/-- R112: reads one register's record: its value, and the bytes that follow. -/
def readRecord (width n : Nat) (b : List Byte) : Option (VReg × List Byte) :=
  if field b 0 4 / 4 != width * 2 ^ 14 + n * 2 ^ 6 then none
  else
    let w := fun (k : Nat) => BitVec.ofNat 32 (field b (4 + 4 * k) 4)
    match field b 0 1 % 4 with
    | 0 => some (.u (w 0), b.drop 8)
    | 1 => some (.a (w 0) (w 1), b.drop 12)
    | 2 => some (.g ((List.range width).map w), b.drop (4 + 4 * width))
    | _ => none

/-- R112: reads the record of `lpc` or `lsp`. -/
def readWide (width n : Nat) (b : List Byte) : Option (LReg × List Byte) :=
  if field b 0 4 / 4 != width * 2 ^ 14 + n * 2 ^ 6 then none
  else
    let w := fun (k : Nat) => BitVec.ofNat 64 (field b (4 + 8 * k) 8)
    match field b 0 1 % 4 with
    | 0 => some (.u (w 0), b.drop 12)
    | 2 => some (.g ((List.range width).map w), b.drop (4 + 8 * width))
    | _ => none

/-- R112: reads the records of vector registers from `n` on, `k` of them. -/
def readVector (width : Nat) : Nat → Nat → List Byte → Option (List VReg × List Byte)
  | 0, _, b => some ([], b)
  | k + 1, n, b =>
    match readRecord width n b with
    | none => none
    | some (v, b) => (readVector width k (n + 1) b).map (fun x => (v :: x.1, x.2))

/-- R128: the lane states of a record; none where a code is 6 to 15. -/
def readStates (width : Nat) (b : List Byte) : Option (List LaneState) :=
  let code := fun (k : Nat) => field b (16 + k / 2) 1 / 16 ^ (k % 2) % 16
  if (List.range 64).all (fun k => code k < 6) then (List.range width).mapM (fun k => LaneState.ofCode (code k)) else none

/-- R128: a rejoin set of a record. -/
def readSet (b : List Byte) (n : Nat) : JSet :=
  { members := BitVec.ofNat 64 (field b (632 + 20 * n) 8), arrived := BitVec.ofNat 64 (field b (640 + 20 * n) 8), entry := field b (648 + 20 * n) 4 }

/-- R112: the vector block read back: `v0` to `v127`, `lpc` and `lsp`, with what follows it. -/
structure RegBlock where
  v : List VReg
  lpc : LReg
  lsp : LReg
  rest : List Byte
  deriving DecidableEq, Repr

/-- R112: reads a vector block; none where a record of it is not as laid out. -/
def readRegs (width : Nat) (b : List Byte) : Option RegBlock :=
  match readVector width 128 0 b with
  | none => none
  | some (v, b) =>
    match readWide width 224 b with
    | none => none
    | some (lpc, b) => (readWide width 225 b).map (fun x => { v, lpc, lsp := x.1, rest := x.2 })

/-- The registers of a vector block in a group. -/
def RegBlock.put (x : RegBlock) (g : Group) : Group :=
  { g with regs := { g.regs with v := x.v, lpc := (List.range g.width).map x.lpc.get, lsp := x.lsp } }

/-- R128, R193: a handler as its trap save area tells of it. -/
def handlerOf (width : Nat) (b : List Byte) : Handler := {
  lanes := BitVec.ofNat 64 (field b 24 8)
  cause := field b 0 2
  states := (List.range width).map (fun l => (areaState b l).getD .off)
  lpcs := (List.range width).map (areaLpc b)
  sets := (List.range 8).map (areaSet b) }

/-- R112, R128: a group with what its record holds, and what follows its vector block; none where the record is rejected. Its core and slot are its place's (R126), its count of conflicts is zero (R298), and the reserved bits of `gs` read zero (R101). -/
def readGroup (g : Group) (b : List Byte) : Option (Group × List Byte) :=
  match readStates g.width b, readRegs g.width (b.drop 1920) with
  | some lanes, some x =>
    let flags := field b 1880 4
    if flags < 4 && zeros b 1884 1920 then
      let g := x.put { g with
        lanes
        index := field b 8 8
        handler := if flags % 2 == 1 then some (g.handler.getD (handlerOf g.width x.rest)) else none
        conflicts := 0
        evicted := false
        saved := []
        inbox := []
        halted := flags / 2 == 1 }
      some ({ g with regs := { g.regs with
        gs := BitVec.ofNat 64 (field b 48 8 % 2 ^ 10)
        s := (List.range 64).map (fun n => BitVec.ofNat 64 (field b (56 + 8 * n) 8))
        p := (List.range 8).map (fun n => BitVec.ofNat 64 (field b (568 + 8 * n) 8))
        j := (List.range 8).map (readSet b)
        cc := (List.range 16).map (fun n => BitVec.ofNat 32 (field b (792 + 4 * n) 4)) } }, x.rest)
    else none
  | _, _ => none

/-- R128: one chain position of a record: the reads, and the publications whose values the image keeps with the launch (R127). More of them than it keeps have free values, by the count `t` (log 23). -/
def readChain (t : Nat) (b : List Byte) (l : Launch) (g : Group) (slot lane : Nat) : Launch :=
  let at_ := 856 + 4 * (64 * slot + lane)
  let x := l.chainItem slot (g.item lane)
  let n := field b (at_ + 2) 2
  l.setChain slot (g.item lane) { reads := field b at_ 2
                                  pubs := x.pubs.take n ++ (List.range (n - x.pubs.length)).map (fun k => Config.freeWord (t + k)) }

/-- R128: the chain positions of a record, for the slots its launch declares. -/
def readChains (t : Nat) (b : List Byte) (g : Group) (l : Launch) : Launch :=
  (List.range l.record.chain.length).foldl (fun l c => (List.range g.width).foldl (fun l k => readChain t b l g c k) l) l

end Sys2Proof.Machine
end

