-- ==== Sys2Proof/Machine/MainFile.lean ====
section
/-! DEFINITION. Machine/MainFile: the words of a core's main file, duplicates and eviction (R103, R106, R113, R115). -/
namespace Sys2Proof.Machine

/-- R102: main-file words of `lpc` and `lsp`. -/
def wideWords (width : Nat) (general : Bool) : Nat := if general then 2 * width else 2

/-- R102, R103: main-file words of a group. -/
def groupWords (g : Group) : Nat :=
  128 + (List.range 128).foldl (fun k n => k + (g.regs.v.getD n (.u 0)).cost g.width) 0 + wideWords g.width (!g.lpcUniform) + wideWords g.width g.regs.lsp.general

/-- Main-file words of one register, by specifier code. -/
def regWords (g : Group) (n : Nat) : Nat :=
  if n < 128 then (g.regs.v.getD n (.u 0)).cost g.width
  else if n < 192 then 2
  else if n == 224 then wideWords g.width (!g.lpcUniform)
  else if n == 225 then wideWords g.width g.regs.lsp.general
  else 0

/-- A core's words of registers, and of duplicates. -/
def coreWords (s : State) (core : Nat) : Nat :=
  s.groups.foldl (fun k x => if x.1 / 64 == core && !x.2.evicted then k + groupWords x.2 else k) 0
def dupWords (s : State) (core : Nat) : Nat :=
  s.groups.foldl (fun k x => if x.1 / 64 == core then k + (x.2.integrity.dups.filter (fun w => w.word < regWords x.2 w.reg)).length else k) 0

/-- R106: words of a core's main file. -/
def mainFileWords : Nat := 65536

/-- R106, R113: reclaims a core's duplicates. -/
def dropDups (s : State) (core : Nat) : State :=
  { s with groups := s.groups.map (fun x => if x.1 / 64 == core then (x.1, { x.2 with integrity := { x.2.integrity with dups := [] } }) else x) }

/-- R106: the youngest other resident group of a core. -/
def youngestOther (s : State) (core key : Nat) : Option (Nat × Group) :=
  s.groups.foldl (fun best x =>
    if x.1 / 64 == core && x.1 != key && !x.2.evicted then
      match best with
      | none => some x
      | some b => if b.2.age < x.2.age then some x else best
    else best) none

/-- R114, R115: a save reads every word. A failing one that has a duplicate is mended and logged as corrected; another is saved as read and logged as uncorrected, and the group raises REG_PARITY when it resumes. -/
def saveParity (s : State) (key : Nat) : State :=
  match s.group key with
  | none => s
  | some g =>
    let (s, sound) := g.integrity.bad.foldl (mendWord key) (s, true)
    s.onGroup key (fun g => { g with integrity := { g.integrity with bad := [], dups := [], resume := g.integrity.resume || !sound } })

/-- R106: saves a group's registers out of the main file, in the records of R112. DESIGN CHOICE (log 68): the manual gives the area no address outside a save image, so its bytes stand with the group; a window that is open stays so. -/
def evict (s : State) (key : Nat) : State :=
  (saveParity (s.onGroup key cleanStaged) key).onGroup key (fun g =>
    { g with evicted := true, saved := vectorBlock g, partition := none, staged := [] })

/-- R106: the registers of an evicted group come back from its records. -/
def refillGroup (g : Group) : Group :=
  { (match readRegs g.width g.saved with
     | some x => x.put g
     | none => g) with evicted := false, saved := [] }

/-- R106, R384: the records of an evicted group that a trap has entered follow its registers. -/
def refile (s : State) (key : Nat) : State := s.onGroup key (fun g => if g.evicted then { g with saved := vectorBlock g } else g)

/-- R106: a committed issue stands when its words fit; else duplicates go, or the youngest other group leaves, once its long-latency results have come, and the issue holds. -/
def fitWords (before after : State) (core key : Nat) : State :=
  let n := coreWords after core
  if n + dupWords after core ≤ mainFileWords then after
  else if n ≤ mainFileWords then dropDups after core
  else
    let held := fun (s : State) => { s with env := { after.env with held := true, wrote := before.env.wrote } }
    match youngestOther before core key with
    | none => after
    | some (k, g) => if g.pend.any (fun p => !p.arrived) then held before else held (evict (dropDups before core) k)

end Sys2Proof.Machine
end

