-- ==== Sys2Proof/Machine/MemOps.lean ====
section
/-! DEFINITION. Machine/MemOps: majors 0x40 to 0x42 and `fence` (R253 to R261, R267). -/
namespace Sys2Proof.Machine

/-- Registers that form an address (R86). -/
def MOps.addrRegs (o : MOps) : List RegCode := Opnd.regs o.base true ++ Opnd.regs o.index false

/-- What an instruction on memory does with participants: it waits for what a class orders (R250, R351), then acts. -/
def afterOrder (cls : Cls) (stores : Bool) (body : Issue → State → Verdict) (is : Issue) (s : State) : Verdict :=
  if is.gd == 0 then .commit s 0 0
  else if mustWait s is.key cls stores then .hold s
  else body is s

/-- The frame of a memory instruction. -/
def execM (o : MOps) (reads writes : List RegCode) (stores : Bool) (body : Issue → State → Verdict) (s : State) : Host.Outcome State Fault Refusal :=
  s.run o.pred o.neg (MOps.addrRegs o ++ reads) writes (afterOrder o.cls stores body)

/-- R251: an ordered access above pair scope. -/
def MOps.wide (o : MOps) : Bool := Scope.wide o.scope

/-- `ld` (R254). -/
def execLd (o : MOps) (s : State) : Host.Outcome State Fault Refusal :=
  let n := Size.bytes o.size
  execM o [] (dataRegs o.d n) false (fun is s =>
    match checkLanes s is o.space .read (MOps.wide o) n (MOps.address is o) with
    | .stop v => v
    | .go s ok parked => .commit (loadLanes s is o.d o.look.toNat n o.cls (MOps.uniform is.g o) ok) parked 0) s

/-- `st` (R254). -/
def execSt (o : MOps) (s : State) : Host.Outcome State Fault Refusal :=
  let n := Size.bytes o.size
  execM o (dataRegs o.d n) [] true (fun is s =>
    match checkLanes s is o.space .write (MOps.wide o) n (MOps.address is o) with
    | .stop v => v
    | .go s' ok parked => if noRoom s' is o.cls n (dataOf is o.d n) ok then .hold s else .commit (storeLanes s' is o.cls n (dataOf is o.d n) ok) parked 0) s

/-- R255: the last byte of a block lies in the space and window of its first. -/
def blockFits (is : Issue) (space : Space) (a n : Nat) : Bool :=
  let z := a + is.g.width * n - 1
  let cistern := fun (x y : Nat) => (windowKey is.core is.t is.l x).isSome && (windowKey is.core is.t is.l y).isSome
  match space with
  | .cistern => cistern a z
  | .private_ => z < is.l.record.privSz
  | .global | .host => z < 2 ^ 57
  | .generic =>
    z / 2 ^ 57 == a / 2 ^ 57 && (match genericSpace a with
      | some .cistern => cistern (a % 2 ^ 57) (z % 2 ^ 57)
      | some .private_ => z % 2 ^ 57 < is.l.record.privSz
      | some _ => true
      | none => false)

/-- R255: a block's checks before those of its elements; FADDR names the address checked, A (log 31). -/
def blockCheck (s : State) (is : Issue) (o : MOps) (n : Nat) (go : (Nat → Nat) → Verdict) : Verdict :=
  let a := MOps.address is o 0
  let addr := fun (l : Nat) => a + l * n
  if a % n != 0 then .trap s 5 0 a is.gd
  else if !blockFits is o.space a n then .trap s 7 0 a is.gd
  else go addr

/-- `ldb` (R255): its result is G. -/
def execLdb (o : MOps) (s : State) : Host.Outcome State Fault Refusal :=
  let n := Size.bytes o.size
  execM o [] (dataRegs o.d n) false (fun is s =>
    blockCheck s is o n fun addr =>
      match checkLanes s is o.space .read (MOps.wide o) n addr with
      | .stop v => v
      | .go s ok parked => .commit (loadLanes s is o.d o.look.toNat n o.cls false ok) parked 0) s

/-- `stb` (R255). -/
def execStb (o : MOps) (s : State) : Host.Outcome State Fault Refusal :=
  let n := Size.bytes o.size
  execM o (dataRegs o.d n) [] true (fun is s =>
    blockCheck s is o n fun addr =>
      match checkLanes s is o.space .write (MOps.wide o) n addr with
      | .stop v => v
      | .go s' ok parked => if noRoom s' is o.cls n (dataOf is o.d n) ok then .hold s else .commit (storeLanes s' is o.cls n (dataOf is o.d n) ok) parked 0) s

/-- `prf` (R256): it changes no memory and no register, and may be ignored. -/
def execPrf (o : MOps) (s : State) : Host.Outcome State Fault Refusal :=
  s.run o.pred o.neg (MOps.addrRegs o) [] (fun _ s => .commit s 0 0)

/-! ### Tagged slots (R257, R258) -/

/-- R257: addresses that resolve to no global address. -/
def notGlobal (is : Issue) (o : MOps) : Mask :=
  is.gd &&& Mask.of is.g.width (fun l => MOps.address is o l / 2 ^ 57 != 0)

/-- The key of an address: its bits 56 to 10. -/
def tagKey (a : Nat) : Nat := bits a 56 10

/-- PROT on a mask of lanes, with the lowest one's address. -/
def protOn (s : State) (is : Issue) (o : MOps) (m : Mask) : Verdict :=
  .trap s 7 0 (MOps.address is o ((m.lanes is.g.width).headD 0)) m

/-- The slot that holds a key, else 0xffff. -/
def slotOfKey (tags : List (Nat × Nat)) (key : Nat) : Nat :=
  match tags.find? (fun x => x.2 == key) with
  | some x => x.1
  | none => 0xffff

/-- `ctag` (R257). Its result is U where its address is (R104). -/
def execCtag (o : MOps) (s : State) : Host.Outcome State Fault Refusal :=
  s.run o.pred o.neg (MOps.addrRegs o) (dataRegs o.d 4) <| afterOrder .plain false fun is s =>
    if notGlobal is o != 0 then protOn s is o (notGlobal is o)
    else
      let tags := (s.core is.core).tags
      let shape : Shape := if MOps.uniform is.g o then .u else .g
      .commit (s.onGroup is.key (fun g =>
        pendLoad g o.d 4 o.look.toNat is.gd 0 shape 0 (fun l => slotOfKey tags (tagKey (MOps.address is o l))))) 0 0

/-- R257: binds a slot to a key; the key leaves any other slot. -/
def bindSlot (tags : List (Nat × Nat)) (slot key : Nat) : List (Nat × Nat) :=
  insert (tags.filter (fun x => x.2 != key)) slot key

/-- `cins` (R257): a release at pair scope (R258). -/
def execCins (o : MOps) (s : State) : Host.Outcome State Fault Refusal :=
  s.run o.pred o.neg (MOps.addrRegs o ++ dataRegs o.d 4) [] <| afterOrder .rel true fun is s =>
    if notGlobal is o != 0 then protOn s is o (notGlobal is o)
    else
      let slot := fun l => dataOf is o.d 4 l % 2 ^ 32
      let bad := is.gd &&& Mask.of is.g.width (fun l => 4095 < slot l)
      if bad != 0 then protOn s is o bad
      else
        let c := s.core is.core
        .commit (s.setCore is.core { c with tags := (is.gd.lanes is.g.width).foldl (fun t l => bindSlot t (slot l) (tagKey (MOps.address is o l))) c.tags }) 0 0

/-- `cinv` (R257): a release at pair scope (R258). -/
def execCinv (o : MOps) (s : State) : Host.Outcome State Fault Refusal :=
  s.run o.pred o.neg (MOps.addrRegs o) [] <| afterOrder .rel true fun is s =>
    if notGlobal is o != 0 then protOn s is o (notGlobal is o)
    else
      let c := s.core is.core
      let keys := (is.gd.lanes is.g.width).map (fun l => tagKey (MOps.address is o l))
      .commit (s.setCore is.core { c with tags := c.tags.filter (fun x => !keys.contains x.2) }) 0 0

/-! ### The heap (R259 to R261) -/

/-- The smallest power of two that is at least `n`, from `b` up, within `k` doublings. -/
def powerAtLeast (n : Nat) : Nat → Nat → Nat
  | 0, b => b
  | k + 1, b => if n ≤ b then b else powerAtLeast n k (2 * b)

/-- R259: the stack of a core's quadrant: five pairs each. -/
def coreStack (core : Nat) : Nat := core / 40 * 4 + core % 40 / 10

/-- The offset of a free block of `b` bytes in a page: aligned, and meeting no allocated block. -/
def freeBlocks (p : HeapPage) (b : Nat) : List Nat :=
  (List.range (65536 / b)).filterMap (fun k =>
    let o := k * b
    if p.blocks.all (fun x => x.1 + x.2 ≤ o || o + b ≤ x.1) then some o else none)

/-- Free blocks of a quadrant: page address and offset. -/
def heapChoices (heap : List HeapPage) (stack b : Nat) : List (Nat × Nat) :=
  (heap.filter (fun p => paStack p.pa == stack)).flatMap (fun p => (freeBlocks p b).map (fun o => (p.va, o)))

/-- Marks a block allocated. -/
def takeBlock (heap : List HeapPage) (va o b : Nat) : List HeapPage :=
  heap.map (fun p => if p.va == va then { p with blocks := (o, b) :: p.blocks } else p)

/-- R259: one lane of `halloc`: its result and whether AF is set. Which free block it gets is the device's choice (log 2). -/
def hallocLane (is : Issue) (s : State) (n : Nat) : Nat × Bool × State :=
  if n == 0 then (0, false, s)
  else if 65536 < n then (0, true, s)
  else
    let b := powerAtLeast n 11 64
    let x := s.ctx is.g.ctx
    let l := heapChoices x.heap (coreStack is.core) b
    if l.isEmpty then (0, true, s)
    else
      let (k, s) := s.draw l.length
      let (va, o) := l.getD k (0, 0)
      (va + o, false, s.setCtx is.g.ctx { s.ctx is.g.ctx with heap := takeBlock x.heap va o b })

/-- R259: the lanes of `halloc`, ascending. -/
def hallocLanes (is : Issue) (o : MOps) : List Nat → State → List (Nat × Nat) × Bool × State
  | [], s => ([], false, s)
  | l :: r, s =>
    let (x, af, s) := hallocLane is s (MOps.address is o l)
    let (t, af', s) := hallocLanes is o r s
    ((l, x) :: t, af || af', s)

/-- `halloc` (R259). -/
def execHalloc (o : MOps) (s : State) : Host.Outcome State Fault Refusal :=
  s.run o.pred o.neg (MOps.addrRegs o) (dataRegs o.d 8) <| afterOrder .plain false fun is s =>
    let (t, af, s) := hallocLanes is o (is.gd.lanes is.g.width) s
    .commit (s.onGroup is.key (fun g => pendLoad g o.d 8 o.look.toNat is.gd 0 .g (if af then fAF else 0) (outAt t))) 0 0

/-- R260: the page that holds an allocated block starting at an address. -/
def blockAt (heap : List HeapPage) (a : Nat) : Bool :=
  heap.any (fun p => p.va ≤ a && a < p.va + 65536 && p.blocks.any (fun x => p.va + x.1 == a))

/-- Frees the block at an address. -/
def freeBlock (heap : List HeapPage) (a : Nat) : List HeapPage :=
  heap.map (fun p => if p.va ≤ a && a < p.va + 65536 then { p with blocks := p.blocks.filter (fun x => p.va + x.1 != a) } else p)

/-- `hfree` (R260). -/
def execHfree (o : MOps) (s : State) : Host.Outcome State Fault Refusal :=
  s.run o.pred o.neg (MOps.addrRegs o) [] <| afterOrder .rel true fun is s =>
    let x := s.ctx is.g.ctx
    let a := MOps.address is o
    let lanes := is.gd.lanes is.g.width
    let bad := maskOf (lanes.filter (fun l => a l != 0 && (!blockAt x.heap (a l) || lanes.any (fun k => k != l && a k == a l))))
    if bad != 0 then protOn s is o bad
    else .commit (s.setCtx is.g.ctx { x with heap := (lanes.filter (fun l => a l != 0)).foldl (fun h l => freeBlock h (a l)) x.heap }) 0 0

/-- `fence` (R267): an acquire fence waits for the item's loads still due from peers, a release fence for all its accesses to peers; every other access is already performed (log 5). -/
def execFence (o : MOps) (s : State) : Host.Outcome State Fault Refusal :=
  s.run o.pred o.neg [] [] <| afterOrder o.cls (o.cls == .acq || o.cls == .ar) fun _ s => .commit s 0 0

end Sys2Proof.Machine
end

