-- ==== Sys2Proof/Machine/Launch.lean ====
section
/-! DEFINITION. Machine/Launch: launches entering the dispatcher, placement and completion (R24, R157 to R166). -/
namespace Sys2Proof.Machine

/-! ### The launch record (R158, R159) -/

/-- R158: the chain slots in use. -/
def chainDecls (b : List Byte) (n : Nat) : List ChainDecl :=
  (List.range n).map (fun c => { reg := field b (80 + 4 * c) 1, maxk := field b (81 + 4 * c) 1 })

/-- R158: the record of 128 bytes; CISTERN and SUMP in bytes. -/
def launchRecOf (b : List Byte) : LaunchRec :=
  { entry := field b 0 8, x := field b 8 4, y := field b 12 4, z := field b 16 4, width := field b 20 1, team := field b 21 1
    pair := (field b 22 1).testBit 0, deadline := field b 24 8, data := BitVec.ofNat 64 (field b 32 8)
    privBase := field b 40 8, privSz := field b 48 4, cistern := field b 52 4, sump := field b 56 2 * 1024, bars := field b 58 1
    affBase := field b 64 8, affStride := field b 72 8, chain := chainDecls b (field b 23 1), seeds := field b 96 8
    args := field b 104 8, join := field b 112 8 }

/-- R158: the bytes that must be zero. -/
def launchZeros (b : List Byte) : Bool :=
  field b 22 1 < 2 && field b 59 5 == 0 && field b 120 8 == 0 && (List.range 4).all (fun c => field b (82 + 4 * c) 2 == 0)

/-- R157, R158: the limits of the fields. -/
def launchLimits (r : LaunchRec) : Bool :=
  0 < r.x && 0 < r.y && 0 < r.z && r.x * r.y * r.z < 2 ^ 48 && (r.width == 16 || r.width == 32 || r.width == 64) &&
    (if r.pair then 2 ≤ r.team && r.team ≤ 32 && r.team % 2 == 0 else 1 ≤ r.team && r.team ≤ 16) &&
    r.data.toNat % 65536 == 0 && r.privSz % 64 == 0 && r.privSz ≤ 2 ^ 20 && r.cistern % 1024 == 0 && r.sump ≤ 1536 * 1024 &&
    r.bars ≤ 16 && r.join % 8 == 0 && pcOk r.entry && r.entry < 2 ^ 57

/-- R158, R159: the chain slots name distinct registers within their limits. -/
def chainDeclsOk (l : List ChainDecl) : Bool :=
  l.length ≤ 4 && l.all (fun d => d.reg < 128 && 1 ≤ d.maxk && d.maxk ≤ 4) && (l.map (·.reg)).eraseDups.length == l.length

/-- R159, R162: one team fits an empty core or pair, and a chained launch has room for two in a partition of `cores` cores. -/
def launchFits (r : LaunchRec) (cores : Nat) : Bool :=
  r.cistern ≤ directBytes &&
    (r.chain.isEmpty || !r.pair || 2 < cores || (2 * r.cistern ≤ directBytes && 2 * r.sump ≤ sumpBytes && 2 * r.bars ≤ 16))

/-- R159: the record passes. -/
def launchOk (b : List Byte) (cores : Nat) : Bool :=
  let r := launchRecOf b
  field b 23 1 ≤ 4 && launchZeros b && launchLimits r && chainDeclsOk r.chain && launchFits r cores

/-- R157: groups and teams of a launch. -/
def Launch.groups (l : Launch) : Nat := ceilDiv l.items l.record.width
def Launch.teams (l : Launch) : Nat := ceilDiv l.groups l.record.team

/-! ### Entering the dispatcher (R159) -/

/-- What entering a launch comes to. -/
inductive Entered where
  | ok (id : Nat) (s : State)
  | bad (s : State)
  | fault (f : DevFault)
  deriving DecidableEq, Repr

/-- R142: a live extent, zero for the record's. -/
def liveOf (live extent : Nat) : Nat := if live == 0 then extent else live

/-- The seeds a record names, its own order: slot c, word m. DESIGN CHOICE (log 44): without chain slots the block is not read. -/
def readSeeds (s : State) (c : Nat) (r : LaunchRec) : Except DevFault (List Word × State) :=
  if r.chain.isEmpty then .ok ([], s)
  else (s.readVA c r.seeds 64).map fun (b, s) => ((List.range 16).map (fun k => BitVec.ofNat 32 (field b (4 * k) 4)), s)

/-- The arguments: those given, or the block the record names. DESIGN CHOICE (log 44): where a hart's `spawn` gives them the block is not read. -/
def readArgs (s : State) (c : Nat) (r : LaunchRec) (args : Option (List Dword)) : Except DevFault (List Dword × State) :=
  match args with
  | some a => .ok (a, s)
  | none =>
    if r.args == 0 then .ok (List.replicate 8 0, s)
    else (s.readVA c r.args 64).map fun (b, s) => ((List.range 8).map (fun k => BitVec.ofNat 64 (field b (8 * k) 8)), s)

/-- R159: reads a launch record with its seeds and arguments and enters it. -/
def enterLaunch (s : State) (c va : Nat) (live : Nat × Nat × Nat) (args : Option (List Dword)) (origin : Origin) (iv : Option IvArg) : Entered :=
  if va % 128 != 0 then .bad s
  else match s.readVA c va 128 with
    | .error f => .fault f
    | .ok (b, s) =>
      let r := launchRecOf b
      if !launchOk b (s.ctx c).cores || r.x < live.1 || r.y < live.2.1 || r.z < live.2.2 then .bad s
      else match readSeeds s c r with
        | .error f => .fault f
        | .ok (seeds, s) =>
          match readArgs s c r args with
          | .error f => .fault f
          | .ok (a, s) =>
            let (id, s) := s.fresh
            let l : Launch := { ctx := c, order := id, addr := va, record := r, args := a, seeds, liveX := liveOf live.1 r.x, liveY := liveOf live.2.1 r.y,
                                liveZ := liveOf live.2.2 r.z, origin, teamsLeft := 0, ivarg := iv }
            .ok id (s.setLaunch id { l with teamsLeft := l.teams })

/-! ### Completion (R145, R166) -/

/-- R145: writes a completion record and signals the packet's interrupt. DESIGN CHOICE (log 20): MSIX counts in the table of the function that the context's descriptor names. -/
def complete (s : State) (c q : Nat) (tag : Word) (addr : Nat) (irq : Bool) (status : Nat) : State :=
  let s := if addr == 0 then s
    else match s.writeVA c addr (leBytes 8 (tag.toNat * 2 ^ 32 + status)) with
      | .ok s => s
      | .error f => report (logDevFault s c f) c (kind7 f.kind7 q 1 addr tag.toNat)
  if irq then s.signal (s.ctx c).desc.func (s.queue q).desc.msix else s

/-- Work of a queue has ended. -/
def endWork (s : State) (q : Nat) (w : Work) : State :=
  let x := s.queue q
  s.setQueue q { x with work := x.work.filter (fun y => y.2 != w) }

/-- R166: adds 1 to the join word. -/
def joinAdd (s : State) (l : Launch) : State :=
  if l.record.join == 0 then s
  else
    let lost := fun (f : DevFault) => report (logDevFault s l.ctx f) l.ctx (kind7 f.kind7 0xffff 2 l.record.join l.addr)
    match s.readVA l.ctx l.record.join 8 .atomic with
    | .error f => lost f
    | .ok (b, s) =>
      match s.writeVA l.ctx l.record.join (leBytes 8 (leNat b + 1)) with
      | .error f => lost f
      | .ok s => s

/-- R145, R394: tells the launch's origin that it has ended, with its STATUS. -/
def tellOrigin (s : State) (id : Nat) (l : Launch) (status : Nat) : State :=
  match l.origin with
  | .packet q tag addr irq => endWork (complete s l.ctx q tag addr irq status) q (.launch id)
  | .spawn => s
  | .sequencer r =>
    match lookup s.runs r with
    | some x => { s with runs := insert s.runs r { x with landed := some (status != 0) } }
    | none => s

/-- R166: a launch whose last group has retired completes. -/
def endLaunch (s : State) (id : Nat) : State :=
  match lookup s.launches id with
  | none => s
  | some l =>
    if l.teamsLeft == 0 then
      let s := { s with launches := erase s.launches id }
      joinAdd (tellOrigin s id l (if l.faulted then 1 else 0)) l
    else s

/-! ### What a core has free (R162, R165) -/

/-- Groups of a launch on one core of a full team. -/
def LaunchRec.perCore (r : LaunchRec) : Nat := if r.pair then r.team / 2 else r.team

/-- The position of a core in a seat's list. -/
def memberIn (cores : List Nat) (core : Nat) : Option Nat := cores.findIdx? (· == core)

/-- Reserves on a core that bind a launch: those of the others (R165), with their records. -/
def reservesOn (s : State) (core self : Nat) : List (LaunchRec × Seat × Nat) :=
  s.launches.filterMap (fun x => if x.1 == self then none
    else x.2.reserve.bind (fun p => (memberIn p.cores core).map (fun m => (x.2.record, p, m))))

/-- Teams on a core, with their records. -/
def teamsOn (s : State) (core : Nat) : List (LaunchRec × Team × Nat) :=
  s.teams.filterMap (fun x => (lookup s.launches x.2.launch).bind (fun l => (memberIn x.2.cores core).map (fun m => (l.record, x.2, m))))

/-- Groups resident on a core. -/
def residents (s : State) (core : Nat) : Nat := (s.groups.filter (fun x => x.1 / 64 == core)).length

/-- R14: group slots of a core. -/
def coreSlots : Nat := 48

/-- Free group slots of a core. -/
def slotsFree (s : State) (core self : Nat) : Nat :=
  coreSlots - (residents s core + ((reservesOn s core self).map (fun x => x.1.perCore)).sum)

/-- R162: main-file words of a group with every register U. -/
def newWords : Nat := 260

/-- The main file of a core has words for `n` new groups. -/
def wordsFit (s : State) (core self n : Nat) : Bool :=
  coreWords s core + newWords * (n + ((reservesOn s core self).map (fun x => x.1.perCore)).sum) ≤ mainFileWords

/-- The lowest offset from `lo` on at which `n` bytes lie free beside the allocations used, below a limit (first fit, log 16). -/
def firstFit (used : List (Nat × Nat)) (lo n lim : Nat) : Option Nat :=
  minimum ((lo :: used.map (fun x => x.1 + x.2)).filter (fun a => lo ≤ a && a + n ≤ lim && used.all (fun x => x.2 == 0 || a + n ≤ x.1 || x.1 + x.2 ≤ a)))

/-- Offsets for windows whose bytes do not lie together. -/
def farOffset : Nat := 2 ^ 24

/-- R162: `n` bytes of an array of `size` fit when as many are free; the offset they get (log 16). -/
def allocate (used : List (Nat × Nat)) (n size : Nat) : Option Nat :=
  if (used.map (·.2)).sum + n ≤ size then (firstFit used 0 n size).or (firstFit used farOffset n (2 ^ 32)) else none

/-- Cistern and sump allocations on a core. -/
def cisternUsed (s : State) (core self : Nat) : List (Nat × Nat) :=
  (teamsOn s core).map (fun x => (x.2.1.cistern.getD x.2.2 0, x.1.cistern)) ++
    (reservesOn s core self).map (fun x => (x.2.1.cistern.getD x.2.2 0, x.1.cistern))
def sumpUsed (s : State) (core self : Nat) : List (Nat × Nat) :=
  (teamsOn s core).map (fun x => (x.2.1.sump.getD x.2.2 0, x.1.sump)) ++
    (reservesOn s core self).map (fun x => (x.2.1.sump.getD x.2.2 0, x.1.sump))

/-- Barrier slots in use on a core: a pair team's are member 0's. -/
def barsUsed (s : State) (core self : Nat) : Nat :=
  ((teamsOn s core).map (fun x => if x.2.2 == 0 then x.1.bars else 0)).sum +
    ((reservesOn s core self).map (fun x => if x.2.2 == 0 then x.1.bars else 0)).sum

/-! ### R24 and R25 -/

/-- R25: the core's die accepts dispatch. -/
def dieReady (s : State) (core : Nat) : Bool := 4 * (core / 40 + 1) ≤ s.sec.hbm

/-- R24. -/
def idleClk : Nat := 4096

/-- R24: a core without a group has been idle long enough. -/
def isIdle (s : State) (core : Nat) : Bool :=
  let x := s.core core
  residents s core == 0 && (x.idle || x.emptySince + idleClk ≤ s.clk)

/-- R24: the limit on a core's placements is in force. -/
def isLimited (s : State) (core : Nat) : Bool :=
  let x := s.core core
  x.limited && !(residents s core != 0 && x.fullSince + idleClk ≤ s.clk)

/-- R24: the limit holds a placement back. -/
def heldBack (s : State) (core : Nat) : Bool := isLimited s core && s.clk < (s.core core).lastPlace + 256

/-- R24: what a core remembers of a placement of `n` groups. DESIGN CHOICE (log 71): a core of a pair team that gets no group of it counts no placement, nor does a team whose lanes are all `off`. -/
def noteDispatch (s : State) (core n : Nat) : State :=
  if n == 0 then s
  else
    let x := s.core core
    s.setCore core { x with idle := false, limited := isIdle s core || isLimited s core, lastPlace := s.clk,
                            fullSince := if residents s core == 0 then s.clk else x.fullSince }

/-- R107: a free partition of a core's standpipe. -/
def freePart (s : State) (core : Nat) : Option Nat :=
  let used := (s.groups.filter (fun x => x.1 / 64 == core)).filterMap (fun x => x.2.partition)
  (List.range 16).find? (fun n => !used.contains n)

/-- Gives a group a standpipe partition, if one is free. -/
def givePart (s : State) (key : Nat) : State :=
  match freePart s (key / 64) with
  | none => s
  | some n =>
    let c := s.core (key / 64)
    (s.onGroup key (fun g => { g with partition := some n })).setCore (key / 64) { c with parts := insert c.parts key s.clk }

/-- R107: partitions that are free go to groups of the core that hold none, the oldest first. -/
def fillParts (s : State) (core : Nat) : State :=
  let need := s.groups.filter (fun x => x.1 / 64 == core && x.2.partition.isNone && !x.2.evicted)
  let first := need.foldl (fun (best : Option (Nat × Group)) x => match best with
    | none => some x
    | some b => if x.2.age < b.2.age then some x else best) none
  match first with
  | none => s
  | some x => givePart s x.1

/-- A group leaves its slot (R166); R24 notes when the core is empty. -/
def unseat (s : State) (key : Nat) : State :=
  let core := key / 64
  let limited := isLimited s core
  let s := { s with groups := erase s.groups key, cores := insert s.cores core { s.core core with
    limited, parts := erase (s.core core).parts key, fused := (s.core core).fused.filter (fun f => f.group != key) } }
  if residents s core == 0 then s.setCore core { s.core core with emptySince := s.clk } else fillParts s core

/-! ### Choosing where a team goes (R162, R163) -/

/-- Whether `n` groups of a launch fit a core as its member 0 or 1, with the offsets they get. -/
def coreFits (s : State) (self : Nat) (r : LaunchRec) (core member n : Nat) : Option (Nat × Nat) :=
  if dieReady s core && !heldBack s core && !s.groups.any (fun x => x.1 / 64 == core && x.2.evicted) && n ≤ slotsFree s core self &&
      wordsFit s core self n && (member != 0 || barsUsed s core self + r.bars ≤ 16) then
    match allocate (cisternUsed s core self) r.cistern directBytes, allocate (sumpUsed s core self) r.sump sumpBytes with
    | some a, some b => some (a, b)
    | _, _ => none
  else none

/-- Whether a team fits on a core or pair, given as its cores; `n` counts the placed groups on each. -/
def seatOn (s : State) (self : Nat) (r : LaunchRec) (cores n : List Nat) : Option Seat :=
  match cores with
  | [a, b] => match coreFits s self r a 0 (n.getD 0 0), coreFits s self r b 1 (n.getD 1 0) with
    | some x, some y => some { cores, cistern := [x.1, y.1], sump := [x.2, y.2] }
    | _, _ => none
  | [a] => (coreFits s self r a 0 (n.getD 0 0)).map (fun x => { cores, cistern := [x.1], sump := [x.2] })
  | _ => none

/-- R12, R117: the pairs of a partition, as their two cores. -/
def pairsOf (d : Desc) : List (List Nat) := ((List.range 80).filter d.pairs.getLsbD).map (fun n => [2 * n, 2 * n + 1])

/-- The places a team may take: cores, or pairs for a pair team. -/
def sites (d : Desc) (r : LaunchRec) : List (List Nat) := if r.pair then pairsOf d else (pairsOf d).flatten.map (fun c => [c])

/-- R163: the stack of a team's affinity address; none where it has no device page. -/
def affinity (s : State) (c : Nat) (r : LaunchRec) (t : Nat) : Option Nat :=
  let va := (r.affBase + t * r.affStride) % 2 ^ 64
  if r.affBase == 0 || va / 2 ^ 57 != 0 then none
  else match walk s.mem (s.ctx c).desc.ptroot va with
    | .leaf w _ => if leafMem w == 0 then some (paStack (leafFrame w)) else none
    | _ => none

/-- R163: the candidates in the order they are considered. -/
def tiers (s : State) (c : Nat) (r : LaunchRec) (t : Nat) : List (List (List Nat)) :=
  let all := sites (s.ctx c).desc r
  match affinity s c r t with
  | none => [all]
  | some st => [all.filter (fun x => coreStack (x.headD 0) == st), all.filter (fun x => x.headD 0 / 40 == st / 4), all]

/-- R163: of the candidates that fit, the one with the most free slots; ties go to the lower core. A pair counts the slots of both cores (log 16). -/
def bestSite (s : State) (self : Nat) (r : LaunchRec) (n : List Nat) : List (List Nat) → Option Seat
  | [] => none
  | x :: rest =>
    match seatOn s self r x n, bestSite s self r n rest with
    | none, b => b
    | some a, none => some a
    | some a, some b =>
      let free := fun (p : Seat) => (p.cores.map (fun c => slotsFree s c self)).sum
      some (if free a < free b then b else a)

def firstTier (s : State) (self : Nat) (r : LaunchRec) (n : List Nat) : List (List (List Nat)) → Option Seat
  | [] => none
  | x :: rest => match bestSite s self r n x with
    | some p => some p
    | none => firstTier s self r n rest

/-- R157: the groups of a team that are placed: their indices in the launch. -/
def placedGroups (l : Launch) (t : Nat) : List Nat :=
  ((List.range l.record.team).map (t * l.record.team + ·)).filter (fun g =>
    g < l.groups && (List.range l.record.width).any (fun k => !l.isOff (g * l.record.width + k)))

/-- The member of a pair team that runs a group (R162). -/
def memberFor (r : LaunchRec) (g : Nat) : Nat := if r.pair && r.team / 2 ≤ g % r.team then 1 else 0

/-- The number of placed groups on each core of a team. -/
def groupCounts (l : Launch) (t : Nat) : List Nat :=
  let gs := placedGroups l t
  (List.range (if l.record.pair then 2 else 1)).map (fun m => (gs.filter (fun g => memberFor l.record g == m)).length)

/-- R163: where a team of a launch goes now. -/
def seatFor (s : State) (id : Nat) (l : Launch) (t : Nat) : Option Seat :=
  firstTier s id l.record (groupCounts l t) (tiers s l.ctx l.record t)

/-- R165: where a full team of a launch fits. -/
def reserveFor (s : State) (id : Nat) (l : Launch) : Option Seat :=
  firstTier s id l.record (List.replicate (if l.record.pair then 2 else 1) l.record.perCore) [sites (s.ctx l.ctx).desc l.record]

/-- R165: a chained launch with teams still to place keeps a reserve while one fits. DESIGN CHOICE (log 44): it begins when the launch's first team has been placed. -/
def keepReserve (s : State) (id : Nat) : State :=
  match lookup s.launches id with
  | none => s
  | some l =>
    if l.record.chain.isEmpty || l.teams ≤ l.next || !l.started || (s.ctx l.ctx).state != .active then s.setLaunch id { l with reserve := none }
    else if l.reserve.isSome then s
    else s.setLaunch id { l with reserve := reserveFor s id l }

/-- R165: resources that became free refill the reserves of a context's launches, in dispatch order. -/
def keepReserves (s : State) (c : Nat) : State :=
  (s.launches.filter (fun x => x.2.ctx == c)).foldl (fun s x => keepReserve s x.1) s

/-! ### Which team is next (R163, R164) -/

/-- The launch has teams that are not placed. -/
def unplaced (l : Launch) : Bool := l.next < l.teams || !l.returned.isEmpty || l.batches.any (fun x => !x.2.isEmpty)

/-- R163: an earlier launch of the context still has teams to place. -/
def laterLaunch (s : State) (l : Launch) : Bool := s.launches.any (fun x => x.2.ctx == l.ctx && x.2.order < l.order && unplaced x.2)

/-- The dies of a partition, the home die first (R164). -/
def diesOf (d : Desc) : List Nat := (List.range 4).filter (fun k => (List.range 20).any (fun p => d.pairs.getLsbD (20 * k + p)))

/-- R164: a die's dispatcher takes the next index of its batch, fetching 8 when it has none. -/
def takeBatch (l : Launch) (die : Nat) : Option (Nat × Launch) :=
  match (lookup l.batches die).getD [] with
  | t :: r => some (t, { l with batches := insert l.batches die r })
  | [] =>
    if l.next < l.teams then
      let ts := (List.range (min 8 (l.teams - l.next))).map (l.next + ·)
      some (l.next, { l with next := l.next + ts.length, batches := insert l.batches die (ts.drop 1) })
    else none

/-- R164: indices that a save gave back go first; a chained launch and a partition on one die take their teams in one ascending order; else the die whose turn it is takes one (log 16). -/
def nextTeam (s : State) (l : Launch) : Option (Nat × Launch) × State :=
  match l.returned with
  | t :: r => (some (t, { l with returned := r }), s)
  | [] =>
    let ds := diesOf (s.ctx l.ctx).desc
    if !l.record.chain.isEmpty || ds.length ≤ 1 then
      (if l.next < l.teams then some (l.next, { l with next := l.next + 1 }) else none, s)
    else
      let (k, s) := s.draw ds.length
      ((ds.drop k ++ ds.take k).findSome? (takeBatch l), s)

/-- R163: no team of a lower index that another die fetched is held. -/
def noneHeld (s : State) (id : Nat) (l : Launch) (t : Nat) : Bool :=
  (l.batches.filterMap (fun x => x.2.head?)).all (fun u => t ≤ u || (seatFor s id l u).isSome)

/-! ### Placement (R161 to R163) -/

/-- R161: the scalar registers at dispatch. -/
def firstScalars (l : Launch) (g t : Nat) : List Dword :=
  let n := fun (x : Nat) => BitVec.ofNat 64 x
  [l.record.data, n l.addr, n g, n t, n (g * l.record.width), n l.liveX, n l.liveY, n l.liveZ] ++ (l.args ++ List.replicate 8 0).take 8 ++
    List.replicate 48 0

/-- R161: the registers at dispatch. -/
def firstRegs (l : Launch) (g t : Nat) : Regs :=
  { v := List.replicate 128 (.u 0), s := firstScalars l g t, p := List.replicate 8 0, j := List.replicate 8 {}, cc := List.replicate 16 0
    lpc := List.replicate l.record.width (BitVec.ofNat 64 l.record.entry), lsp := .u (BitVec.ofNat 64 (0x7d * 2 ^ 57 + l.record.privSz)), gs := 0 }

/-- R161: dispatches one group into a slot. -/
def dispatchGroup (id team t : Nat) (l : Launch) (s : State) (x : Nat × Nat) : State :=
  let (key, g) := x
  let (age, s) := s.fresh
  let s := s.setGroup key {
    ctx := l.ctx, launch := id, team, index := g, width := l.record.width, age, since := s.clk, entering := true, regs := firstRegs l g t
    lanes := (List.range l.record.width).map (fun k => if l.isOff (g * l.record.width + k) then .off else .run) }
  givePart s key

/-- The slots named for a team are free, distinct, and on the cores of its groups. -/
def slotsOk (s : State) (l : Launch) (seat : Seat) (gs keys : List Nat) : Bool :=
  keys.length == gs.length && keys.eraseDups.length == keys.length &&
    (keys.zip gs).all (fun x => x.1 % 64 < coreSlots && some (x.1 / 64) == seat.cores[memberFor l.record x.2]? && (s.group x.1).isNone)

/-- R106: duplicates make way for new groups. -/
def makeWords (s : State) (core : Nat) : State := if coreWords s core + dupWords s core ≤ mainFileWords then s else dropDups s core

/-- Places a team in its seat. A team without a placed group counts as retired at once (R157). -/
def placeTeam (s : State) (id : Nat) (l : Launch) (t : Nat) (seat : Seat) (keys : List Nat) : State :=
  let gs := placedGroups l t
  let l := { l with started := true, reserve := none }
  if gs.isEmpty then endLaunch (s.setLaunch id { l with teamsLeft := l.teamsLeft - 1 }) id
  else
    let (team, s) := s.fresh
    let s := seat.cores.foldl (fun s c => noteDispatch s c (keys.filter (fun k => k / 64 == c)).length) s
    let s := (s.setLaunch id l).setTeam team {
      ctx := l.ctx, launch := id, index := t, cores := seat.cores, groups := keys, live := maskOf (gs.map (· % l.record.team))
      cistern := seat.cistern, sump := seat.sump, bars := List.replicate l.record.bars {} }
    let s := (keys.zip gs).foldl (dispatchGroup id team t l) s
    seat.cores.foldl makeWords s

/-- TEAM_PLACEMENT (R163): the dispatcher places a launch's next team, in the group slots named. -/
def execTeamPlacement (launch : Nat) (slots : List Nat) (s : State) : Host.Outcome State Fault Refusal :=
  match lookup s.launches launch with
  | none => .next s
  | some l =>
    if (s.ctx l.ctx).state != .active || laterLaunch s l then .next s
    else match nextTeam s l with
      | (none, _) => .next s
      | (some (t, l), s') =>
        match seatFor s' launch l t with
        | none => .next s
        | some seat =>
          if noneHeld s' launch l t && slotsOk s' l seat (placedGroups l t) slots then .next (keepReserve (placeTeam s' launch l t seat slots) launch)
          else .next s

end Sys2Proof.Machine
end

