-- ==== Sys2Proof/Machine/Command.lean ====
section
/-! DEFINITION. Machine/Command: the command registers of BAR 0, their GO and ST fields, and what a command finds (R116, R136, R380, R435, R447, R449, R451, R472). -/
namespace Sys2Proof.Machine

/-! ### The layout of a command register (R116, R136) -/

/-- GO. -/
def cmdGo (w : Dword) : Bool := w.getLsbD 0
/-- OP, bits [55:48]. -/
def cmdOp (w : Dword) : Nat := bits w.toNat 55 48
/-- The number of CTXCMD and the registers of its layout, bits [47:36]. -/
def cmdNum (w : Dword) : Nat := bits w.toNat 47 36
/-- The queue of QCMD, bits [47:35]. -/
def cmdQueue (w : Dword) : Nat := bits w.toNat 47 35

/-- A command ends: ST takes its final value and GO falls. -/
def cmdEnd (w : Dword) (st : Nat) : Dword := (w &&& ~~~(0xf00000001#64)) ||| BitVec.ofNat 64 (st % 16 * 2 ^ 32)
/-- The same for QCMD, whose ST has three bits. -/
def qcmdEnd (w : Dword) (st : Nat) : Dword := (w &&& ~~~(0x700000001#64)) ||| BitVec.ofNat 64 (st % 8 * 2 ^ 32)

/-- A command register that stands at a command: GO, with this OP and number. -/
def cmdIs (w : Dword) (op num : Nat) : Bool := cmdGo w && cmdOp w == op && cmdNum w == num

/-- The physical function. -/
def physical : Nat := 0

/-! ### The ends of commands -/

def endCtxcmd (s : State) (fn st : Nat) : State := s.setFunc fn { s.func fn with ctxcmd := cmdEnd (s.func fn).ctxcmd st }
def endQcmd (s : State) (fn st : Nat) : State := s.setFunc fn { s.func fn with qcmd := qcmdEnd (s.func fn).qcmd st }
def endInval (s : State) (fn st : Nat) : State := s.setFunc fn { s.func fn with inval := cmdEnd (s.func fn).inval st }
def endPincmd (s : State) (fn st : Nat) : State := s.setFunc fn { s.func fn with pincmd := cmdEnd (s.func fn).pincmd st }
def endClscmd (s : State) (fn st : Nat) : State := s.setFunc fn { s.func fn with clscmd := cmdEnd (s.func fn).clscmd st }
def endPoolcmd (s : State) (fn st : Nat) : State := s.setFunc fn { s.func fn with poolcmd := cmdEnd (s.func fn).poolcmd st }
def endFwcmd (s : State) (fn st : Nat) : State := s.setFunc fn { s.func fn with fwcmd := cmdEnd (s.func fn).fwcmd st }

/-! ### Who owns what (R116, R134, R449) -/

/-- R449: the function a queue is assigned to: the virtual function in whose range it lies, else the physical function. -/
def queueOwner (s : State) (n : Nat) : Nat :=
  match s.funcs.find? (fun x => x.1 != physical && x.2.poolFirst ≤ n && n < x.2.poolFirst + x.2.poolCount) with
  | some x => x.1
  | none => physical

/-- R116: the function may command the context: the one that created it, or for KILL and SUSPEND the physical function. -/
def ownsCtx (s : State) (fn c : Nat) (anyCtx : Bool) : Bool := (s.ctx c).owner == fn || (anyCtx && fn == physical)

/-- R135: the command processors serve a queue of this context: it is ACTIVE, or saving and has to finish the packet it holds (R125). -/
def servesCtx (s : State) (c : Nat) : Bool := (s.ctx c).state == .active || (s.ctx c).state == .saving

/-- Hardware queues of the device (R134). -/
def queueCount : Nat := 8192

/-- Interpreter units (R19). -/
def interpUnits : Nat := 32

end Sys2Proof.Machine
end

