-- ==== Sys2Proof/Machine/Queue.lean ====
section
/-! DEFINITION. Machine/Queue: hardware queues: their commands, status words, slots and units (R134 to R141, R148). -/
namespace Sys2Proof.Machine

/-! ### The status word (R134, R139, R146) -/

/-- R134: the state codes. -/
def QueueState.code : QueueState → Nat
  | .disabled => 0
  | .idle => 1
  | .active => 2
  | .blocked => 3
  | .error => 4
  | .draining => 5

/-- Packets of a ring. -/
def QueueDesc.size (d : QueueDesc) : Nat := 2 ^ d.log2n

/-- R140: the address of slot RI. -/
def Queue.slotVA (q : Queue) : Nat := q.desc.base + 64 * q.ri

/-- R139: the tag of the packet at RI, as the ring holds it; 0 where it cannot be read (log 20). -/
def ringTag (s : State) (q : Queue) : Nat :=
  match s.readVA q.desc.ctx (q.slotVA + 4) 4 with
  | .ok (b, _) => leNat b
  | .error _ => 0

/-- R139: the status word. -/
def statusBytes (q : Queue) (tag : Nat) : List Byte :=
  record 16 [(2, q.ri), (1, if q.phase then 1 else 0), (1, q.state.code), (1, q.error), (1, 0), (2, q.progError), (4, tag)]

/-- R139, R146: writes a queue's status word. One that faults puts the queue into error XLATE. -/
def writeStatus (s : State) (n : Nat) : State :=
  let q := s.queue n
  let tag := ringTag s q
  match s.writeVA q.desc.ctx q.desc.status (statusBytes q tag) with
  | .ok s => s.setQueue n { q with sinceStatus := 0 }
  | .error f =>
    let s := report (logDevFault s q.desc.ctx f) q.desc.ctx (kind7 f.kind7 n 3 q.desc.status tag)
    if q.state == .error then s else s.setQueue n { q with state := .error, error := 7, unit := none, run := none, packet := [] }

/-- A queue changes its state: R139's status word follows. -/
def moveQueue (s : State) (n : Nat) (q : Queue) : State := writeStatus (s.setQueue n q) n

/-- R135: a DISABLE that waited takes effect. -/
def settleDisable (s : State) (n : Nat) : State :=
  let q := s.queue n
  if q.disabling then moveQueue s n { q with state := .draining, disabling := false, packet := [], run := none, unit := none, hold := false } else s

/-- R146: the queue enters error at its packet. -/
def failPacket (s : State) (n code : Nat) : State :=
  settleDisable (moveQueue s n { s.queue n with state := .error, error := code, packet := [], run := none, unit := none, hold := false }) n

/-- R146, code 7: a fault of an access that the queue makes for a packet. An uncorrectable memory error counts as one (log 20). -/
def faultPacket (s : State) (n : Nat) (f : DevFault) : State := failPacket (logDevFault s (s.queue n).desc.ctx f) n 7

/-- R135: the packet stays and waits on its condition. -/
def blockQueue (s : State) (n : Nat) (hold : Bool) : State :=
  settleDisable (moveQueue s n { s.queue n with state := .blocked, hold, woken := false, unit := none, blockedAt := s.clk }) n

/-! ### Packets (R140 to R142) -/

/-- The packet a queue holds. -/
def Queue.byte (q : Queue) (o n : Nat) : Nat := field q.packet o n
def Queue.type (q : Queue) : Nat := q.byte 0 1
def Queue.fence (q : Queue) : Bool := (q.byte 1 1).testBit 1
def Queue.irq (q : Queue) : Bool := (q.byte 1 1).testBit 2
def Queue.prog (q : Queue) : Nat := q.byte 2 2
def Queue.tag (q : Queue) : Word := BitVec.ofNat 32 (q.byte 4 4)

/-- R145: a packet without work signals once it is consumed. WAITVAL and PROGRAM do as NOP and WRITEVAL (log 20). -/
def signalsAtEnd (q : Queue) : Bool := q.irq && (q.type == 0 || q.type == 3 || q.type == 4 || q.type == 6)

/-- R135, R140: the packet is consumed. The next slot is tested by the fetch that follows. -/
def consume (s : State) (n : Nat) (signal : Bool) : State :=
  let q := s.queue n
  let ri := if q.ri + 1 < q.desc.size then q.ri + 1 else 0
  let x := { q with ri, phase := if ri == 0 then !q.phase else q.phase, state := .active, packet := [], run := none, unit := none, hold := false,
                    serial := q.serial + 1, sinceStatus := q.sinceStatus + 1 }
  let s := s.setQueue n x
  let s := if signal then s.signal (s.ctx q.desc.ctx).desc.func q.desc.msix else s
  if x.disabling then settleDisable s n
  else if 64 ≤ x.sinceStatus then writeStatus s n
  else s

/-- R140, R146: the errors of a header: a reserved type, nonzero reserved bits, no program. -/
def headerError (q : Queue) : Option Nat :=
  if 6 < q.type then some 1
  else if q.byte 1 1 / 8 != 0 then some 2
  else if q.prog != 0 && (q.desc.nprog < q.prog || (lookup q.slots q.prog).isNone) then some 6
  else none

/-- R141: a packet that has been read: it is valid when its PH equals the expected phase. -/
def takePacket (s : State) (n : Nat) (b : List Byte) : State :=
  let q := s.queue n
  if (field b 1 1).testBit 0 != q.phase then
    if q.state == .idle then s else moveQueue s n { q with state := .idle, packet := [] }
  else
    let x := { q with state := .active, packet := b, waitSince := s.clk }
    let s := if q.state == .idle then moveQueue s n x else s.setQueue n x
    if (s.queue n).state == .error then s
    else match headerError x with
      | some code => failPacket s n code
      | none => s

/-- R135, R141: the queue may test slot RI. -/
def mayFetch (s : State) (q : Queue) : Bool :=
  (q.state == .idle || (q.state == .active && q.packet.isEmpty)) && (s.ctx q.desc.ctx).state == .active

/-- R141: tests slot RI. -/
def testSlot (s : State) (n : Nat) : State :=
  let q := s.queue n
  if !mayFetch s q then s
  else match s.readVA q.desc.ctx q.slotVA 64 .read with
    | .error f => faultPacket s n f
    | .ok (b, s) => takePacket s n b

/-- PACKET_FETCH (R141). -/
def execPacketFetch (queue : Nat) (s : State) : Host.Outcome State Fault Refusal := .next (testSlot s queue)

/-- QUEUE_POLL (R137). -/
def execQueuePoll (queue : Nat) (s : State) : Host.Outcome State Fault Refusal :=
  .next (if (s.queue queue).state == .idle then testSlot s queue else s)

/-! ### Interpreter units (R147, R148) -/

/-- A queue that waits for a unit. -/
def waitsUnit (s : State) (q : Queue) : Bool := q.state == .active && !q.packet.isEmpty && q.unit.isNone && servesCtx s q.desc.ctx

/-- R148: whether one waiting queue is taken before another. -/
def takenBefore (clk : Nat) (a b : Queue) : Bool :=
  let late := fun (q : Queue) => q.waitSince + 2 ^ 20 ≤ clk
  if late a != late b then late a
  else if !late a && a.desc.prio != b.desc.prio then b.desc.prio < a.desc.prio
  else a.waitSince < b.waitSince

/-- R148: the queue a free unit takes. DESIGN CHOICE (log 20): of queues of equal PRIO that have waited equally long, the first of the table. -/
def nextQueue (s : State) : Option (Nat × Queue) :=
  (s.queues.filter (fun x => waitsUnit s x.2)).foldl (fun (best : Option (Nat × Queue)) x => match best with
    | none => some x
    | some b => if takenBefore s.clk x.2 b.2 then some x else best) none

/-- UNIT_ASSIGNMENT (R148): a free unit takes a waiting queue; a packet with PROG starts its program. -/
def execUnitAssignment (unit : Nat) (s : State) : Host.Outcome State Fault Refusal :=
  if interpUnits ≤ unit || s.queues.any (fun x => x.2.unit == some unit) then .next s
  else match nextQueue s with
    | none => .next s
    | some (n, q) => .next (s.setQueue n { q with unit := some unit, run := if q.prog == 0 then q.run else some (q.run.getD { prog := q.prog }) })

/-! ### Commands (R135 to R138) -/

/-- The command register stands at a command for the queue. -/
def qcmdIs (s : State) (fn op n : Nat) : Bool :=
  let w := (s.func fn).qcmd
  cmdGo w && cmdOp w == op && cmdQueue w == n

/-- R138: the descriptor. -/
def queueDescOf (b : List Byte) : QueueDesc :=
  { base := field b 0 8, log2n := field b 8 1, prio := field b 9 1, ctx := field b 10 2, bucket := (field b 12 1).testBit 0, status := field b 16 8
    buckets := field b 24 8, nvme := field b 32 8, progArea := field b 40 8, nprog := field b 48 1, msix := field b 49 1 }

/-- R138: the limits of the fields. -/
def queueDescOk (b : List Byte) : Bool :=
  let d := queueDescOf b
  d.base % 4096 == 0 && 4 ≤ d.log2n && d.log2n ≤ 16 && d.prio < 8 && d.ctx < 4096 && field b 12 1 < 2 && zeros b 13 16 && d.status % 16 == 0 &&
    (d.bucket || d.buckets == 0) && d.progArea % 16384 == 0 && d.nprog ≤ 64 && zeros b 50 64

/-- R138: queues that have BUCKET set. -/
def bucketQueues (s : State) : Nat := (s.queues.filter (fun x => x.2.state != .disabled && x.2.desc.bucket)).length

/-- R138: the ST of an ENABLE whose queue is the function's and disabled. DESIGN CHOICE (log 20): an uncorrectable error in the descriptor's line gives ST 4, as a bad descriptor. -/
def enableSt (s : State) (fn at_ : Nat) (b : List Byte) : Nat :=
  let d := queueDescOf b
  if at_ % 64 != 0 || s.badLine (s.busKey at_) || !queueDescOk b || (d.bucket && fn != physical) || (d.bucket && 64 ≤ bucketQueues s) then 4
  else if (s.ctx d.ctx).state == .free || (s.ctx d.ctx).state == .killed then 4
  else if (s.ctx d.ctx).owner != fn then 5
  else 0

/-- ENABLE (R135, R138). -/
def execEnable (fn queue : Nat) (s : State) : Host.Outcome State Fault Refusal :=
  if !qcmdIs s fn 1 queue then .next s
  else if queueOwner s queue != fn then .next (endQcmd s fn 5)
  else if (s.queue queue).state != .disabled then .next (endQcmd s fn 3)
  else
    let at_ := (s.func fn).qarg.toNat
    let b := hostBytes s at_ 64
    let st := enableSt s fn at_ b
    .next (endQcmd (if st == 0 then moveQueue s queue { state := .idle, desc := queueDescOf b } else s) fn st)

/-- DISABLE (R135): an active packet is finished first. ST is final at once (log 20). -/
def execDisable (fn queue : Nat) (s : State) : Host.Outcome State Fault Refusal :=
  let q := s.queue queue
  if !qcmdIs s fn 2 queue then .next s
  else if queueOwner s queue != fn then .next (endQcmd s fn 5)
  else if q.state == .disabled || q.state == .draining then .next (endQcmd s fn 3)
  else
    let s := s.setQueue queue { q with disabling := true }
    .next (endQcmd (if q.state == .active && !q.packet.isEmpty then s else settleDisable s queue) fn 0)

/-- RESTART (R135, R136). -/
def execRestart (fn queue : Nat) (s : State) : Host.Outcome State Fault Refusal :=
  let q := s.queue queue
  let a := (s.func fn).qarg.toNat
  if !qcmdIs s fn 3 queue then .next s
  else if queueOwner s queue != fn then .next (endQcmd s fn 5)
  else if q.state != .error then .next (endQcmd s fn 3)
  else if a / 2 ^ 17 != 0 || q.desc.size ≤ a % 65536 then .next (endQcmd s fn 4)
  else .next (endQcmd (moveQueue s queue { q with state := .idle, ri := a % 65536, phase := a.testBit 16, error := 0, progError := 0, serial := q.serial + 1 }) fn 0)

/-- DRAIN_COMPLETE (R135). -/
def execDrainComplete (queue : Nat) (s : State) : Host.Outcome State Fault Refusal :=
  let q := s.queue queue
  .next (if q.state == .draining && q.work.isEmpty then moveQueue s queue { q with state := .disabled } else s)

/-- R124: KILL of its context disables a queue, whether or not its status word can be written. -/
def killQueue (s : State) (n : Nat) : State :=
  let q := { s.queue n with state := .disabled, packet := [], run := none, unit := none, hold := false, disabling := false, work := [] }
  let s := moveQueue s n q
  s.setQueue n { s.queue n with state := .disabled }

end Sys2Proof.Machine
end

