-- ==== Sys2Proof/Machine/RunArith.lean ====
section
/-! DEFINITION. Machine/RunArith: tableaux, and the arithmetic of a run over its components: stage inputs, combination, norm, step factor, commit, Newton, dense output (R388 to R422). -/
namespace Sys2Proof.Machine

/-! ### binary32 without flags (R398) -/

def f32 (x : Word) : FVal := binary32.decode x.toNat
def f32Of (r : FRes) : Word := BitVec.ofNat 32 r.1
def fAdd (a b : Word) : Word := f32Of (binary32.add .rn (f32 a) (f32 b))
def fSub (a b : Word) : Word := f32Of (binary32.sub .rn (f32 a) (f32 b))
def fMul (a b : Word) : Word := f32Of (binary32.mul .rn (f32 a) (f32 b))
def fFma (a b c : Word) : Word := f32Of (binary32.fma .rn (f32 a) (f32 b) (f32 c))
def fDiv (a b : Word) : Word := f32Of (binary32.div .rn (f32 a) (f32 b))
def fNan : Word := BitVec.ofNat 32 binary32.nan
def fOne : Word := 0x3f800000
def fInf : Word := BitVec.ofNat 32 binary32.infCode
def fAbs (x : Word) : Word := x &&& 0x7fffffff
def fZero (x : Word) : Bool := fAbs x == 0
def fNanAt (x : Word) : Bool := (f32 x).isNan
def fFinite (x : Word) : Bool := fAbs x < fInf
/-- Comparisons; false when either side is NaN. -/
def fLt (a b : Word) : Bool := !fNanAt a && !fNanAt b && (f32 a).cmp (f32 b) == .lt
def fLe (a b : Word) : Bool := !fNanAt a && !fNanAt b && (f32 a).cmp (f32 b) != .gt
def fEq (a b : Word) : Bool := !fNanAt a && !fNanAt b && (f32 a).cmp (f32 b) == .eq
/-- R398: the larger magnitude, NaN when either is. -/
def fMaxAbs (a b : Word) : Word :=
  if fNanAt a || fNanAt b then fNan else if fAbs a < fAbs b then fAbs b else fAbs a
/-- R401: (a + b) − s, exact in binary32. -/
def fResidue (a b s : Word) : Word := f32Of (binary32.addAll .rn false false [f32 a, f32 b, (f32 s).negate])

/-! ### The tableau (R388 to R390) -/

def tabHead (w : List Word) : Nat := (w.getD 0 0).toNat
def tabS (w : List Word) : Nat := bits (tabHead w) 3 0
def tabKind (w : List Word) : Nat := bits (tabHead w) 5 4
def tabAdapt (w : List Word) : Bool := (tabHead w).testBit 8
def tabDeg (w : List Word) : Nat := bits (tabHead w) 11 9
def tabQ (w : List Word) : Nat := bits (tabHead w) 15 12
def tabQh (w : List Word) : Nat := bits (tabHead w) 19 16
def tabNmax (w : List Word) : Nat := if bits (tabHead w) 23 20 == 0 then 4 else bits (tabHead w) 23 20
def tabM (w : List Word) : Nat := if tabKind w == 2 then 2 else 1
def tabFac (w : List Word) : Word := w.getD 1 0
def tabFacMin (w : List Word) : Word := w.getD 2 0
def tabFacMax (w : List Word) : Word := w.getD 3 0
def tabKappa (w : List Word) : Word := if fZero (w.getD 4 0) then 0x3cf5c28f else w.getD 4 0
def tabFacFail (w : List Word) : Word := if fZero (w.getD 5 0) then 0x3e800000 else w.getD 5 0

/-- R389: where the parts of the body begin. -/
def tabA0 (w : List Word) : Nat := 8 + tabS w
def tabB0 (w : List Word) : Nat := tabA0 w + tabM w * tabS w * tabS w
def tabBh0 (w : List Word) : Nat := tabB0 w + tabM w * tabS w
def tabD0 (w : List Word) : Nat := tabBh0 w + tabM w * tabS w

/-- R389: elements, with the part p and the stages counted from 0. -/
def tabC (w : List Word) (i : Nat) : Word := w.getD (8 + i) 0
def tabA (w : List Word) (p i j : Nat) : Word := w.getD (tabA0 w + (p * tabS w + i) * tabS w + j) 0
def tabB (w : List Word) (p i : Nat) : Word := w.getD (tabB0 w + p * tabS w + i) 0
def tabBh (w : List Word) (p i : Nat) : Word := w.getD (tabBh0 w + p * tabS w + i) 0
def tabDense (w : List Word) (p i k : Nat) : Word := w.getD (tabD0 w + (p * tabS w + i) * tabDeg w + (k - 1)) 0

/-- R389: the words that a header implies; those of the header alone where it implies no body. -/
def tabLen (w : List Word) : Nat :=
  let s := tabS w
  if s == 0 || 12 < s || 4 < tabDeg w || tabKind w == 3 then 8
  else 8 + s + tabM w * (s * s + 2 * s + s * tabDeg w)

/-- R390, check 4: matrix p is zero from column i + lo on. -/
def lowerOk (w : List Word) (p lo : Nat) : Bool :=
  (List.range (tabS w)).all (fun i => (List.range (tabS w)).all (fun j => j < i + lo || fZero (tabA w p i j)))

/-- R390, check 5. -/
def factorsOk (w : List Word) : Bool :=
  fLt 0 (w.getD 1 0) && fLe (w.getD 1 0) fOne && fLt 0 (w.getD 2 0) && fLe (w.getD 2 0) fOne && fLe fOne (w.getD 3 0) &&
    fLe 0 (w.getD 4 0) && fLe 0 (w.getD 5 0) && fLt (w.getD 5 0) fOne

/-- R390: the code of the first check that a tableau record fails. -/
def tabCode (w : List Word) : Nat :=
  let h := tabHead w
  if bits h 31 24 != 0 || bits h 7 6 != 0 || tabKind w == 3 || w.getD 6 0 != 0 || w.getD 7 0 != 0 then 1
  else if tabS w == 0 || 12 < tabS w || 4 < tabDeg w then 2
  else if tabQ w == 0 || tabQ w ≤ tabQh w then 3
  else if !(match tabKind w with
    | 0 => lowerOk w 0 0
    | 1 => lowerOk w 0 1
    | _ => lowerOk w 0 0 && lowerOk w 1 1) then 4
  else if !factorsOk w then 5
  else if !((w.drop 1).take (tabLen w - 1)).all fFinite then 6
  else 0

/-- R390: stage i, from 1, is implicit. -/
def tabImplicit (w : List Word) (i : Nat) : Bool := tabKind w != 0 && !fZero (tabA w (tabM w - 1) (i - 1) (i - 1))

/-- The tableau has an implicit stage. -/
def anyImplicit (w : List Word) : Bool := (List.range (tabS w)).any (fun i => tabImplicit w (i + 1))

/-! ### The components (R393, R403) -/

/-- A sequencer's accesses, one after the other: after the first that faults none is made. -/
structure Accesses where
  s : State
  bad : Bool := false
  deriving DecidableEq, Repr

/-- The identifier of a number as the run copied it. -/
def Run.id (r : Run) (n : Nat) : List Dword := (lookup r.ids n).getD []

/-- R393: the run's number of components. -/
def Run.n (r : Run) : Nat :=
  let t := r.id r.rec_.yid
  tidExtent t 0 * tidExtent t 1 * tidExtent t 2 * tidExtent t 3

/-- R393: the address of component j of an identifier. -/
def runAddr (t : List Dword) (j : Nat) : Nat :=
  let e0 := tidExtent t 0
  let e1 := tidExtent t 1
  let e2 := tidExtent t 2
  tidElem t (j % e0) (j / e0 % e1) (j / (e0 * e1) % e2) (j / (e0 * e1 * e2))

/-- The byte of the opening team's cistern window at an offset. -/
def runKey (s : State) (r : Run) (off : Nat) : Option Nat :=
  match r.team.bind (lookup s.teams) with
  | none => none
  | some t => (lookup s.launches t.launch).bind (fun l => windowKey r.core t l off)

/-- An access faulted: nothing is made of it (R403). -/
def Accesses.fault (x : Accesses) (c : Nat) (f : DevFault) : Accesses := { s := logDevFault x.s c f, bad := true }

/-- Reads component j of an identifier. -/
def runRead (r : Run) (id j : Nat) (x : Accesses) : Word × Accesses :=
  let a := runAddr (r.id id) j
  if x.bad then (0, x)
  else if a / 2 ^ 57 == 0x7e then
    match runKey x.s r (a % 2 ^ 57) with
    | none => (0, { x with bad := true })
    | some k => if x.s.badLine k then (0, x.fault r.ctx (.memory a k)) else (BitVec.ofNat 32 (Memory.value x.s.mem k 4), x)
  else match x.s.readVA r.ctx a 4 with
    | .error f => (0, x.fault r.ctx f)
    | .ok (b, s) => (BitVec.ofNat 32 (leNat b), { x with s })

/-- Writes component j of an identifier. -/
def runWrite (r : Run) (id j : Nat) (v : Word) (x : Accesses) : Accesses :=
  let a := runAddr (r.id id) j
  if x.bad then x
  else if a / 2 ^ 57 == 0x7e then
    match runKey x.s r (a % 2 ^ 57) with
    | none => { x with bad := true }
    | some k => { x with s := x.s.poke k (leBytes 4 v.toNat) }
  else match x.s.writeVA r.ctx a (leBytes 4 v.toNat) with
    | .error f => x.fault r.ctx f
    | .ok s => { x with s }

/-- Does something for every component, ascending. -/
def eachComponent (r : Run) (f : Nat → Accesses → Accesses) (x : Accesses) : Accesses :=
  (List.range r.n).foldl (fun x j => f j x) x

/-- Forms a value for every component, ascending. -/
def mapComponents (r : Run) (f : Nat → Accesses → Word × Accesses) (x : Accesses) : List Word × Accesses :=
  (List.range r.n).foldl (fun (l, x) j => let (v, x) := f j x; (l ++ [v], x)) ([], x)

/-- R412: the work identifier. -/
def Run.wid (r : Run) : Nat := r.rec_.kid + tabM r.tab * tabS r.tab

/-- R413: the identifier of stage i, from 1, of part p. -/
def Run.kOf (r : Run) (p i : Nat) : Nat := r.rec_.kid + p * tabS r.tab + i - 1

/-- A sum of products in one accumulator, in the order of the terms: weights with stage identifiers. -/
def stageSum (r : Run) (terms : List (Word × Nat)) (j : Nat) (x : Accesses) : Word × Accesses :=
  terms.foldl (fun (acc, x) (w, id) => let (k, x) := runRead r id j x; (fFma w k acc, x)) (0, x)

/-- Terms over both parts, each stage ascending (R396, R413). -/
def partTerms (r : Run) (n : Nat) (weight : Nat → Nat → Word) : List (Word × Nat) :=
  (List.range (tabM r.tab)).flatMap (fun p => (List.range n).map (fun l => (weight p l, r.kOf p (l + 1))))

/-- R396, R413: the input of stage i in component j. -/
def stageBase (r : Run) (i j : Nat) (x : Accesses) : Word × Accesses :=
  let (acc, x) := stageSum r (partTerms r (i - 1) (fun p l => tabA r.tab p (i - 1) l)) j x
  let (y, x) := runRead r r.rec_.yid j x
  let (yc, x) := runRead r r.rec_.ycid j x
  (fAdd y (fAdd yc (fMul r.step acc)), x)

/-- R396: the time of stage i. -/
def stageTime (r : Run) (i : Nat) : Word := fAdd r.rec_.t (fAdd r.rec_.tc (fMul (tabC r.tab (i - 1)) r.step))

/-- R396: forms Y_i in YSID. -/
def formStage (r : Run) (i : Nat) (x : Accesses) : Accesses :=
  eachComponent r (fun j x => let (v, x) := stageBase r i j x; runWrite r r.rec_.ysid j v x) x

/-! ### Combination and error (R398, R399) -/

/-- atol and rtol of component j. -/
def tolerances (r : Run) (j : Nat) (x : Accesses) : Word × Word × Accesses :=
  let (a, x) := if r.rec_.mode.testBit 0 then runRead r r.rec_.atid j x else (r.rec_.atol, x)
  let (b, x) := if r.rec_.mode.testBit 1 then runRead r r.rec_.rtid j x else (r.rec_.rtol, x)
  (a, b, x)

/-- R398: the weighted component of an error. -/
def weighted (at_ rt y z e : Word) : Word :=
  let w := fAdd at_ (fMul rt (fMaxAbs y z))
  if fZero w then (if fZero e then 0 else fInf) else fDiv e w

/-- R398: the norm of the weighted components. -/
def norm (q : List Word) : Word :=
  let sq := q.foldl (fun acc v => fFma v v acc) 0
  f32Of (binary32.sqrt .rn (f32 (f32Of (binary32.div .rn (f32 sq) (.fin false q.length 0)))))

/-- R398: increment, error and candidate of component j; the candidate goes to YSID. -/
def combineComponent (r : Run) (j : Nat) (x : Accesses) : Word × Accesses :=
  let s := tabS r.tab
  let (acc, x) := stageSum r (partTerms r s (tabB r.tab)) j x
  let (eacc, x) := stageSum r (partTerms r s (fun p i => fSub (tabB r.tab p i) (tabBh r.tab p i))) j x
  let (y, x) := runRead r r.rec_.yid j x
  let (yc, x) := runRead r r.rec_.ycid j x
  let yn := fAdd y (fAdd (fMul r.step acc) yc)
  let x := runWrite r r.rec_.ysid j yn x
  if tabAdapt r.tab then
    let (a, b, x) := tolerances r j x
    (weighted a b y yn (fMul r.step eacc), x)
  else (0, x)

/-- R399: round(FAC × err^(−1/k)) for err = m × 2^e: the power and the product exact, one rounding. -/
def stepPower (fac : Word) (m : Nat) (e : Int) (k : Nat) : Word :=
  match f32 fac with
  | .fin _ fm fe =>
    let w : Nat := 400
    let up : Int := k * fe - e + (k * w : Nat)
    let n := fm ^ k * pow2 up
    let q := iroot k (n / m)
    f32Of (binary32.round .rn false q (-(w : Int)) (q ^ k * m != n))
  | _ => fac

/-- R399: the smaller and the larger of two factors. -/
def fMinOf (a b : Word) : Word := if fLe a b then a else b
def fMaxOf (a b : Word) : Word := if fLe a b then b else a

/-- R399: the step factor. -/
def stepFactor (w : List Word) (rej : Bool) (err : Word) : Word :=
  let fmax := if rej then fOne else tabFacMax w
  match f32 err with
  | .fin _ m e => if m == 0 then fmax else fMinOf fmax (fMaxOf (tabFacMin w) (stepPower (tabFac w) m e (tabQh w + 1)))
  | _ => tabFacMin w

/-- R400: begins a step: h from H, clipped where it would pass TEND. -/
def beginStep (r : Run) : Run :=
  let c := r.rec_
  let rem := fSub c.tend c.t
  let clip := fLe (fAbs rem) (fAbs c.h)
  { r with step := if clip then rem else c.h, rec_ := { c with clip, state := .forming, stage := 1 }, flight := none, landed := none }

/-- R401: the commit of component j. -/
def commitComponent (r : Run) (j : Nat) (x : Accesses) : Accesses :=
  let (acc, x) := stageSum r (partTerms r (tabS r.tab) (tabB r.tab)) j x
  let (y, x) := runRead r r.rec_.yid j x
  let (yc, x) := runRead r r.rec_.ycid j x
  let (yn, x) := runRead r r.rec_.ysid j x
  let u := fAdd (fMul r.step acc) yc
  let x := runWrite r r.rec_.ysid j y x
  let x := runWrite r r.rec_.ycid j (fResidue y u yn) x
  runWrite r r.rec_.yid j yn x

/-- R399, R401: the record after an accepted step with error `err`. -/
def acceptRec (r : Run) (err : Word) : RunRec :=
  let c := r.rec_
  let v := fAdd r.step c.tc
  let t := fAdd c.t v
  let h := if tabAdapt r.tab then fMul r.step (stepFactor r.tab c.rej err) else r.step
  { c with
    state := .accepted, nacc := c.nacc + 1, err := if tabAdapt r.tab then err else 0, h, rej := false, dense := true
    tn := c.t, hn := r.step, theta := fOne
    t := if c.clip then c.tend else t, tc := if c.clip then 0 else fResidue c.t v t }

/-- R399: the run after a step that its error rejects. -/
def rejectRun (r : Run) (err : Word) : Run :=
  let c := r.rec_
  let h := fMul r.step (stepFactor r.tab c.rej err)
  { r with step := h, rec_ := { c with state := .rejected, stage := 0, nrej := c.nrej + 1, err, h, rej := true } }

/-! ### Newton (R414) -/

/-- The stage identifier that F uses. -/
def Run.kNewton (r : Run) (i : Nat) : Nat := r.kOf (tabM r.tab - 1) i

/-- R414: γ of stage i. -/
def newtonGamma (r : Run) (i : Nat) : Word := fMul r.step (tabA r.tab (tabM r.tab - 1) (i - 1) (i - 1))

/-- R414: F in WID. -/
def newtonResidual (r : Run) (i : Nat) (x : Accesses) : Accesses :=
  eachComponent r (fun j x =>
    let (z, x) := runRead r r.rec_.ysid j x
    let (base, x) := stageBase r i j x
    let (k, x) := runRead r (r.kNewton i) j x
    runWrite r r.wid j (fSub (fSub z base) (fMul r.gamma k)) x) x

/-- R414: applies the correction, and the weighted corrections. -/
def newtonUpdate (r : Run) (x : Accesses) : List Word × Accesses :=
  mapComponents r (fun j x =>
    let (dz, x) := runRead r r.wid j x
    let (z, x) := runRead r r.rec_.ysid j x
    let z := fAdd z dz
    let x := runWrite r r.rec_.ysid j z x
    let (y, x) := runRead r r.rec_.yid j x
    let (a, b, x) := tolerances r j x
    (weighted a b y z dz, x)) x

/-- R394, R414: the run after a stage whose iteration failed; the retry takes h from H. -/
def newtonFailed (r : Run) : Run :=
  let h := fMul r.step (tabFacFail r.tab)
  { r with step := h, rec_ := { r.rec_ with state := .rejected, stage := 0, nnfail := r.rec_.nnfail + 1, h, rej := true } }

/-! ### Dense output and events (R408, R417 to R422) -/

/-- R408: b_i(θ) of part p, stage i from 0. -/
def denseWeight (w : List Word) (th : Word) (p i : Nat) : Word :=
  let deg := tabDeg w
  let top := tabDense w p i deg
  fMul ((List.range (deg - 1)).foldl (fun acc k => fFma acc th (tabDense w p i (deg - 1 - k))) top) th

/-- R408: the dense value of component j at θ. -/
def denseValue (r : Run) (th : Word) (j : Nat) (x : Accesses) : Word × Accesses :=
  let (acc, x) := stageSum r (partTerms r (tabS r.tab) (denseWeight r.tab th)) j x
  let (y, x) := runRead r r.rec_.ysid j x
  (fAdd y (fMul r.rec_.hn acc), x)

/-- R419: the state of an evaluation in WID: y, or the dense state at θ. -/
def eventState (r : Run) (th : Option Word) (x : Accesses) : Accesses :=
  eachComponent r (fun j x =>
    let (v, x) := match th with
      | none => runRead r r.rec_.yid j x
      | some th => denseValue r th j x
    runWrite r r.wid j v x) x

/-- R420: the functions that fire from one set of values to another. -/
def fires (r : Run) (a b : List Word) : List Nat :=
  (List.range 16).filter (fun m =>
    let x := a.getD m 0
    let y := b.getD m 0
    (r.down.testBit m && fLt 0 x && fLe y 0) || (r.up.testBit m && fLt x 0 && fLe 0 y))

/-- R421: the next trial, or none when the search ends. -/
def nextTrial (r : Run) (l : Locate) : Option Locate :=
  match fires r l.glo l.ghi with
  | [] => none
  | m :: _ =>
    if l.it == 16 then none
    else
      let f := l.fl.getD m 0
      let g := l.fh.getD m 0
      let th := fAdd l.lo (fMul (fSub l.hi l.lo) (fDiv f (fSub f g)))
      let th := if fNanAt th || fLe th l.lo || fLe l.hi th then fDiv (fAdd l.lo l.hi) 0x40000000 else th
      some { l with m, th, it := l.it + 1 }

/-- R421: a trial's values move one end of the interval. -/
def moveEnd (r : Run) (l : Locate) (gt : List Word) : Locate :=
  let half := fun (f : List Word) => f.set l.m (fDiv (f.getD l.m 0) 0x40000000)
  if (fires r l.glo gt).isEmpty then
    { l with lo := l.th, glo := gt, fl := gt, fh := if l.kept == .hi then half l.fh else l.fh, kept := .hi }
  else
    { l with hi := l.th, ghi := gt, fh := gt, fl := if l.kept == .lo then half l.fl else l.fl, kept := .lo }

/-- R421: the search ends after this trial. -/
def trialEnds (l : Locate) (gt : List Word) : Bool := fZero (gt.getD l.m 0) || fLe (fSub l.hi l.lo) 0x35800000

/-- R422: the committed state cut back to θ. -/
def truncateState (r : Run) (th : Word) (x : Accesses) : Accesses :=
  eachComponent r (fun j x =>
    let (v, x) := denseValue r th j x
    runWrite r r.rec_.ycid j 0 (runWrite r r.rec_.yid j v x)) x

/-- R421, R422: the run at rest at a located event. -/
def truncateRun (r : Run) (l : Locate) : Run :=
  let c := r.rec_
  let first := fires r r.gp l.ghi
  let em := if first.isEmpty then fires r r.gp l.g1 else first
  { r with
    gp := (List.range 16).map (fun m => if em.contains m then 0 else l.ghi.getD m 0)
    locate := none
    rec_ := { c with
      t := fAdd c.tn (fMul l.hi c.hn), tc := 0, theta := l.hi, dense := true, clip := false
      emask := em.foldl (fun k m => k + 2 ^ m) 0, nevent := c.nevent + 1 } }

end Sys2Proof.Machine
end

