-- ==== Sys2Proof/Machine/RunSeq.lean ====
section
/-! DEFINITION. Machine/RunSeq: run slots, the states of a run, its launches, rest and write-back, and the instructions of major 0x70 (R387 to R424). -/
namespace Sys2Proof.Machine

/-! ### The record (R391, R392) -/

/-- R394: the state codes. -/
def RunPhase.code : RunPhase → Nat
  | .opened => 0
  | .launched => 1
  | .forming => 2
  | .combining => 3
  | .solving => 4
  | .estimating => 5
  | .accepted => 6
  | .rejected => 7
  | .event => 8
  | .done => 9
  | .suspended => 10
  | .failed => 11

/-- R391: the record's 256 bytes as the slot holds them. -/
def RunRec.bytes (c : RunRec) : List Byte :=
  record 256 [(1, c.tab), (1, c.yid), (1, c.ycid), (1, c.ysid), (1, c.kid), (1, c.atid), (1, c.rtid), (1, c.mode), (4, c.t.toNat), (4, c.tc.toNat),
    (4, c.h.toNat), (4, c.tend.toNat), (4, c.atol.toNat), (4, c.rtol.toNat), (8, c.rhs), (8, c.solve), (8, c.event), (4, c.maxSteps), (4, 0),
    (8, c.nacc), (8, c.nrej), (8, c.nrhs), (8, c.nsolve), (8, c.nnfail), (8, c.nevent), (16, 0), (1, c.state.code), (1, c.stage), (2, c.cause),
    (2, c.emask), (1, c.newt), (1, (if c.rej then 1 else 0) + (if c.clip then 2 else 0) + (if c.dense then 4 else 0)), (4, c.err.toNat),
    (4, c.tn.toNat), (4, c.hn.toNat), (4, c.theta.toNat), (8, 0), (8, c.handle)]

/-- R391: the fields that software writes. -/
def runRecOf (b : List Byte) : RunRec :=
  let n := fun (o k : Nat) => field b o k
  let w := fun (o : Nat) => BitVec.ofNat 32 (field b o 4)
  { tab := n 0 1, yid := n 1 1, ycid := n 2 1, ysid := n 3 1, kid := n 4 1, atid := n 5 1, rtid := n 6 1, mode := n 7 1, t := w 8, tc := w 12
    h := w 16, tend := w 20, atol := w 24, rtol := w 28, rhs := n 32 8, solve := n 40 8, event := n 48 8, maxSteps := n 56 4 }

def State.setRun (s : State) (id : Nat) (r : Run) : State := { s with runs := insert s.runs id r }

/-- R392: writes bytes 8 to 23 and 64 to 255 back. -/
def writeBack (s : State) (r : Run) : Except DevFault State :=
  let b := r.rec_.bytes
  let head := (b.drop 8).take 16
  let tail := b.drop 64
  match r.atKey with
  | some k => .ok ((s.poke (k + 8) head).poke (k + 64) tail)
  | none =>
    match s.writeVA r.ctx (r.at_ + 8) head with
    | .error f => .error f
    | .ok s => s.writeVA r.ctx (r.at_ + 64) tail

/-! ### Coming to rest (R392, R394, R395, R411) -/

/-- R145, R411: the completion record of the RUN packet that opened a run. -/
def endPacket (s : State) (id : Nat) (r : Run) (status : Nat) : State × Run :=
  match r.packet with
  | none => (s, r)
  | some p => (endWork (complete s r.ctx p.queue p.tag p.completion p.irq status) p.queue (.run id), { r with packet := none })

/-- R145: the STATUS a run gives its packet. -/
def runStatus (c : RunRec) : Nat :=
  if c.state == .event then 3 else if c.state == .failed && (c.cause == 7 || c.cause == 8) then 1 else 0

/-- The byte of a component of an identifier, where it lies in this device's or the host's memory. -/
def runByte (s : State) (r : Run) (a : Nat) : Option Nat :=
  if a / 2 ^ 57 == 0x7e then runKey s r (a % 2 ^ 57)
  else match translate s r.ctx a .write with
    | .to w _ => (match leafLoc w a with
      | .here k => some k
      | .peer _ _ => none)
    | _ => none

/-- R412: at rest, so from the opening on, the contents of a run's work identifier are undefined: free values (log 58). -/
def loseWork (s : State) (r : Run) : State :=
  if !anyImplicit r.tab && r.rec_.event == 0 then s
  else (List.range r.n).foldl (fun s j => match runByte s r (runAddr (r.id r.wid) j) with
    | some k => let (b, s) := freeBytes s 4; s.poke k b
    | none => s) s

/-- A run comes to rest: its work identifier is lost, write-back, for a run of a packet its end, then the completion record. A write-back that faults is an access of the sequencer (R403). -/
def restRun (s : State) (id : Nat) (r : Run) (phase : RunPhase) (cause : Nat) : State :=
  let r := { r with rest := true, flight := none, landed := none, locate := none, rec_ := { r.rec_ with state := phase, stage := 0, cause } }
  let s := loseWork s r
  let (s, r) := match writeBack s r with
    | .ok s => (s, r)
    | .error f => (logDevFault s r.ctx f, { r with rec_ := { r.rec_ with state := .failed, cause := 8 } })
  let ends := r.rec_.state == .done || r.rec_.state == .failed
  let (s, r) := if ends || r.rec_.state == .event then endPacket s id r (runStatus r.rec_) else (s, r)
  if r.auto && ends then { s with runs := erase s.runs id } else s.setRun id r

def failRun (s : State) (id : Nat) (r : Run) (cause : Nat) : State := restRun s id r .failed cause

/-- R124, R394: KILL closes a context's runs without write-back. -/
def killRuns (s : State) (c : Nat) : State :=
  (s.runs.filter (fun x => x.2.ctx == c)).foldl (fun s x =>
    let (s, _) := endPacket s x.1 x.2 2
    { s with runs := erase s.runs x.1 }) s

/-- The run holds an identifier in its opening team's cistern. -/
def Run.inCistern (r : Run) : Bool := r.ids.any (fun x => tidBase x.2 / 2 ^ 57 == 0x7e)

/-- R394, CAUSE 6: a team retires that holds identifiers of runs. -/
def retireTeamRuns (s : State) (team : Nat) : State :=
  (s.runs.filter (fun x => x.2.team == some team && x.2.inCistern && x.2.rec_.state != .done && x.2.rec_.state != .failed)).foldl (fun s x =>
    let r := { x.2 with dead := true }
    if r.rest then failRun s x.1 r 6 else s.setRun x.1 r) s

/-! ### Launches of a run (R397, R410, R416) -/

/-- R167: launches pending in the dispatcher for a context. -/
def launchesOf (s : State) (c : Nat) : Nat := (s.launches.filter (fun x => x.2.ctx == c)).length
def launchLimit : Nat := 256

def allOnes : Dword := BitVec.allOnes 64

/-- R397, R416: enters a launch of a run, which counts in its record as `count` says; a refused one ends the run. -/
def runLaunch (s : State) (id : Nat) (r : Run) (which : RunLaunch) (addr : Nat) (values : List Dword) (count : RunRec → RunRec := fun c => c) : State :=
  if launchLimit ≤ launchesOf s r.ctx then failRun s id r 7
  else match enterLaunch s r.ctx addr (0, 0, 0) none (.sequencer id) (some { run := id, values }) with
    | .ok _ s => s.setRun id { r with flight := some which, landed := none, rec_ := count r.rec_ }
    | .bad s => failRun s id r 7
    | .fault f => failRun (logDevFault s r.ctx f) id r 7

/-- A number as `ivarg` returns it. -/
def argOf (x : Nat) : Dword := BitVec.ofNat 64 x

/-- R410, R416: the values of a stage's launches: kind, then WID, γ and the iteration for a solve. -/
def stageValues (r : Run) (kind i : Nat) (more : List Dword) : List Dword :=
  [argOf kind, argOf i, argOf r.ti.toNat, argOf r.step.toNat, argOf r.rec_.handle, argOf r.rec_.ysid, argOf (r.kOf 0 i),
    if tabKind r.tab == 2 then argOf (r.kOf 1 i) else allOnes] ++ more

def rhsLaunch (s : State) (id : Nat) (r : Run) (i : Nat) : State :=
  runLaunch s id r .rhs r.rec_.rhs (stageValues r 0 i [allOnes, allOnes, allOnes])

/-- R414: NSOLVE counts the solve launch as it begins. -/
def solveLaunch (s : State) (id : Nat) (r : Run) (i : Nat) : State :=
  runLaunch s id r .solve r.rec_.solve (stageValues r 1 i [argOf r.wid, argOf r.gamma.toNat, argOf r.rec_.newt]) (fun c => { c with nsolve := c.nsolve + 1 })

/-- R416, R418, R419: fills the event block with NaN and enters an event launch. -/
def eventLaunch (s : State) (id : Nat) (r : Run) (e : Evaluation) (th h time : Word) (number : Nat) : State :=
  match s.writeVA r.ctx r.eblk ((List.range 16).flatMap (fun _ => leBytes 4 fNan.toNat)) with
  | .error f => failRun (logDevFault s r.ctx f) id r 8
  | .ok s =>
    runLaunch s id { r with etime := time } (.event e) r.rec_.event
      [argOf 2, 0, argOf time.toNat, argOf h.toNat, argOf r.rec_.handle, argOf r.rec_.ysid, allOnes, allOnes, argOf r.wid, argOf th.toNat, argOf number]

/-- Makes accesses of the sequencer and goes on when none faulted (R403). -/
def withAccesses (s : State) (id : Nat) (r : Run) (f : Accesses → Accesses) (go : State → State) : State :=
  let x := f { s }
  if x.bad then failRun x.s id r 8 else go x.s

/-! ### The states (R394) -/

/-- R394: MAXSTEPS is reached. -/
def Run.maxed (r : Run) : Bool := r.rec_.maxSteps != 0 && r.rec_.maxSteps ≤ r.rec_.nacc + r.rec_.nrej

/-- R394, R400: the next step begins. -/
def nextStep (s : State) (id : Nat) (r : Run) : State := s.setRun id (beginStep r)

/-- R394: what follows a rejection. -/
def afterReject (s : State) (id : Nat) (r : Run) : State :=
  if !fFinite r.step || fEq (fAdd r.rec_.t r.step) r.rec_.t then failRun s id r 5
  else if r.maxed then failRun s id r 4
  else nextStep s id r

/-- R395: the checks after the event's. -/
def afterAccept (s : State) (id : Nat) (r : Run) : State :=
  if r.rec_.clip then restRun s id r .done 1
  else if r.maxed then failRun s id r 4
  else if r.budget != 0 && r.budget ≤ r.steps then restRun s id r .accepted 3
  else nextStep s id r

/-- R394: after stage i, the next is formed, or the step combined. -/
def afterStage (s : State) (id : Nat) (r : Run) (i : Nat) : State :=
  s.setRun id { r with
    flight := none, landed := none
    rec_ := if i < tabS r.tab then { r.rec_ with state := .forming, stage := i + 1 } else { r.rec_ with state := .combining } }

/-- R419: the opening and the step-end evaluation, over y. -/
def evaluateY (s : State) (id : Nat) (r : Run) (e : Evaluation) (th h : Word) : State :=
  withAccesses s id r (eventState r none) (fun s => eventLaunch s id r e th h r.rec_.t 0)

/-- R407: starts a run that is at rest. -/
def startRun (s : State) (id : Nat) (r : Run) (n : Nat) : State :=
  let opening := r.rec_.state == .opened && r.rec_.event != 0
  let r := { r with rest := false, budget := n, steps := 0, rec_ := { r.rec_ with dense := false } }
  if fEq r.rec_.t r.rec_.tend then restRun s id r .done 1
  else if opening then evaluateY s id { r with rec_ := { r.rec_ with state := .forming, stage := 1 } } .opening 0 r.rec_.h
  else nextStep s id r

/-- A run of a context that is ACTIVE, not at rest. -/
def busyRun (s : State) (id : Nat) : Option Run :=
  (lookup s.runs id).filter (fun r => !r.rest && (s.ctx r.ctx).state == .active)

/-- STAGE_FORMED (R394, R396, R413). -/
def execStageFormed (run : Nat) (s : State) : Host.Outcome State Fault Refusal :=
  match busyRun s run with
  | none => .next s
  | some r =>
    if r.rec_.state != .forming || r.flight.isSome then .next s
    else if r.dead then .next (failRun s run r 6)
    else
      let i := r.rec_.stage
      let r := { r with ti := stageTime r i }
      .next (withAccesses s run r (formStage r i) (fun s =>
        if tabImplicit r.tab i then
          rhsLaunch s run { r with gamma := newtonGamma r i, rec_ := { r.rec_ with state := .solving, newt := 1 } } i
        else rhsLaunch s run { r with rec_ := { r.rec_ with state := .launched } } i))

/-- A launch of the run has completed: R394's failures first. -/
def landing (s : State) (id : Nat) (which : RunLaunch → Bool) (go : Run → RunLaunch → State) : State :=
  match busyRun s id with
  | none => s
  | some r =>
    match r.flight, r.landed with
    | some w, some faulted =>
      if !which w then s
      else if r.dead then failRun s id r 6
      else if faulted then failRun s id r 7
      else go { r with flight := none, landed := none } w
    | _, _ => s

/-- STAGE_LAUNCH_DONE (R394, R397, R414). -/
def execStageLaunchDone (run : Nat) (s : State) : Host.Outcome State Fault Refusal :=
  .next (landing s run (· == .rhs) (fun r _ =>
    let i := r.rec_.stage
    let r := { r with rec_ := { r.rec_ with nrhs := r.rec_.nrhs + 1 } }
    if r.rec_.state == .solving then withAccesses s run r (newtonResidual r i) (fun s => solveLaunch s run r i)
    else afterStage s run r i))

/-- SOLVE_LAUNCH_DONE (R414). -/
def execSolveLaunchDone (run : Nat) (s : State) : Host.Outcome State Fault Refusal :=
  .next (landing s run (· == .solve) (fun r _ =>
    let i := r.rec_.stage
    let (q, x) := newtonUpdate r { s }
    if x.bad then failRun x.s run r 8
    else
      let nrm := norm q
      if fLe nrm (tabKappa r.tab) then afterStage x.s run r i
      else if !fFinite nrm || tabNmax r.tab ≤ r.rec_.newt then afterReject x.s run (newtonFailed r)
      else rhsLaunch x.s run { r with rec_ := { r.rec_ with newt := r.rec_.newt + 1 } } i))

/-- ESTIMATE_FORMED (R398, R399, R401). -/
def execEstimateFormed (run : Nat) (s : State) : Host.Outcome State Fault Refusal :=
  match busyRun s run with
  | none => .next s
  | some r =>
    if r.rec_.state != .combining then .next s
    else if r.dead then .next (failRun s run r 6)
    else
      let (q, x) := mapComponents r (combineComponent r) { s }
      if x.bad then .next (failRun x.s run r 8)
      else
        let err := if tabAdapt r.tab then norm q else 0
        if tabAdapt r.tab && !fLe err fOne then .next (afterReject x.s run (rejectRun r err))
        else .next (withAccesses x.s run r (eachComponent r (commitComponent r)) (fun s =>
          let r := { r with rec_ := acceptRec r err, steps := r.steps + 1 }
          if r.rec_.event != 0 then evaluateY s run r .stepEnd fOne r.rec_.hn else afterAccept s run r))

/-- R421, R422: the next trial, or the end of the search. -/
def goOnLocating (s : State) (id : Nat) (r : Run) (l : Locate) (ended : Bool) : State :=
  match (if ended then none else nextTrial r l) with
  | none =>
    withAccesses s id r (truncateState r l.hi) (fun s => restRun s id (truncateRun r l) .event 2)
  | some l =>
    let time := fAdd r.rec_.tn (fMul l.th r.rec_.hn)
    let r := { r with locate := some l }
    withAccesses s id r (eventState r (some l.th)) (fun s => eventLaunch s id r .trial l.th r.rec_.hn time l.it)

/-- R419 to R422: what the values of an evaluation lead to. -/
def evaluated (s : State) (id : Nat) (r : Run) (e : Evaluation) (g : List Word) : State :=
  match e with
  | .opening => nextStep s id { r with gp := g }
  | .stepEnd =>
    if (fires r r.gp g).isEmpty then afterAccept s id { r with gp := g }
    else goOnLocating s id r { lo := 0, glo := r.gp, fl := r.gp, hi := fOne, ghi := g, fh := g, g1 := g } false
  | .trial =>
    match r.locate with
    | none => s
    | some l => goOnLocating s id r (moveEnd r l g) (trialEnds (moveEnd r l g) g)

/-- EVENT_LAUNCH_DONE (R418 to R422). -/
def execEventLaunchDone (run : Nat) (s : State) : Host.Outcome State Fault Refusal :=
  .next (landing s run (fun w => match w with
    | .event _ => true
    | _ => false) (fun r w =>
    match s.readVA r.ctx r.eblk 64 with
    | .error f => failRun (logDevFault s r.ctx f) run r 8
    | .ok (b, s) =>
      let g := (List.range 16).map (fun m => BitVec.ofNat 32 (field b (4 * m) 4))
      match w with
      | .event e => evaluated s run r e g
      | _ => s))

/-! ### Opening (R393, R406, R412, R418) -/

/-- R406, check 2. -/
def recordOk (b : List Byte) (c : RunRec) : Bool :=
  let up := fLt c.t c.tend
  let down := fLt c.tend c.t
  let tol := fun (x : Word) => fFinite x && fLe 0 x
  field b 60 4 == 0 && c.mode < 4 && (b.drop 64).all (· == 0) && fFinite c.h && !fZero c.h && fFinite c.t && fFinite c.tend &&
    !(up && fLt c.h 0) && !(down && fLt 0 c.h) && (c.mode.testBit 0 || tol c.atol) && (c.mode.testBit 1 || tol c.rtol)

/-- R393, R412: the numbers of the identifiers a run uses. -/
def runIds (w : List Word) (c : RunRec) : List Nat :=
  let ms := tabM w * tabS w
  [c.yid, c.ycid, c.ysid] ++ (List.range ms).map (c.kid + ·) ++ (if c.mode.testBit 0 then [c.atid] else []) ++
    (if c.mode.testBit 1 then [c.rtid] else []) ++ (if anyImplicit w || c.event != 0 then [c.kid + ms] else [])

/-- R393: an identifier a run may use. -/
def runIdOk (s : State) (ctx : Nat) (hasTeam : Bool) (y : List Dword) (n : Nat) : Bool :=
  let t := s.tid ctx n
  let tag := tidBase t / 2 ^ 57
  n < 256 && tidCode t false == 0 && tidFmt t == 0 && (tag == 0 || (tag == 0x7e && hasTeam)) &&
    (List.range 4).all (fun k => tidExtent t k == tidExtent y k)

/-- R406, check 3: every element of a tolerance identifier is finite and not negative. -/
def toleranceOk (r : Run) (id : Nat) (x : Accesses) : Bool × Accesses :=
  (List.range r.n).foldl (fun (ok, x) j => let (v, x) := runRead r id j x; (ok && fFinite v && fLe 0 v, x)) (true, x)

/-- R406, check 3: the tolerance identifiers in use. An element that cannot be read fails the check (log 18). -/
def tolerancesOk (r : Run) (x : Accesses) : Bool × Accesses :=
  let (a, x) := if r.rec_.mode.testBit 0 then toleranceOk r r.rec_.atid x else (true, x)
  let (b, x) := if r.rec_.mode.testBit 1 then toleranceOk r r.rec_.rtid x else (true, x)
  (a && b && !x.bad, x)

/-- R418: the event settings, from the argument block. -/
def eventOk (s : State) (ctx : Nat) (w : List Word) (ev : List Byte × List Byte) : Bool :=
  let w6 := field ev.2 48 8
  let w7 := field ev.2 56 8
  field ev.1 104 8 != 0 && w6 < 2 ^ 32 && w6 != 0 && w7 % 64 == 0 && w7 / 2 ^ 57 == 0 && tabDeg w != 0 &&
    (match translate s ctx w7 .atomic with
     | .to x _ => leafMem x == 0
     | _ => false)

/-- What opening a run comes to: its handle, or the code of the check that failed. -/
inductive Opened where
  | ok (handle : Nat) (s : State)
  | code (n : Nat) (s : State)
  deriving DecidableEq, Repr

/-- R387: the free slots of a die's sequencer, as handles. -/
def freeRuns (s : State) (die : Nat) : List Nat := ((List.range 64).map (64 * die + ·)).filter (fun h => (lookup s.runs h).isNone)

/-- R394, R406: opens a run whose record, and event records, have been read. Which free slot it takes is the device's choice (log 2). -/
def openRun (s : State) (ctx core die : Nat) (team : Option Nat) (tab : Nat) (at_ : Nat) (atKey : Option Nat) (b : List Byte)
    (ev : List Byte × List Byte) (packet : Option RunPacket) : Opened :=
  let c := runRecOf b
  match lookup (s.ctx ctx).tableaux tab with
  | none => .code 1 s
  | some w =>
    let ids := runIds w c
    let y := s.tid ctx c.yid
    let r : Run := { ctx, core, team, at_, atKey, tab := w, rec_ := c, ids := ids.map (fun n => (n, s.tid ctx n)), step := c.h
                     up := field ev.2 50 2, down := field ev.2 48 2, eblk := field ev.2 56 8, auto := packet.isSome, packet }
    if !recordOk b c then .code 2 s
    else if !ids.all (runIdOk s ctx team.isSome y) then .code 3 s
    else
      let (ok, x) := tolerancesOk r { s }
      let s := x.s
      if !ok then .code 3 s
      else if c.rhs == 0 || (anyImplicit w && c.solve == 0) || (c.event != 0 && !eventOk s ctx w ev) then .code 4 s
      else
        let free := freeRuns s die
        if free.isEmpty then .code 5 s
        else
          let (k, s) := s.draw free.length
          let h := free.getD k 0
          let r := { r with rec_ := { c with handle := h } }
          let s := loseWork s r
          match writeBack s r with
          | .ok s => .ok h (s.setRun h r)
          | .error f => .ok h (failRun (logDevFault s r.ctx f) h r 8)

/-! ### Instructions (R404 to R411) -/

/-- A run instruction's result in its scalar. -/
def putScal (s : State) (is : Issue) (o : EOps) (x : Nat) : Verdict :=
  .commit (s.onGroup is.key (fun g => g.writeS (byteScalar o.d) (BitVec.ofNat 64 x))) 0 0

/-- R405: the run a handle names for the issuing group's context. -/
def runOf (s : State) (is : Issue) (handle : Nat) : Option Run := (lookup s.runs handle).filter (fun r => r.ctx == is.g.ctx)

/-- Words of a record. -/
def recordWords (b : List Byte) : List Word := (List.range (b.length / 4)).map (fun k => BitVec.ofNat 32 (field b (4 * k) 4))

/-- `ivtab` (R390, R406). -/
def execIvtab (o : EOps) (s : State) : Host.Outcome State Fault Refusal :=
  execE o (scalCodes o.b 1) (scalCodes o.d 1) (fun is s =>
    let a := (scalAt is o.b 0).toNat
    if a % 64 != 0 then .trap s 5 0 a is.ex
    else match readRange is 1 a 32 s with
      | .stop v => v
      | .got b s _ =>
        match readRange is 64 a (4 * tabLen (recordWords b)) s with
        | .stop v => v
        | .got b s _ =>
          let w := recordWords b
          let code := tabCode w
          let x := s.ctx is.g.ctx
          let s := if code == 0 then s.setCtx is.g.ctx { x with tableaux := insert x.tableaux o.a.toNat w } else s
          putScal s is o code) s

/-- R418: reads the event launch record and its argument block, where the run has events. -/
def readEvent (is : Issue) (a : Nat) (s : State) (go : State → List Byte × List Byte → Verdict) : Verdict :=
  if a == 0 then go s ([], [])
  else match readRange is 4 a 128 s with
    | .stop v => v
    | .got r s _ =>
      if field r 104 8 == 0 then go s (r, [])
      else match readRange is 4 (field r 104 8) 64 s with
        | .stop v => v
        | .got x s _ => go s (r, x)

/-- The byte of a cistern at which a record lies. -/
def placeKey : Place → Option Nat
  | .sram k => some k
  | .page _ _ _ => none

/-- `ivopen` (R392, R406). -/
def execIvopen (o : EOps) (s : State) : Host.Outcome State Fault Refusal :=
  execE o (scalCodes o.b 1) (scalCodes o.d 1) (fun is s =>
    let a := (scalAt is o.b 0).toNat
    if a % 256 != 0 then .trap s 5 0 a is.ex
    else if mustWait s is.key .rel true then .hold s
    else match readRange is 8 a 256 s with
      | .stop v => v
      | .got b s p =>
        readEvent is (field b 48 8) s (fun s ev =>
          match openRun s is.g.ctx is.core (is.core / 40) (some is.g.team) o.a.toNat (cardPlace a p) (placeKey p) b ev none with
          | .ok h s => putScal s is o h
          | .code n s => putScal s is o (n * 256 + 0xff))) s

/-- `ivgo` (R407). -/
def execIvgo (o : EOps) (s : State) : Host.Outcome State Fault Refusal :=
  execE o (scalCodes o.a 1) (scalCodes o.d 1) (fun is s =>
    let h := (scalAt is o.a 0).toNat
    if mustWait s is.key .rel true then .hold s
    else match runOf s is h with
      | none => putScal s is o 2
      | some r =>
        if r.rec_.state == .done || r.rec_.state == .failed then putScal s is o 3
        else if !r.rest then putScal s is o 1
        else putScal (startRun s h r (o.ctl.extractLsb' 0 20).toNat) is o 0) s

/-- R408: one query: its value and status. -/
def denseQuery (s : State) (run : Option Run) (time : Word) (c : Nat) : Word × Nat × State :=
  match run with
  | none => (fNan, 3, s)
  | some r =>
    if tabDeg r.tab == 0 || r.n ≤ c then (fNan, 3, s)
    else if !r.rest || !r.rec_.dense then (fNan, 2, s)
    else
      let th := fDiv (fSub time r.rec_.tn) r.rec_.hn
      if fNanAt th || fLt th 0 || fLt r.rec_.theta th then (fNan, 1, s)
      else
        let (v, x) := denseValue r th c { s }
        if x.bad then (fNan, 3, x.s) else (v, 0, x.s)

/-- The queries of the participants, ascending. -/
def denseQueries (run : Option Run) (time comp : Nat → Nat) : List Nat → State → List (Nat × Word × Nat) × State
  | [], s => ([], s)
  | l :: r, s =>
    let (v, st, s) := denseQuery s run (BitVec.ofNat 32 (time l)) (comp l)
    let (t, s) := denseQueries run time comp r s
    ((l, v, st) :: t, s)

/-- `ivq` (R408). -/
def execIvq (o : EOps) (s : State) : Host.Outcome State Fault Refusal :=
  execE o (scalCodes o.a 1 ++ byteCodes o.b ++ byteCodes o.c) [o.d.toNat, o.d.toNat + 1] (fun is s =>
    let (t, s) := denseQueries (runOf s is (scalAt is o.a 0).toNat) (byteVal is o.b) (byteVal is o.c) (is.gd.lanes is.g.width) s
    let of := fun l => (lookup t l).getD (0, 0)
    .commit (s.onGroup is.key (fun g =>
      let g' := pendV g o.d.toNat o.look.toNat is.gd .g (fun l => (of l).1)
      { pendV g' (o.d.toNat + 1) o.look.toNat is.gd .g (fun l => BitVec.ofNat 32 (of l).2) with nextSeq := g.nextSeq + 1 })) 0 0) s

/-- R409: where `ivstat` k begins in the record. -/
def statOffset (k : Nat) : Nat :=
  match k with
  | 0 => 128
  | 1 => 0
  | 2 => 64
  | _ => 96

/-- `ivstat` (R409). -/
def execIvstat (o : EOps) (s : State) : Host.Outcome State Fault Refusal :=
  execE o (scalCodes o.a 1) (scalCodes o.d 4) (fun is s =>
    let words : List Dword := match runOf s is (scalAt is o.a 0).toNat with
      | none => List.replicate 4 allOnes
      | some r =>
        let b := r.rec_.bytes.drop (statOffset (o.ctl.extractLsb' 0 2).toNat)
        (List.range 4).map (fun k => BitVec.ofNat 64 (field b (8 * k) 8))
    .commit (s.onGroup is.key (fun g => writeScals g (byteScalar o.d) words)) 0 0) s

/-- `ivwait` (R409). -/
def execIvwait (o : EOps) (s : State) : Host.Outcome State Fault Refusal :=
  execE o (scalCodes o.a 1) (scalCodes o.d 1) (fun is s =>
    match runOf s is (scalAt is o.a 0).toNat with
    | none => putScal s is o allOnes.toNat
    | some r => if r.rest then putScal s is o r.rec_.state.code else .hold s) s

/-- `ivarg` (R410, R416). -/
def execIvarg (o : EOps) (s : State) : Host.Outcome State Fault Refusal :=
  execE o [] (scalCodes o.d 1) (fun is s =>
    let x := match is.l.ivarg with
      | none => allOnes
      | some a => a.values.getD (o.ctl.extractLsb' 0 4).toNat allOnes
    putScal s is o x.toNat) s

/-- `ivclose` (R411). -/
def execIvclose (o : EOps) (s : State) : Host.Outcome State Fault Refusal :=
  execE o (scalCodes o.a 1) (scalCodes o.d 1) (fun is s =>
    let h := (scalAt is o.a 0).toNat
    if mustWait s is.key .rel true then .hold s
    else match runOf s is h with
      | none => putScal s is o 2
      | some r =>
        if !r.rest then putScal s is o 1
        else
          let s := match writeBack s r with
            | .ok s => s
            | .error f => logDevFault s r.ctx f
          putScal { s with runs := erase s.runs h } is o 0) s

end Sys2Proof.Machine
end

