-- ==== Sys2Proof/Machine/Packet.lean ====
section
/-! DEFINITION. Machine/Packet: the built-in actions of packets, and a COPY's completion (R142 to R145). -/
namespace Sys2Proof.Machine

/-- What a built-in action comes to: done, an error of R146, a fault of its accesses, or a condition that does not hold. -/
inductive Acted where
  | done (s : State)
  | error (s : State) (code : Nat)
  | fault (f : DevFault)
  | blocked (s : State)
  deriving DecidableEq, Repr

/-- Work a queue's packet has started. -/
def addWork (s : State) (n : Nat) (w : Work) : State :=
  let q := s.queue n
  s.setQueue n { q with work := q.work ++ [(q.serial, w)] }

/-- R140, R143: no work that an earlier packet started is still under way. -/
def fenceOpen (q : Queue) : Bool := q.work.all (fun x => x.1 == q.serial)

/-- R140, R143: FENCE, which a WRITEVAL acts as if it had, holds the packet back. -/
def fenceHolds (q : Queue) : Bool := (q.fence || q.type == 4) && !fenceOpen q

/-! ### The actions (R142, R143) -/

/-- LAUNCH. -/
def actLaunch (s : State) (n : Nat) (q : Queue) : Acted :=
  let done := q.byte 56 8
  if !zeros q.packet 28 56 || q.byte 8 8 % 128 != 0 || done % 8 != 0 then .error s 2
  else match enterLaunch s q.desc.ctx (q.byte 8 8) (q.byte 16 4, q.byte 20 4, q.byte 24 4) none (.packet n q.tag done q.irq) none with
    | .ok id s => .done (addWork s n (.launch id))
    | .bad s => .error s 9
    | .fault f => .fault f

/-- R120, R386: an address a COPY may name: global in replayable mode, a handle that holds the bytes in pinned mode (log 19). -/
def copyPlaceOk (x : Ctx) (a len : Nat) : Bool :=
  if x.replayable then a / 2 ^ 57 == 0 else a / 2 ^ 57 == 0x7c && pinFits x a len

/-- COPY. -/
def actCopy (s : State) (n : Nat) (q : Queue) : Acted :=
  let len := q.byte 24 8
  let done := q.byte 56 8
  let x := s.ctx q.desc.ctx
  if !zeros q.packet 32 56 || len == 0 || 2 ^ 40 < len || done % 8 != 0 || !copyPlaceOk x (q.byte 8 8) len || !copyPlaceOk x (q.byte 16 8) len then .error s 2
  else
    let (id, s) := s.fresh
    let c : CopyJob := { ctx := q.desc.ctx, queue := n, src := q.byte 8 8, dst := q.byte 16 8, len, tag := q.tag, completion := done, irq := q.irq
                         die := (diesOf x.desc).headD 0 }
    .done (addWork { s with copies := insert s.copies id c } n (.copy id))

/-- WAITVAL: the comparison. -/
def waitHolds (x value mask : Nat) (cond : Nat) : Bool :=
  let y := x &&& mask
  match cond with
  | 0 => y == value
  | 1 => y != value
  | 2 => value ≤ y
  | _ => y < value

/-- WAITVAL. -/
def actWaitval (s : State) (q : Queue) : Acted :=
  let a := q.byte 8 8
  if !zeros q.packet 33 64 || a % 8 != 0 || 3 < q.byte 32 1 then .error s 2
  else match s.readVA q.desc.ctx a 8 with
    | .error f => .fault f
    | .ok (b, s) => if waitHolds (leNat b) (q.byte 16 8) (q.byte 24 8) (q.byte 32 1) then .done s else .blocked s

/-- WRITEVAL. -/
def actWriteval (s : State) (q : Queue) : Acted :=
  let a := q.byte 8 8
  let k := q.byte 24 1
  let add := q.byte 25 1
  if !zeros q.packet 26 64 || !(k == 4 || k == 8) || 1 < add || a % k != 0 then .error s 2
  else if add == 0 then
    match s.writeVA q.desc.ctx a (leBytes k (q.byte 16 8)) with
    | .error f => .fault f
    | .ok s => .done s
  else match s.readVA q.desc.ctx a k .atomic with
    | .error f => .fault f
    | .ok (b, s) =>
      match s.writeVA q.desc.ctx a (leBytes k (leNat b + q.byte 16 8)) with
      | .error f => .fault f
      | .ok s => .done s

/-- R418: the event launch record of a run record and its argument block. -/
def readRunEvent (s : State) (c a : Nat) : Except DevFault ((List Byte × List Byte) × State) :=
  if a == 0 then .ok (([], []), s)
  else match s.readVA c a 128 with
    | .error f => .error f
    | .ok (r, s) =>
      if field r 104 8 == 0 then .ok ((r, []), s)
      else (s.readVA c (field r 104 8) 64).map (fun x => ((r, x.1), x.2))

/-- RUN: opens a run and starts it with no step budget. -/
def actRun (s : State) (n : Nat) (q : Queue) : Acted :=
  let a := q.byte 8 8
  let done := q.byte 56 8
  let die := q.byte 17 1
  if !zeros q.packet 18 56 || a % 256 != 0 || 63 < q.byte 16 1 || 3 < die || done % 8 != 0 then .error s 2
  else match s.readVA q.desc.ctx a 256 with
    | .error f => .fault f
    | .ok (b, s) =>
      if field b 0 1 != q.byte 16 1 then .error s 9
      else match readRunEvent s q.desc.ctx (field b 48 8) with
        | .error f => .fault f
        | .ok (ev, s) =>
          match openRun s q.desc.ctx (40 * die) die none (q.byte 16 1) a none b ev (some { queue := n, tag := q.tag, completion := done, irq := q.irq }) with
          | .code _ s => .error s 9
          | .ok h s =>
            match lookup s.runs h with
            | none => .done s
            | some r => .done (startRun (addWork s n (.run h)) h r 0)

/-! ### Programs (R151) -/

/-- The program of a `qrep` body: one past its last instruction. -/
def bodyEnd (i : Nat) (w : Word) : Nat := i + 1 + w.toNat % 1024

def isRep (w : Word) : Bool := w.toNat / 2 ^ 26 == 0x28

/-- The `qrep` bodies of a program: first instruction and one past the last. -/
def bodies (code : List Word) : List (Nat × Nat) :=
  (List.range code.length).filterMap (fun i => (code[i]?).bind (fun w => if isRep w then some (i + 1, bodyEnd i w) else none))

/-- A body holds an instruction. -/
def holds (b : Nat × Nat) (i : Nat) : Bool := b.1 ≤ i && i < b.2

/-- R151: bodies lie in the program, one lies in another or apart from it, and they nest at most 4 deep. -/
def bodiesOk (code : List Word) : Bool :=
  let bs := bodies code
  bs.all (fun b => b.1 < b.2 && b.2 ≤ code.length) &&
    bs.all (fun a => bs.all (fun b => !(holds a (b.1 - 1)) || b.2 ≤ a.2)) &&
    (List.range code.length).all (fun i => (bs.filter (fun b => holds b i)).length ≤ 4)

/-- R151: a branch goes forward, lands inside the program, and in no body that does not hold it; from a body it lands in that body or past its end. -/
def branchOk (code : List Word) (i d : Nat) : Bool :=
  let dest := i + d
  0 < d && d < 2 ^ 17 && dest < code.length && (bodies code).all (fun b => if holds b i then b.1 ≤ dest else !holds b dest)

/-- R151: an access names a declared window with its rights, and its static offset fits. -/
def windowOk (ws : List Window) (o : QM) (read write nvme : Bool) (size : Nat) : Bool :=
  match ws[o.win.val]? with
  | none => false
  | some w => w.len != 0 && (!read || w.read) && (!write || w.write) && (!nvme || w.nvme) && o.off.toNat + size ≤ w.len

/-- R150, R151: one instruction of an image. -/
def instrOk (ws : List Window) (bucket : Bool) (code : List Word) (i : Nat) (w : Word) : Bool :=
  match decodeQ w.toNat with
  | none => false
  | some (.qld o) => windowOk ws o true false false (2 ^ o.size.val)
  | some (.qst o) => windowOk ws o false true false (2 ^ o.size.val)
  | some (.qldp o) => o.off.toNat + 2 ^ o.size.val ≤ 64
  | some (.qstp o) => o.off.toNat + 2 ^ o.size.val ≤ 64
  | some (.qnvme o) => o.size == 3 && windowOk ws o false false true 64
  | some (.qshli o) => o.imm.toNat < 64
  | some (.qshri o) => o.imm.toNat < 64
  | some (.qbeq o) => branchOk code i o.disp.toNat
  | some (.qbne o) => branchOk code i o.disp.toNat
  | some (.qbltu o) => branchOk code i o.disp.toNat
  | some (.qbgeu o) => branchOk code i o.disp.toNat
  | some (.qjmp o) => branchOk code i o.disp.toNat
  | some (.qrep o) => o.imm.toNat % 1024 != 0
  | some (.qbucket o) => bucket && o.ra.val ≤ 13
  | some _ => true

/-- R151: a window entry of the header. -/
def windowOf (b : List Byte) (k : Nat) : Window :=
  { base := field b (16 * k) 8, len := field b (16 * k + 8) 4, read := (field b (16 * k + 12) 4).testBit 0
    write := (field b (16 * k + 12) 4).testBit 1, nvme := (field b (16 * k + 12) 4).testBit 2 }

/-- R151: the program of an image. -/
def programOf (b : List Byte) (count : Nat) : Program :=
  { windows := (List.range 8).map (windowOf b), code := (List.range count).map (fun i => BitVec.ofNat 32 (field b (128 + 4 * i) 4)) }

/-- R151: an image passes. -/
def imageOk (bucket : Bool) (b : List Byte) (count : Nat) : Bool :=
  let p := programOf b count
  (List.range 8).all (fun k => field b (16 * k + 12) 4 < 8) && bodiesOk p.code &&
    (List.range count).all (fun i => instrOk p.windows bucket p.code i (p.code.getD i 0))

/-- PROGRAM: the image is verified, and then installed in its slot of the program area. DESIGN CHOICE (log 20): a slot runs the copy that was verified; a later write to the program area does not change it. -/
def actProgram (s : State) (n : Nat) (q : Queue) : Acted :=
  let a := q.byte 8 8
  let id := q.byte 16 2
  let count := q.byte 18 2
  if !zeros q.packet 20 64 || a % 64 != 0 || id == 0 || q.desc.nprog < id || count == 0 || 4064 < count then .error s 2
  else match s.readVA q.desc.ctx a (128 + 4 * count) with
    | .error f => .fault f
    | .ok (b, s) =>
      if !imageOk q.desc.bucket b count then .error s 3
      else match s.writeVA q.desc.ctx (q.desc.progArea + 16384 * (id - 1)) b with
        | .error f => .fault f
        | .ok s =>
          let q := s.queue n
          .done (s.setQueue n { q with slots := insert q.slots id (programOf b count) })

/-! ### Performing a packet (R135, R143) -/

/-- The built-in action of a packet buffer. -/
def act (s : State) (n : Nat) (q : Queue) : Acted :=
  if q.byte 1 1 / 8 != 0 then .error s 2
  else match q.type with
  | 0 => if zeros q.packet 8 64 then .done s else .error s 2
  | 1 => actLaunch s n q
  | 2 => actCopy s n q
  | 3 => actWaitval s q
  | 4 => actWriteval s q
  | 5 => actRun s n q
  | 6 => actProgram s n q
  | _ => .error s 1

/-- The packet is acted on and consumed, or fails, or blocks the queue. -/
def performPacket (s : State) (n : Nat) : State :=
  match act s n (s.queue n) with
  | .done s => consume s n (signalsAtEnd (s.queue n))
  | .error s code => failPacket s n code
  | .fault f => faultPacket s n f
  | .blocked s => blockQueue s n false

/-- A unit holds a packet of a type with its built-in action, and FENCE lets it start. -/
def mayPerform (s : State) (n type : Nat) : Bool :=
  let q := s.queue n
  q.state == .active && !q.packet.isEmpty && q.unit.isSome && q.run.isNone && servesCtx s q.desc.ctx && q.type == type && !fenceHolds q

/-- NOP_PACKET (R143). -/
def execNopPacket (queue : Nat) (s : State) : Host.Outcome State Fault Refusal :=
  .next (if mayPerform s queue 0 then performPacket s queue else s)

/-- LAUNCH (R143). -/
def execLaunch (queue : Nat) (s : State) : Host.Outcome State Fault Refusal :=
  .next (if mayPerform s queue 1 then performPacket s queue else s)

/-- COPY (R143). -/
def execCopy (queue : Nat) (s : State) : Host.Outcome State Fault Refusal :=
  .next (if mayPerform s queue 2 then performPacket s queue else s)

/-- WAITVAL (R143). -/
def execWaitval (queue : Nat) (s : State) : Host.Outcome State Fault Refusal :=
  .next (if mayPerform s queue 3 then performPacket s queue else s)

/-- WRITEVAL (R143). -/
def execWriteval (queue : Nat) (s : State) : Host.Outcome State Fault Refusal :=
  .next (if mayPerform s queue 4 then performPacket s queue else s)

/-- RUN (R143). -/
def execRun (queue : Nat) (s : State) : Host.Outcome State Fault Refusal :=
  .next (if mayPerform s queue 5 then performPacket s queue else s)

/-- PROGRAM (R143, R151). -/
def execProgram (queue : Nat) (s : State) : Host.Outcome State Fault Refusal :=
  .next (if mayPerform s queue 6 then performPacket s queue else s)

/-! ### Blocked queues (R144, R153) -/

/-- R144: a blocked WAITVAL evaluates its condition again. -/
def recheckWait (s : State) (n : Nat) : State :=
  let q := s.queue n
  match actWaitval s q with
  | .blocked s => s
  | .fault f => faultPacket s n f
  | .error s code => failPacket s n code
  | .done s =>
    let s := moveQueue s n { q with state := .active }
    if (s.queue n).state == .active then consume s n (signalsAtEnd q) else s

/-- R152, R153: a held program runs again from its first instruction, with its packet read again and its budget begun again. -/
def rerunProgram (s : State) (n : Nat) : State :=
  let q := s.queue n
  match s.readVA q.desc.ctx q.slotVA 64 with
  | .error f => faultPacket s n f
  | .ok (b, s) =>
    moveQueue s n { q with state := .active, packet := b, hold := false, waitSince := s.clk
                           run := q.run.map (fun r => { prog := r.prog, acts := r.acts, started := true }) }

/-- The queue is blocked, by `qhold` or by a WAITVAL, and its context is ACTIVE. -/
def isBlocked (s : State) (n : Nat) (hold : Bool) : Bool :=
  let q := s.queue n
  q.state == .blocked && q.hold == hold && (s.ctx q.desc.ctx).state == .active

/-- The windows that the program of a queue declares (R151). -/
def Queue.windows (q : Queue) : List Window := (((q.run.bind (fun r => lookup q.slots r.prog)).map (·.windows)).getD []).filter (fun w => w.len != 0)

/-- R153: a byte lies in a line of a window. -/
def inWindow (s : State) (c : Nat) (w : Window) (key : Nat) : Bool :=
  let lo := w.base / 64 * 64
  (rangeOf lo (w.base + w.len + (2 ^ 64 - (w.base + w.len)) % 64 - lo)).any (fun p => match s.leafOf c p.1 with
    | some leaf => (match leafLoc leaf p.1 with
      | .here k => decide (k ≤ key) && decide (key < k + p.2)
      | .peer _ _ => false)
    | none => false)

/-- R153: writes to these bytes wake the programs that are held at windows over them. -/
def wakeQueues (s : State) (keys : List Nat) : State :=
  { s with queues := s.queues.map (fun x =>
      if x.2.state == .blocked && x.2.hold && keys.any (fun k => x.2.windows.any (fun w => inWindow s x.2.desc.ctx w k)) then (x.1, { x.2 with woken := true }) else x) }

/-- WAITVAL_RECHECK (R144). -/
def execWaitvalRecheck (queue : Nat) (s : State) : Host.Outcome State Fault Refusal :=
  .next (if isBlocked s queue false then recheckWait s queue else s)

/-- PROGRAM_RERUN (R153): on a write to a line of one of its windows, or after 16,384 clk. -/
def execProgramRerun (queue : Nat) (s : State) : Host.Outcome State Fault Refusal :=
  let q := s.queue queue
  .next (if isBlocked s queue true && (q.woken || q.blockedAt + 16384 ≤ s.clk) then rerunProgram s queue else s)

/-- DOORBELL (R137, R144, R153). -/
def execDoorbell (queue : Nat) (s : State) : Host.Outcome State Fault Refusal :=
  .next (if (s.queue queue).state == .idle then testSlot s queue
    else if isBlocked s queue false then recheckWait s queue
    else if isBlocked s queue true then rerunProgram s queue
    else s)

/-! ### A COPY ends (R145) -/

/-- R145: every unit has been written, or the copy has failed and made its pass, and every write is acknowledged. -/
def copyEnded (s : State) (id : Nat) (c : CopyJob) : Bool :=
  c.next == c.units && c.retry.isEmpty && (c.missing.isEmpty || c.failCode != 0) && (groupReqs s (jobAgent id)).isEmpty

/-- R119, kind 5: a COPY that failed. Its record names no core, card or word 7 (log 19). -/
def reportCopy (s : State) (c : CopyJob) : State :=
  if c.failCode == 0 then s else report s c.ctx (record 64 [(2, 5), (2, c.failCode), (2, 0xffff), (2, 0), (8, 0), (8, 0), (8, c.faultAddr)])

/-- The copy leaves with its completion record. -/
def endCopy (s : State) (id : Nat) (c : CopyJob) (status : Nat) : State :=
  endWork (complete { s with copies := erase s.copies id } c.ctx c.queue c.tag c.completion c.irq status) c.queue (.copy id)

/-- COPY_COMPLETE (R145). -/
def execCopyComplete (id : Nat) (s : State) : Host.Outcome State Fault Refusal :=
  match lookup s.copies id with
  | none => .next s
  | some c =>
    .next (if copyEnded s id c then endCopy (reportCopy s c) id c (if c.failCode == 0 then 0 else 1) else s)

end Sys2Proof.Machine
end

