-- ==== Sys2Proof/Machine/Busoron.lean ====
section
/-! DEFINITION. Machine/Busoron: the instructions of queue programs (R147 to R155). -/
namespace Sys2Proof.Machine

/-- The word a queue's program is at. -/
def Queue.word (q : Queue) : Option Word :=
  match q.run with
  | none => none
  | some r => (lookup q.slots r.prog).bind (fun p => p.code[r.pc]?)

/-- What one instruction comes to: the next instruction, another one, the end of the packet's turn, or a wait. -/
inductive QStep where
  | go (s : State) (q : Queue)
  | jump (dest : Nat)
  | ended (s : State)
  | wait
  deriving DecidableEq, Repr

/-- R150: the instruction at `dest` follows by falling through: `qrep` bodies that end there are repeated or left. -/
def fallTo : List Rep → Nat → List Rep × Nat
  | [], dest => ([], dest)
  | f :: r, dest =>
    if dest == f.stop then (if 1 < f.left then ({ f with left := f.left - 1 } :: r, f.first) else fallTo r dest)
    else (f :: r, dest)

/-- R151: a branch leaves the bodies that do not hold its target. -/
def branchTo (l : List Rep) (dest : Nat) : List Rep × Nat := (l.filter (fun f => f.first ≤ dest && dest < f.stop), dest)

/-- R152: instructions of a packet's budget. -/
def budget : Nat := 512

/-- Takes up what an instruction came to. -/
def ProgRun.after (r : ProgRun) (s : State) (n : Nat) : QStep → State
  | .go s q =>
    let r := q.run.getD r
    let (reps, pc) := fallTo r.reps (r.pc + 1)
    s.setQueue n { q with run := some { r with reps, pc } }
  | .jump dest =>
    let (reps, pc) := branchTo r.reps dest
    s.setQueue n { s.queue n with run := some { r with reps, pc } }
  | .ended s => s
  | .wait => s

/-- The common frame of every Busoron instruction: FENCE before the first (R147), the budget (R152), its own effect. -/
def State.busoron (s : State) (body : State → Nat → Queue → ProgRun → QStep) : Host.Outcome State Fault Refusal :=
  match s.env.cur with
  | .queue n =>
    let q := s.queue n
    match q.run with
    | none => .fault .noIssuer
    | some r =>
      if !servesCtx s q.desc.ctx || (!r.started && q.fence && !fenceOpen q) then .next s
      else if budget ≤ r.count && q.word.isSome then .next (failPacket s n 4)
      else
        let r' := { r with started := true, count := r.count + 1 }
        let s' := s.setQueue n { q with run := some r' }
        match body s' n (s'.queue n) r' with
        | .wait => .next s
        | x => .next (r'.after s' n x)
  | _ => .fault .noIssuer

def Queue.reg (q : Queue) (n : Fin 16) : Dword := q.regs.getD n.val 0

/-- Writes a register, and the next instruction follows. -/
def putReg (s : State) (q : Queue) (n : Fin 16) (x : Dword) : QStep := .go s { q with regs := q.regs.set n.val x }

/-! ### Arithmetic (R150) -/

/-- Formats A and K. -/
def execQA (o : QA) (f : Dword → Dword → Dword) (s : State) : Host.Outcome State Fault Refusal :=
  s.busoron (fun s _ q _ => putReg s q o.rd (f (q.reg o.ra) (q.reg o.rb)))
def execQK (o : QK) (f : Dword → Dword) (s : State) : Host.Outcome State Fault Refusal :=
  s.busoron (fun s _ q _ => putReg s q o.rd (f (q.reg o.ra)))

/-- `qli` (R150). -/
def execQli (o : QK) (s : State) : Host.Outcome State Fault Refusal := execQK o (fun _ => o.imm.signExtend 64) s
/-- `qlis` (R150). -/
def execQlis (o : QK) (s : State) : Host.Outcome State Fault Refusal := execQK o (fun a => a <<< 18 ||| o.imm.zeroExtend 64) s
/-- `qadd` (R150). -/
def execQadd (o : QA) (s : State) : Host.Outcome State Fault Refusal := execQA o (fun a b => a + b) s
/-- `qsub` (R150). -/
def execQsub (o : QA) (s : State) : Host.Outcome State Fault Refusal := execQA o (fun a b => a - b) s
/-- `qand` (R150). -/
def execQand (o : QA) (s : State) : Host.Outcome State Fault Refusal := execQA o (fun a b => a &&& b) s
/-- `qor` (R150). -/
def execQor (o : QA) (s : State) : Host.Outcome State Fault Refusal := execQA o (fun a b => a ||| b) s
/-- `qxor` (R150). -/
def execQxor (o : QA) (s : State) : Host.Outcome State Fault Refusal := execQA o (fun a b => a ^^^ b) s
/-- `qshl` (R150). -/
def execQshl (o : QA) (s : State) : Host.Outcome State Fault Refusal := execQA o (fun a b => a <<< (b.toNat % 64)) s
/-- `qshr` (R150). -/
def execQshr (o : QA) (s : State) : Host.Outcome State Fault Refusal := execQA o (fun a b => a >>> (b.toNat % 64)) s
/-- `qmul` (R150). -/
def execQmul (o : QA) (s : State) : Host.Outcome State Fault Refusal := execQA o (fun a b => a * b) s
/-- `qminu` (R150). -/
def execQminu (o : QA) (s : State) : Host.Outcome State Fault Refusal := execQA o (fun a b => if a.toNat ≤ b.toNat then a else b) s
/-- `qmaxu` (R150). -/
def execQmaxu (o : QA) (s : State) : Host.Outcome State Fault Refusal := execQA o (fun a b => if a.toNat ≤ b.toNat then b else a) s
/-- `qaddi` (R150). -/
def execQaddi (o : QK) (s : State) : Host.Outcome State Fault Refusal := execQK o (fun a => a + o.imm.signExtend 64) s
/-- `qandi` (R150). -/
def execQandi (o : QK) (s : State) : Host.Outcome State Fault Refusal := execQK o (fun a => a &&& o.imm.zeroExtend 64) s
/-- `qshli` (R150). -/
def execQshli (o : QK) (s : State) : Host.Outcome State Fault Refusal := execQK o (fun a => a <<< o.imm.toNat) s
/-- `qshri` (R150). -/
def execQshri (o : QK) (s : State) : Host.Outcome State Fault Refusal := execQK o (fun a => a >>> o.imm.toNat) s

/-! ### Memory (R150) -/

/-- R150: the address of a window access; none where it gives error WINDOW. -/
def windowVA (q : Queue) (o : QM) (size align : Nat) : Option Nat :=
  match (q.run.bind (fun r => lookup q.slots r.prog)).bind (fun p => p.windows[o.win.val]?) with
  | none => none
  | some w =>
    let off := (q.reg o.ra).toNat + o.off.toNat
    if off + size ≤ w.len && (w.base + off) % align == 0 then some (w.base + off) else none

/-- `qld` (R150). -/
def execQld (o : QM) (s : State) : Host.Outcome State Fault Refusal :=
  let k := 2 ^ o.size.val
  s.busoron (fun s n q _ =>
    match windowVA q o k k with
    | none => .ended (failPacket s n 5)
    | some a =>
      match s.readVA q.desc.ctx a k with
      | .error f => .ended (faultPacket s n f)
      | .ok (b, s) => putReg s q o.rd (BitVec.ofNat 64 (leNat b)))

/-- `qst` (R150). -/
def execQst (o : QM) (s : State) : Host.Outcome State Fault Refusal :=
  let k := 2 ^ o.size.val
  s.busoron (fun s n q _ =>
    match windowVA q o k k with
    | none => .ended (failPacket s n 5)
    | some a =>
      match s.writeVA q.desc.ctx a (leBytes k (q.reg o.rd).toNat) with
      | .error f => .ended (faultPacket s n f)
      | .ok s => .go s q)

/-- `qldp` (R150). -/
def execQldp (o : QM) (s : State) : Host.Outcome State Fault Refusal :=
  s.busoron (fun s _ q _ => putReg s q o.rd (BitVec.ofNat 64 (q.byte o.off.toNat (2 ^ o.size.val))))

/-- Bytes put into a list at an offset. -/
def putBytes (l : List Byte) (off : Nat) (b : List Byte) : List Byte := l.take off ++ b ++ l.drop (off + b.length)

/-- `qstp` (R150). -/
def execQstp (o : QM) (s : State) : Host.Outcome State Fault Refusal :=
  s.busoron (fun s _ q _ => .go s { q with packet := (putBytes q.packet o.off.toNat (leBytes (2 ^ o.size.val) (q.reg o.rd).toNat)).take 64 })

/-! ### Control (R150, R151) -/

def execQJ (o : QJ) (test : Dword → Dword → Bool) (s : State) : Host.Outcome State Fault Refusal :=
  s.busoron (fun s _ q r => if test (q.reg o.ra) (q.reg o.rb) then .jump ((r.pc : Int) + o.disp.toInt).toNat else .go s q)

/-- `qbeq` (R150). -/
def execQbeq (o : QJ) (s : State) : Host.Outcome State Fault Refusal := execQJ o (fun a b => a == b) s
/-- `qbne` (R150). -/
def execQbne (o : QJ) (s : State) : Host.Outcome State Fault Refusal := execQJ o (fun a b => a != b) s
/-- `qbltu` (R150). -/
def execQbltu (o : QJ) (s : State) : Host.Outcome State Fault Refusal := execQJ o (fun a b => a.toNat < b.toNat) s
/-- `qbgeu` (R150). -/
def execQbgeu (o : QJ) (s : State) : Host.Outcome State Fault Refusal := execQJ o (fun a b => b.toNat ≤ a.toNat) s
/-- `qjmp` (R150). -/
def execQjmp (o : QJ) (s : State) : Host.Outcome State Fault Refusal := execQJ o (fun _ _ => true) s

/-- `qrep` (R150): the next instructions are repeated. -/
def execQrep (o : QK) (s : State) : Host.Outcome State Fault Refusal :=
  s.busoron (fun s _ q r =>
    let f : Rep := { first := r.pc + 1, stop := r.pc + 1 + o.imm.toNat % 1024, left := o.imm.toNat / 1024 + 1 }
    .go s { q with run := some { r with reps := f :: r.reps } })

/-! ### Packets (R150, R153 to R155) -/

/-- R154: an entry of the bucket table matches a shape. Bounds are inclusive. -/
def bucketMatches (b : List Byte) (e x y z : Nat) : Bool :=
  let f := fun (k : Nat) => field b (64 * e + k) 4
  field b (64 * e + 24) 8 != 0 && f 0 ≤ x && x ≤ f 12 && f 4 ≤ y && y ≤ f 16 && f 8 ≤ z && z ≤ f 20

/-- R154: the packet buffer becomes a LAUNCH of a record with live extents. Bytes 28 to 55 become zero, and the rest of the header and the completion address stay (log 20). -/
def bucketPacket (p : List Byte) (record x y z : Nat) : List Byte :=
  putBytes (putBytes p 8 (leBytes 8 record ++ leBytes 4 x ++ leBytes 4 y ++ leBytes 4 z ++ leBytes 28 0)) 0 [1]

/-- `qbucket` (R154). -/
def execQbucket (o : QA) (s : State) : Host.Outcome State Fault Refusal :=
  s.busoron (fun s n q _ =>
    match s.readVA q.desc.ctx q.desc.buckets 1024 with
    | .error f => .ended (faultPacket s n f)
    | .ok (b, s) =>
      let v := fun (k : Nat) => (q.regs.getD (o.ra.val + k) 0).toNat
      match (List.range 16).find? (fun e => bucketMatches b e (v 0) (v 1) (v 2)) with
      | none => putReg s q o.rd (BitVec.allOnes 64)
      | some e => putReg s { q with packet := bucketPacket q.packet (field b (64 * e + 24) 8) (v 0) (v 1) (v 2) } o.rd (BitVec.ofNat 64 e))

/-- `qact` (R150). -/
def execQact (s : State) : Host.Outcome State Fault Refusal :=
  s.busoron (fun s n q r =>
    if !(q.type == 1 || q.type == 2 || q.type == 4 || q.type == 5) || 8 ≤ r.acts then .ended (failPacket s n 2)
    else if fenceHolds q then .wait
    else match act s n q with
      | .done s => .go s { s.queue n with run := some { r with acts := r.acts + 1 } }
      | .error s code => .ended (failPacket s n code)
      | .fault f => .ended (faultPacket s n f)
      | .blocked s => .ended (blockQueue s n false))

/-- R155: the limits of a storage target's entry. -/
def targetOk (q : Queue) (t : Nat) (e : List Byte) : Bool :=
  t < 4 && q.desc.nvme != 0 && 2 ≤ field e 8 4 && field e 8 4 ≤ 65536

/-- R155, R472: submits a command: into the slot at the tail, then the tail, then the doorbell. DESIGN CHOICE (log 20): the manual gives the doorbell's width nowhere; 4 bytes are written, as the tail has. -/
def submit (s : State) (n : Nat) (q : Queue) (t : Nat) (e cmd : List Byte) : QStep :=
  let tail := field e 24 4
  let next := (tail + 1) % field e 8 4
  let s := s.hostStore (field e 0 8 + 64 * tail) cmd
  match s.writeVA q.desc.ctx (q.desc.nvme + 32 * t + 24) (leBytes 4 next) with
  | .error f => .ended (faultPacket s n f)
  | .ok s => .go (s.hostStore (field e 16 8) (leBytes 4 next)) q

/-- `qnvme` (R155). DESIGN CHOICE (log 20): a table that is absent or names fewer than 2 or more than 65,536 entries has no such target; the window is checked for the command's 64 bytes and, as the form is `.b64`, an alignment of 8. -/
def execQnvme (o : QM) (s : State) : Host.Outcome State Fault Refusal :=
  s.busoron (fun s n q _ =>
    let t := (q.reg o.rd).toNat
    match (if t < 4 && q.desc.nvme != 0 then windowVA q o 64 8 else none) with
    | none => .ended (failPacket s n 5)
    | some a =>
      match s.readVA q.desc.ctx (q.desc.nvme + 32 * t) 32 with
      | .error f => .ended (faultPacket s n f)
      | .ok (e, s) =>
        if !targetOk q t e then .ended (failPacket s n 5)
        else match s.readVA q.desc.ctx a 64 with
          | .error f => .ended (faultPacket s n f)
          | .ok (cmd, s) => submit s n q t e cmd)

/-- `qdone` (R150). -/
def execQdone (s : State) : Host.Outcome State Fault Refusal := s.busoron (fun s n _ _ => .ended (consume s n false))

/-- `qpass` (R150). -/
def execQpass (s : State) : Host.Outcome State Fault Refusal :=
  s.busoron (fun s n q _ => if fenceHolds q then .wait else .ended (performPacket s n))

/-- `qhold` (R153). -/
def execQhold (s : State) : Host.Outcome State Fault Refusal := s.busoron (fun s n _ _ => .ended (blockQueue s n true))

/-- `qfail` (R150). -/
def execQfail (ra : Fin 16) (s : State) : Host.Outcome State Fault Refusal :=
  s.busoron (fun s n q _ => .ended (failPacket (s.setQueue n { q with progError := (q.reg ra).toNat % 65536 }) n 8))

end Sys2Proof.Machine
end

