-- ==== Sys2Proof/Machine/Atomic.lean ====
section
/-! DEFINITION. Machine/Atomic: `atom`, `red`, `ratom`, `rpoll` and the timeout of a remote atomic (R262 to R266, R268 to R270). -/
namespace Sys2Proof.Machine

/-- R262: the value an atomic leaves, of `n` bytes. -/
def atomOp (aop n x v c : Nat) : Nat :=
  let w := 8 * n
  match aop with
  | 0 => v
  | 1 => if x == c then v else x
  | 2 => (x + v) % 2 ^ w
  | 3 => x &&& v
  | 4 => x ||| v
  | 5 => x ^^^ v
  | 6 => if signed w x ≤ signed w v then x else v
  | 7 => if signed w v ≤ signed w x then x else v
  | 8 => min x v
  | 9 => max x v
  | 10 => (binary32.add .rn (binary32.decode x) (binary32.decode v)).1
  | 11 => (binary32.minmax true x v).1
  | _ => (binary32.minmax false x v).1

/-- R263: a lane's operand and compare value. -/
def atomArgs (is : Issue) (o : MOps) (l : Nat) : Nat × Nat :=
  let n := Size.bytes o.size
  match o.d with
  | .v _ =>
    let x := dataOf is o.d (if o.aop == 1 then 2 * n else n) l
    if o.aop == 1 then (x / 2 ^ (8 * n) % 2 ^ (8 * n), x % 2 ^ (8 * n)) else (x % 2 ^ (8 * n), 0)
  | .s r =>
    let x := (is.g.sread is.ex r.val).toNat
    if o.aop == 1 then
      if n == 4 then (x / 2 ^ 32, x % 2 ^ 32) else ((is.g.sread is.ex (r.val + 1)).toNat, x)
    else (x % 2 ^ (8 * n), 0)
  | _ => (0, 0)

/-- R263: registers an atomic reads. -/
def atomReads (o : MOps) : List RegCode :=
  let n := Size.bytes o.size
  match o.d with
  | .s r => if o.aop == 1 && n == 8 then [128 + r.val, 129 + r.val] else [128 + r.val]
  | d => dataRegs d (if o.aop == 1 then 2 * n else n)

/-- R264: one atomic at a key: the old value and the state after. -/
def atomAt (s : State) (ctx core key aop n v c : Nat) : Nat × State :=
  let (b, s) := readKey s ctx core key n
  let s := holdDirty s ctx key
  (leNat b, s.poke key (leBytes n (atomOp aop n (leNat b) v c)))

/-- One lane of an atomic. -/
def atomLane (s : State) (is : Issue) (o : MOps) (l : Nat) (p : Place) : Nat × State :=
  let (v, c) := atomArgs is o l
  let s := touch s is.g.ctx .atomic p
  match p.loc with
  | .here key => atomAt s is.g.ctx is.core key o.aop.toNat (Size.bytes o.size) v c
  | .peer _ _ => (0, s)

/-- R264: the lanes, ascending; each sees the result of a lower one. -/
def atomLanes (is : Issue) (o : MOps) : List (Nat × Place) → State → List (Nat × Nat) × State
  | [], s => ([], s)
  | (l, p) :: r, s =>
    let (x, s) := atomLane s is o l p
    let (t, s) := atomLanes is o r s
    ((l, x) :: t, s)

/-- The place lies in host memory. -/
def Place.inHost : Place → Bool
  | .sram _ => false
  | .page _ w _ => leafMem w == 1

/-- R266: lanes to host memory that no PCIe AtomicOp carries while CXL.cache is not up. -/
def hostUnfit (s : State) (o : MOps) (ok : List (Nat × Place)) : Mask :=
  if s.link.lnkCache || o.aop.toNat ≤ 2 then 0 else maskOf ((ok.filter (fun x => x.2.inHost)).map (·.1))

/-- R266: lanes whose AtomicOp completes with an error status: those to a host line in error. -/
def hostError (s : State) (ok : List (Nat × Place)) : Mask :=
  if s.link.lnkCache then 0
  else maskOf ((ok.filter (fun x => x.2.inHost && (match x.2.loc with
    | .here key => s.badLine key
    | .peer _ _ => false))).map (·.1))

/-- R252, R263: a lane's access; a generic address of the private window raises PROT. -/
def atomAccess (s : State) (is : Issue) (o : MOps) (l : Nat) : Access :=
  let a := MOps.address is o l
  let n := Size.bytes o.size
  if a % n != 0 then .align
  else if o.space == .generic && a / 2 ^ 57 == 0x7d then .prot
  else pageAllows .atomic n (resolve s is o.space .atomic (MOps.wide o) l a)

/-- The common part of `atom` and `red` (R252, R264, R266). -/
def atomBody (o : MOps) (keep : Bool) (is : Issue) (s : State) : Verdict :=
  match settleAccess s is .atomic ((is.gd.lanes is.g.width).map (fun l => (l, MOps.address is o l, atomAccess s is o l))) with
  | .stop v => v
  | .go s' ok parked =>
    let unfit := hostUnfit s o ok
    let bad := hostError s ok
    let lowest := fun (m : Mask) => MOps.address is o ((m.lanes is.g.width).headD 0)
    if unfit != 0 then .trap s 17 0 (lowest unfit) unfit
    else if bad != 0 then .trap s 7 0 (lowest bad) bad
    else
      let (t, s) := atomLanes is o ok s'
      let m := maskOf (ok.map (·.1))
      let s := if keep && m != 0 then s.onGroup is.key (fun g => pendLoad g o.d (Size.bytes o.size) o.look.toNat m 0 .g 0 (outAt t)) else s
      .commit s parked 0

/-- `atom` (R264). -/
def execAtom (o : MOps) (s : State) : Host.Outcome State Fault Refusal :=
  execM o (atomReads o) (dataRegs o.d (Size.bytes o.size)) true (atomBody o true) s

/-- `red` (R264). -/
def execRed (o : MOps) (s : State) : Host.Outcome State Fault Refusal :=
  execM o (atomReads o) [] true (atomBody o false) s

/-! ### Remote atomics (R268 to R270) -/

/-- R268: the ring's entries: its address is 1 KiB aligned and names device memory. -/
def ringAccess (s : State) (is : Issue) : Access :=
  let a := (is.g.sread is.ex 61).toNat
  if a % 1024 != 0 then .prot
  else match globalAccess s is.g.ctx .atomic false a with
    | .ok (.page va w pa) => if leafMem w == 0 && !leafRed w then .ok (.page va w pa) else .prot
    | x => x

/-- The lowest free entry of a ring at a key. -/
def freeEntry (m : List Host.Cell) (key : Nat) : Nat → Nat → Option Nat
  | 0, _ => none
  | n + 1, k => if Memory.read m (key + 16 * k + 8) == 0 then some k else freeEntry m key n (k + 1)

/-- R269: one lane of `ratom`. -/
def ratomLane (is : Issue) (o : MOps) (key : Nat) (s : State) (l : Nat) (p : Place) : Nat × State :=
  match p, freeEntry s.mem key 64 0 with
  | .page va w leafPa, some k =>
    let (v, c) := atomArgs is o l
    let n := Size.bytes o.size
    let e := key + 16 * k
    let s := s.poke (e + 8) ([1, BitVec.ofNat 8 o.aop.toNat, if n == 8 then 3 else 2, 0] ++ leBytes 4 0)
    let ring := (is.g.sread is.ex 61).toNat
    match leafLoc w va with
    | .peer _ pa => (k, sendPeer (s.used is.g.ctx va .atomic w leafPa) is.key is.g.ctx va w pa .plain
        (.atomic o.aop.toNat n (BitVec.ofNat 64 v) (BitVec.ofNat 64 c)) (.ring is.g.ctx (ring + 16 * k)))
    | .here _ => (k, s)
  | _, _ => (0xffffffff, s)

def ratomLanes (is : Issue) (o : MOps) (key : Nat) : List (Nat × Place) → State → List (Nat × Nat) × State
  | [], s => ([], s)
  | (l, p) :: r, s =>
    let (x, s) := ratomLane is o key s l p
    let (t, s) := ratomLanes is o key r s
    ((l, x) :: t, s)

/-- R269: a lane's target must be a peer's page with the rights of an atomic (R376). -/
def ratomAccess (s : State) (is : Issue) (o : MOps) (l : Nat) : Access :=
  let a := MOps.address is o l
  if a % Size.bytes o.size != 0 then .align
  else match resolve s is o.space .atomic false l a with
    | .ok (.page va w pa) => if leafMem w == 2 then .ok (.page va w pa) else .prot
    | .ok (.sram _) => .prot
    | x => x

/-- `ratom` (R269). -/
def ratomBody (o : MOps) (is : Issue) (s : State) : Verdict :=
  let ring := ringAccess s is
  let accs := (is.gd.lanes is.g.width).map (fun l =>
    let x := ratomAccess s is o l
    (l, MOps.address is o l, match x with
      | .ok p => (match ring with
        | .ok _ => .ok p
        | y => y)
      | y => y))
  match settleAccess s is .atomic accs with
  | .stop v => v
  | .go s ok parked =>
    match ring with
    | .ok (.page va w pa) =>
      match leafLoc w va with
      | .here key =>
        let s := if ok.isEmpty then s else s.used is.g.ctx va .atomic w pa
        let (t, s) := ratomLanes is o key ok s
        let m := maskOf (ok.map (·.1))
        let s := if m == 0 then s else s.onGroup is.key (fun g => pendLoad g o.d (Size.bytes o.size) o.look.toNat m 0 .g 0 (outAt t))
        .commit s parked 0
      | .peer _ _ => .commit s parked 0
    | _ => .commit s parked 0

def execRatom (o : MOps) (s : State) : Host.Outcome State Fault Refusal :=
  execM o (189 :: atomReads o) (dataRegs o.d (Size.bytes o.size)) true (ratomBody o) s

/-- R270: a lane's entry lies in the ring: at the ring's address once its own is resolved (R244), a private offset through its alias. -/
def rpollAccess (s : State) (is : Issue) (o : MOps) (l : Nat) : Access :=
  let a := MOps.address is o l
  let ring := (is.g.sread is.ex 61).toNat
  if a % 16 != 0 then .align
  else match ringAccess s is with
    | .ok _ =>
      match resolve s is o.space .atomic false l a with
      | .ok (.page va w pa) => if ring ≤ va && va < ring + 1024 && leafMem w == 0 then .ok (.page va w pa) else .prot
      | .ok (.sram _) => .prot
      | .xlate va r => if ring ≤ va && va < ring + 1024 then .xlate va r else .prot
      | x => x
    | x => x

/-- R270: one lane: the entry's bytes; an entry that is done or failed becomes free. -/
def rpollLane (s : State) (is : Issue) (p : Place) : Nat × State :=
  let s := touch s is.g.ctx .atomic p
  match p.loc with
  | .here key =>
    let b := Memory.bytes s.mem key 16
    let st := field b 8 1
    (leNat b, if st == 2 || st == 3 then s.poke (key + 8) [0] else s)
  | .peer _ _ => (0, s)

def rpollLanes (is : Issue) : List (Nat × Place) → State → List (Nat × Nat) × State
  | [], s => ([], s)
  | (l, p) :: r, s =>
    let (x, s) := rpollLane s is p
    let (t, s) := rpollLanes is r s
    ((l, x) :: t, s)

/-- Writes four registers, one word of a value each. -/
def writeQuad (g : Group) (d : Opnd) (m : Mask) (val : Nat → Nat) : Group :=
  match d with
  | .v r => (List.range 4).foldl (fun g k => g.writeV (r.val + k) m .g (fun l => BitVec.ofNat 32 (val l / 2 ^ (32 * k)))) g
  | _ => g

/-- `rpoll` (R270). -/
def execRpoll (o : MOps) (s : State) : Host.Outcome State Fault Refusal :=
  execM o [189] (dataRegs o.d 16) true (fun is s =>
    match settleAccess s is .atomic ((is.gd.lanes is.g.width).map (fun l => (l, MOps.address is o l, rpollAccess s is o l))) with
    | .stop v => v
    | .go s ok parked =>
      let (t, s) := rpollLanes is ok s
      let m := maskOf (ok.map (·.1))
      .commit (if m == 0 then s else s.onGroup is.key (fun g => writeQuad g o.d m (outAt t))) parked 0) s

/-- R268: clk after which a request with no reply fails. -/
def requestTimeout : Nat := 2 ^ 24

/-- RATOM_TIMEOUT (R268): a remote atomic with no reply fails with FAIL 4. -/
def execRatomTimeout (req : Nat) (s : State) : Host.Outcome State Fault Refusal :=
  match lookup s.link.reqs req with
  | some r =>
    match r.for_ with
    | .ring ctx addr => if r.sentAt + requestTimeout ≤ s.clk then .next (ringReply (dropReq s req) ctx addr 0 3 4) else .next s
    | _ => .next s
  | none => .next s

end Sys2Proof.Machine
end

