-- ==== Sys2Proof/Machine/Fetch.lean ====
section
/-! DEFINITION. Machine/Fetch: fetch lines, their parity and their translation (R69 to R75, R88). -/
namespace Sys2Proof.Machine

/-- Parity of the low `n` bits: true when odd. -/
def parity (x : Nat) : Nat → Bool
  | 0 => false
  | n + 1 => (x % 2 == 1) != parity (x / 2) n

/-- R69: slot k of a line, and its line word. -/
def lineSlot (b : List Byte) (k : Nat) : Nat := field b (12 * k) 12
def lineWord (b : List Byte) : Nat := field b 60 4

/-- R71: bits 31 to 15 of the line word are zero. -/
def wordZeros (w : Nat) : Bool := w / 2 ^ 15 % 2 ^ 17 == 0
/-- R72: LP fits bits 13 to 0. -/
def wordParity (w : Nat) : Bool := parity w 14 == w.testBit 14
/-- R72: SP of slot k fits the slot. -/
def slotParity (b : List Byte) (k : Nat) : Bool := parity (lineSlot b k) 96 == (lineWord b).testBit (9 + k)
/-- R73: no parity mismatch anywhere in the line. -/
def lineParity (b : List Byte) : Bool := wordParity (lineWord b) && (List.range 5).all (slotParity b)
/-- R71: slot k may be entered by a control transfer. -/
def lineTgt (w k : Nat) : Bool := w.testBit k
/-- R71: slots k and k + 1 are paired. -/
def linePair (w k : Nat) : Bool := w.testBit (5 + k)

/-- The slot of a PC in its line. -/
def slotOf (pc : Nat) : Nat := pc % 64 / 12
/-- The line a PC lies in. -/
def lineOf (pc : Nat) : Nat := pc / 64 * 64

/-- R75: the translation of a line as a fetch; a peer's line must be sent first (R248). -/
inductive LineAt where
  | ok (bytes : List Byte) (leaf : Dword) (leafPa : Nat)
  | prot
  | malformed (va : Nat)
  | xlate (va reason : Nat)
  | away (leaf : Dword) (leafPa at_ : Nat)
  deriving DecidableEq, Repr

/-- R74, R75: reads a line for a group, as one access. -/
def fetchLine (s : State) (g : Group) (addr : Nat) : LineAt :=
  if addr / 2 ^ 57 != 0 then .prot
  else match translate s g.ctx addr .fetch with
    | .fault r => .xlate addr r
    | .prot => .prot
    | .malformed => .malformed addr
    | .to w pa =>
      match leafLoc w addr with
      | .here key => .ok (Memory.bytes s.mem key 64) w pa
      | .peer _ at_ => match g.sent addr 64 with
        | some b => .ok b w pa
        | none => .away w pa at_

/-- What a target check comes to (R88). -/
inductive Target where
  | ok
  | bad
  | badLine
  | prot (va : Nat)
  | malformed (va : Nat)
  | xlate (va reason : Nat)
  | away (line : Nat) (leaf : Dword) (at_ : Nat)
  deriving DecidableEq, Repr

/-- R88, R171: a control-transfer target: a valid PC whose slot its line's word lets be entered. -/
def checkTarget (s : State) (g : Group) (t : Nat) : Target :=
  if t / 2 ^ 57 != 0 || !pcOk t then .bad
  else match fetchLine s g (lineOf t) with
    | .away w _ at_ => .away (lineOf t) w at_
    | .prot => .prot (lineOf t)
    | .malformed va => .malformed va
    | .xlate va r => .xlate va r
    | .ok b _ _ =>
      let w := lineWord b
      if !wordZeros w || !wordParity w then .badLine
      else if lineTgt w (slotOf t) then .ok else .bad

/-- R73: the one further fetch of a line whose copy mismatched. A line with bits 31 to 15 nonzero counts as one that does not check (log 76). -/
def refetchLine (s : State) (is : Issue) : State :=
  let addr := lineOf is.pc
  let keep := fun (s : State) (x : Option Line) => s.onGroup is.key (fun g => { g with line := x, refetch := false })
  match fetchLine s is.g addr with
  | .away w _ at_ => askOnce s is.key is.g.ctx addr w at_ 64
  | .ok b w pa =>
    let s := keep (s.used is.g.ctx addr .fetch w pa) (some { addr, bytes := b })
    logEvent s is.g.ctx (wordZeros (lineWord b) && lineParity b) 1 is.core is.slot addr 0 0
  | _ => keep s none

/-- LINE_REFETCH (R73). -/
def execLineRefetch (core slot : Nat) (s : State) : Host.Outcome State Fault Refusal :=
  let s' := { s with env := { s.env with cur := .group core slot } }
  match s'.issue 0 false with
  | some is => if is.g.refetch then .next { refetchLine s is with env := s.env } else .next s
  | none => .next s

end Sys2Proof.Machine
end

