-- ==== Sys2Proof/Machine/Branch.lean ====
section
/-! DEFINITION. Machine/Branch: major 0x01 (R88, R200, R201). -/
namespace Sys2Proof.Machine

/-- A target in a page that may not be fetched: PROT (R75, R88). -/
def Target.isProt : Target → Bool
  | .prot _ | .malformed _ => true
  | _ => false

/-- The address a target's fault names. -/
def Target.addr : Target → Nat
  | .prot va | .malformed va | .xlate va _ => va
  | _ => 0

/-- A translation fault of a target's line. -/
def Target.isXlate : Target → Bool
  | .xlate _ _ => true
  | _ => false

/-- The lanes of some targets, with the code and the address that the lowest names. -/
def targetTrap (code : Nat) (l : List (Nat × Target)) : Option (Nat × Nat × Mask) :=
  l.head?.map (fun x => (code, x.2.addr, maskOf (l.map (·.1))))

/-- R88, R95: the fault of targets that faults the whole instruction: PROT, in pinned mode XLATE, BAD_LINE, then a target that is no valid PC or may not be entered. -/
def targetFault (pinned : Bool) (l : List (Nat × Target)) : Option (Nat × Nat × Mask) :=
  let are := fun (p : Target → Bool) => l.filter (fun y => p y.2)
  ((targetTrap 7 (are Target.isProt)).or (targetTrap 6 (are (fun x => pinned && x.isXlate)))).or
    ((targetTrap 4 (are (· == .badLine))).or (targetTrap 3 (are (· == .bad))))

/-- R375: the malformed entries that targets met are reported. -/
def logTargets (s : State) (is : Issue) (l : List (Nat × Target)) : State :=
  l.foldl (fun s x => match x.2 with
    | .malformed va => logMalformed s is.g.ctx is.core va
    | _ => s) s

/-- Lines of targets that peers have to send first. -/
def askTargets (s : State) (is : Issue) (l : List (Nat × Target)) : Option State :=
  let away := l.filter (fun x => match x.2 with
    | .away .. => true
    | _ => false)
  if away.isEmpty then none
  else some (away.foldl (fun s x => match x.2 with
    | .away line w at_ => askOnce s is.key is.g.ctx line w at_ 64
    | _ => s) s)

/-- R88, R95: what the targets' own checks come to, where the instruction goes no further. -/
def targetsStop (s : State) (is : Issue) (ts : List (Nat × Target)) : Option Verdict :=
  match askTargets s is ts with
  | some s => some (.hold s)
  | none => (targetFault (!(s.ctx is.g.ctx).replayable) ts).map (fun x => .trap (logTargets s is ts) x.1 0 x.2.1 x.2.2)

/-- Lanes whose target line takes a translation fault. -/
def targetXlates (l : List (Nat × Target)) : List (Nat × Nat × Nat) :=
  l.filterMap (fun x => match x.2 with
    | .xlate va r => some (x.1, va, r)
    | _ => none)

/-- R88, R197: parks the lanes of translation faults, some on fetches and some on the stack, or traps in pinned mode; the rest go on. -/
def parkOrTrap (s : State) (is : Issue) (fetches : List (Nat × Nat × Nat)) (u : Use) (data : List (Nat × Nat × Nat))
    (go : State → Mask → Verdict) : Verdict :=
  match fetches ++ data with
  | [] => go s 0
  | (x, va, _) :: r =>
    if (s.ctx is.g.ctx).replayable then
      match parkLanes s is .fetch true fetches with
      | none => .hold s
      | some s' =>
        match parkLanes s' is u false data with
        | none => .hold s
        | some s'' => go s'' (maskOf (x :: r.map (·.1)))
    else .trap s 6 0 va (maskOf (x :: r.map (·.1)))

/-- The targets of the guarded lanes, checked. -/
def targets (s : State) (is : Issue) (f : Nat → Nat) : List (Nat × Target) :=
  (is.gd.lanes is.g.width).map (fun l => (l, checkTarget s is.g (f l)))

/-- R201: `bra` and `brx`. -/
def jumpBody (o : BOps) (is : Issue) (s : State) : Verdict :=
  let ts := targets s is (BOps.target is o)
  match targetsStop s is ts with
  | some v => v
  | none =>
    parkOrTrap s is (targetXlates ts) .read [] fun s parked =>
      let go := is.gd &&& ~~~parked
      .commit (s.onGroup is.key (fun g => g.setLpc go (fun l => g.withPc l (BOps.target is o l)))) parked go

/-- R201: the stack slot of a lane, private space. -/
def stackAccess (s : State) (is : Issue) (u : Use) (l : Nat) (x : Dword) : Access := privateAccess s is u l (x.toNat % 2 ^ 57)

/-- Stores the return address of one lane: a plain store (R201). -/
def pushReturn (is : Issue) (s : State) (x : Nat × Place) : State := storePlace s is .plain x.2 (leBytes 8 (nextPc is.pc))

/-- R437: return addresses would leave more contributions held than the buffer of a port takes. -/
def noStackRoom (s : State) (is : Issue) (ok : List (Nat × Place)) : Bool := ok.any (fun x => x.2.red) && portsFull (ok.foldl (pushReturn is) s)

/-- The faults of a stack access, by lane: PROT lanes, translation faults, and places. -/
def stackSplit (l : List (Nat × Access)) : Mask × List (Nat × Nat × Nat) × List (Nat × Place) :=
  (maskOf ((l.filter (fun x => x.2.isProt)).map (·.1)),
   l.filterMap (fun x => match x.2 with
     | .xlate va r => some (x.1, va, r)
     | _ => none),
   l.filterMap (fun x => match x.2 with
     | .ok p => some (x.1, p)
     | _ => none))

/-- R375: the malformed entries that a stack access met are reported. -/
def logStack (s : State) (is : Issue) (l : List (Nat × Access)) : State := logMalformedLanes s is (l.map (fun x => (x.1, 0, x.2)))

/-- R201: `call` and `callx`. The store waits for the loads before it (R351), and for room where it is a contribution (R437). -/
def callBody (o : BOps) (is : Issue) (s : State) : Verdict :=
  let ts := targets s is (BOps.target is o)
  match targetsStop s is ts with
  | some v => v
  | none =>
    let bad := is.gd &&& ~~~(Mask.of is.g.width (fun l => is.g.depth l != 127 && stackOk is.l (is.g.regs.lsp.get l) 8))
    if bad != 0 then .trap s 16 0 0 bad
    else
      let acc := (is.gd.lanes is.g.width).map (fun l => (l, pageAllows .write 8 (stackAccess s is .write l (is.g.regs.lsp.get l - 8))))
      let (prot, xl, ok) := stackSplit acc
      if prot != 0 then .trap (logStack s is acc) 7 0 (is.g.regs.lsp.get ((prot.lanes is.g.width).headD 0) - 8).toNat prot
      else if is.gd != 0 && (mustWait s is.key .plain true || noStackRoom s is ok) then .hold s
      else
        let fetches := targetXlates ts
        let xl := xl.filter (fun x => !fetches.any (fun y => y.1 == x.1))
        parkOrTrap s is fetches .write xl fun s parked =>
          let go := is.gd &&& ~~~parked
          let s := (ok.filter (fun x => go.has x.1)).foldl (pushReturn is) s
          .commit (s.onGroup is.key (fun g =>
            (g.setLpc go (fun l => BitVec.ofNat 64 ((is.g.depth l + 1) * 2 ^ 57 + BOps.target is o l % 2 ^ 57))).writeLsp go (lspUniform is.g)
              (fun l => is.g.regs.lsp.get l - 8))) parked go

/-- The bytes of a stack slot are there: in memory, or sent by a peer for this issue. -/
def returnSent (is : Issue) : Place → Bool
  | .sram _ => true
  | .page va w _ => match leafLoc w va with
    | .here _ => true
    | .peer _ _ => (is.g.sent va 8).isSome

/-- The return address in a lane's stack slot, read as a load reads it: in a line with an uncorrectable error it is free, and the error is logged (R119). -/
def popReturn (is : Issue) (s : State) (p : Place) : Nat × State :=
  let s := touch s is.g.ctx .read p
  match p.loc with
  | .here key => let (b, s) := readKey s is.g.ctx is.core key 8; (leNat b, s)
  | .peer _ _ => (match p with
    | .page va _ _ => leNat ((is.g.sent va 8).getD [])
    | .sram _ => 0, s)

/-- The return addresses of the lanes, in lane order. -/
def popReturns (is : Issue) : State → List (Nat × Place) → List (Nat × Nat) × State
  | s, [] => ([], s)
  | s, (l, p) :: r =>
    let (x, s) := popReturn is s p
    let (t, s) := popReturns is s r
    ((l, x) :: t, s)

/-- Asks a peer for a lane's return address, once. -/
def askReturn (is : Issue) (s : State) (x : Nat × Place) : State :=
  match x.2 with
  | .sram _ => s
  | .page va w _ =>
    match leafLoc w va with
    | .here _ => s
    | .peer _ pa => if (is.g.sent va 8).isSome then s else askOnce s is.key is.g.ctx va w pa 8

/-- R177, R201: a lane that belongs to a set whose entry depth the `ret` would pass. -/
def orphans (g : Group) (l : Nat) : Bool := g.regs.j.any (fun x => x.members.has l && g.depth l - 1 < x.entry)

/-- R201: `ret`, once the stack's words are there: the target check, and the jump. -/
def retTo (is : Issue) (s : State) (ok : List (Nat × Place)) (xl : List (Nat × Nat × Nat)) : Verdict :=
  let sp := fun l => is.g.regs.lsp.get l
  let (back, s) := popReturns is s ok
  let ts := back.map (fun x => (x.1, checkTarget s is.g x.2))
  match targetsStop s is ts with
  | some v => v
  | none =>
    parkOrTrap s is (targetXlates ts) .read xl fun s parked =>
      let go := is.gd &&& ~~~parked
      .commit (s.onGroup is.key (fun g =>
        (g.setLpc go (fun l => BitVec.ofNat 64 ((is.g.depth l - 1) * 2 ^ 57 + ((lookup back l).getD 0) % 2 ^ 57))).writeLsp go (lspUniform is.g)
          (fun l => sp l + 8))) parked go

/-- R201: `ret`. In pinned mode a translation fault of the stack goes before the target check. -/
def retBody (is : Issue) (s : State) : Verdict :=
  let sp := fun l => is.g.regs.lsp.get l
  let bad := is.gd &&& ~~~(Mask.of is.g.width (fun l =>
    is.g.depth l != 0 && stackOk is.l (sp l) 0 && (sp l).toNat % 2 ^ 57 + 8 ≤ is.l.record.privSz))
  if bad != 0 then .trap s 16 0 0 bad
  else
    let orphan := is.gd &&& Mask.of is.g.width (orphans is.g)
    if orphan != 0 then .trap s 11 0 0 orphan
    else
      let acc := (is.gd.lanes is.g.width).map (fun l => (l, stackAccess s is .read l (sp l)))
      let (prot, xl, ok) := stackSplit acc
      if prot != 0 then .trap (logStack s is acc) 7 0 (sp ((prot.lanes is.g.width).headD 0)).toNat prot
      else if !(s.ctx is.g.ctx).replayable && !xl.isEmpty then parkOrTrap s is [] .read xl (fun s _ => .commit s 0 0)
      else if is.gd != 0 && mustWait s is.key .plain false then .hold s
      else if ok.any (fun x => !returnSent is x.2) then .hold (ok.foldl (askReturn is) s)
      else retTo is s ok xl

/-- R201: `exit`; in a handler it is ILLEGAL_OP (R194). -/
def exitBody (is : Issue) (s : State) : Verdict :=
  if is.g.handler.isSome then .trap s 1 0 0 is.ex
  else if is.gd == 0 then .commit s 0 0
  else
    let g := quitSets (((s.group is.key).getD is.g).setLanes is.gd .done) is.gd
    if deadlocked g then .trap s 10 0 0 is.ex
    else .commit (s.setGroup is.key g) 0 is.gd

def BOps.reads (o : BOps) : List RegCode := Opnd.regs o.treg true

/-- R95: the faults of a branch's targets, before REG_PARITY of registers that the targets do not need. -/
def branchAhead (o : BOps) : Ahead where
  needs := BOps.reads o
  second := fun is s => targetsStop s is (targets s is (BOps.target is o))

/-- `bra` (R201). -/
def execBra (o : BOps) (s : State) : Host.Outcome State Fault Refusal := s.run o.pred o.neg [] [] (jumpBody o) (branchAhead o)

/-- `brx` (R201). -/
def execBrx (o : BOps) (s : State) : Host.Outcome State Fault Refusal := s.run o.pred o.neg (BOps.reads o) [] (jumpBody o) (branchAhead o)

/-- `call` (R201). -/
def execCall (o : BOps) (s : State) : Host.Outcome State Fault Refusal := s.run o.pred o.neg [225] [225] (callBody o) (branchAhead o)

/-- `callx` (R201). -/
def execCallx (o : BOps) (s : State) : Host.Outcome State Fault Refusal :=
  s.run o.pred o.neg (225 :: BOps.reads o) [225] (callBody o) (branchAhead o)

/-- The codes of the rejoin sets, which `ret` and `exit` read (R114, R177, R178). -/
def setCodes : List RegCode := (List.range 8).map (200 + ·)

/-- `ret` (R201). -/
def execRet (o : BOps) (s : State) : Host.Outcome State Fault Refusal := s.run o.pred o.neg (225 :: setCodes) [225] retBody

/-- `exit` (R201); in a handler it is ILLEGAL_OP. -/
def execExit (o : BOps) (s : State) : Host.Outcome State Fault Refusal :=
  s.run o.pred o.neg setCodes [] exitBody { first := fun is => if is.g.handler.isSome then some 1 else none }

end Sys2Proof.Machine
end

