-- ==== Sys2Proof/Machine/Pages.lean ====
section
/-! DEFINITION. Machine/Pages: invalidation, the heap walk, replay, pinned handles, the fault queue and placement hints (R261, R379 to R386, R469). -/
namespace Sys2Proof.Machine

/-! ### The heap (R261) -/

/-- R261: the frame of a page whose leaf is marked HEAP. -/
def heapFrame (s : State) (c va : Nat) : Option Nat :=
  match walk s.mem (s.ctx c).desc.ptroot va with
  | .leaf w _ => if leafMem w == 0 && w.getLsbD 53 then some (leafFrame w) else none
  | _ => none

/-- The pages of a context's heap range that meet `[lo, hi)`. -/
def heapPages (d : Desc) (lo hi : Nat) : List Nat :=
  ((List.range (d.heapLen / 65536)).map (fun k => d.heapBase + 65536 * k)).filter (fun va => va < hi && lo < va + 65536)

/-- R261: a page of the heap whose leaf no longer maps it so. -/
def strayed (s : State) (c : Nat) (p : HeapPage) : Bool := heapFrame s c p.va != some p.pa

/-- R261: walks part of the heap range: pages found are added, pages that strayed are withdrawn unless they hold a block. -/
def walkHeap (s : State) (c lo hi : Nat) : State :=
  let x := s.ctx c
  let vas := heapPages x.desc lo hi
  let kept := x.heap.filter (fun p => !(vas.contains p.va && strayed s c p && p.blocks.isEmpty))
  let found := vas.filterMap (fun va => if kept.any (fun p => p.va == va) then none else (heapFrame s c va).map (fun pa => ({ va, pa } : HeapPage)))
  s.setCtx c { x with heap := kept ++ found }

/-- R261: a page that holds a block would be withdrawn. -/
def heapHeld (s : State) (c lo hi : Nat) : Bool :=
  let x := s.ctx c
  let vas := heapPages x.desc lo hi
  x.heap.any (fun p => vas.contains p.va && strayed s c p && !p.blocks.isEmpty)

/-! ### INVAL (R380) -/

/-- R380: INVARG's fields: base and size; none where a bit or the size breaks its limits. -/
def invalRange (a : Nat) : Option (Nat × Nat) :=
  let n := a % 64
  if a / 2 ^ 57 != 0 || bits a 11 6 != 0 || n < 12 || 57 < n then none else some (bits a 56 12 * 4096, 2 ^ n)

/-- R380: the cached translations of a context in a range are dropped. -/
def dropRange (s : State) (c lo n : Nat) : State :=
  { s with tlb := s.tlb.filter (fun e => !(e.ctx == c && e.page * 4096 < lo + n && lo < e.page * 4096 + 4096)) }

/-- The ST of a command of a function on a context that has to exist and be its own (R116). -/
def ctxSt (s : State) (fn c : Nat) : Nat := if (s.ctx c).state == .free || (s.ctx c).state == .killed then 3 else if !ownsCtx s fn c false then 5 else 0

/-- INVAL (R261, R380). It completes once what the context asked of peers is answered. A heap page that keeps its place gives ST 3 after the drop (log 21). -/
def execInval (fn ctx : Nat) (s : State) : Host.Outcome State Fault Refusal :=
  let w := (s.func fn).inval
  if !(cmdGo w && cmdNum w == ctx) then .next s
  else
    let st := ctxSt s fn ctx
    if st != 0 then .next (endInval s fn st)
    else match invalRange (s.func fn).invarg.toNat with
      | none => .next (endInval s fn 4)
      | some (lo, n) =>
        if s.link.reqs.any (fun r => r.2.ctx == ctx) then .next s
        else
          let s := dropRange s ctx lo n
          let held := heapHeld s ctx lo (lo + n)
          let s := if (s.ctx ctx).heapWalked then walkHeap s ctx lo (lo + n) else s
          .next (endInval s fn (if held then 3 else 0))

/-! ### REPLAY (R384, R469) -/

/-- The entry a ticket names, among those in the buffers or in a list. -/
def entryOf (l : List FaultEntry) (ticket : Word) : Option FaultEntry := l.find? (fun e => e.ticket == ticket)

/-- The context whose save image holds the entry. One that came from flash has no tickets (R133). -/
def imageEntry (s : State) (ticket : Word) : Option (Nat × FaultEntry) :=
  s.ctxs.findSome? (fun x => x.2.image.bind (fun i => if i.restart then none else (entryOf i.faults ticket).map (fun e => (x.1, e))))

/-- R384: what a replay does. -/
inductive Replay where
  | retry | fail
  deriving DecidableEq, Repr

def Replay.code : Replay → Nat
  | .retry => 1
  | .fail => 2

/-- R384, R194: a parked lane returns to `run`; a lane outside its group's handler does so at `tret`. A halted group's lanes keep their states (R196). -/
def wakeLane (s : State) (k l : Nat) : State :=
  s.onGroup k (fun g =>
    if g.halted || g.lane l != .parked then g
    else match g.handler with
      | none => g.setLanes (Mask.bit l) .run
      | some h => if h.lanes.has l then g.setLanes (Mask.bit l) .run else { g with handler := some { h with replayed := h.replayed.add l } })

/-- R324, R384: a job loses an entry; with its last it runs again, over the marked groups. -/
def freeTicket (s : State) (id : Nat) (ticket : Word) : State :=
  match lookup s.jobs id with
  | some j =>
    let j := { j with tickets := j.tickets.filter (· != ticket) }
    { s with jobs := insert s.jobs id (if j.state == .partialFault && j.tickets.isEmpty && j.opening.isEmpty then resumeJob j else j) }
  | none =>
    match lookup s.copies id with
    | some c => { s with copies := insert s.copies id ({ c with tickets := c.tickets.filter (· != ticket) } : CopyJob).again }
    | none => s

/-- R312, R384: a job fails as for PROT; one that has attempted every unit ends. -/
def failWork (s : State) (id : Nat) (ticket : Word) (addr : Nat) : State :=
  match lookup s.jobs id with
  | some j =>
    let j := { j with tickets := j.tickets.filter (· != ticket), failCode := if j.failCode == 0 then 3 else j.failCode
                      faultAddr := if j.failCode == 0 then addr else j.faultAddr }
    if j.state == .partialFault then afterUnit s id { j with state := .running } else { s with jobs := insert s.jobs id j }
  | none =>
    match lookup s.copies id with
    | some c => { s with copies := insert s.copies id { c with
        tickets := c.tickets.filter (· != ticket), failCode := if c.failCode == 0 then 3 else c.failCode
        faultAddr := if c.failCode == 0 then addr else c.faultAddr } }
    | none => s

/-- R469: a lane's waits on other entries end when one of them is replayed; a job keeps its own. -/
def dropWaiter (s : State) (w : Waiter) : State :=
  match w with
  | .job _ => s
  | _ => { s with faults := s.faults.map (fun e => { e with waiters := e.waiters.filter (· != w) }) }

/-- The lanes among waiters that are parked on an access, with their groups and PCs. -/
def parkedAt (s : State) (l : List Waiter) : List (Nat × Nat × Nat) := l.filterMap (fun w => match w with
  | .lane k i => (s.group k).bind (fun g => if g.lane i == .parked && !g.halted then some (k, g.pc i, i) else none)
  | _ => none)

/-- R384: the address of an entry. DEDUCED (log 28): the one its record names (R383), where several lanes share it. -/
def FaultEntry.addr (e : FaultEntry) : Nat := field e.record 8 8

/-- R384: FAIL raises XLATE for parked lanes, at each PC they stand at. A group that one of these halts takes no other (R196). -/
def failLanes (s : State) (addr : Nat) (l : List (Nat × Nat × Nat)) : State :=
  ((l.map (fun x => (x.1, x.2.1))).eraseDups).foldl (fun s x =>
    if (s.group x.1).any (·.halted) then s
    else refile (takeTrap s x.1 6 0 x.2 x.2 addr (maskOf ((l.filter (fun y => y.1 == x.1 && y.2.1 == x.2)).map (·.2.2)))) x.1) s

/-- R384: an entry is freed, and its waiters go on or fail. -/
def replayEntry (s : State) (e : FaultEntry) (r : Replay) : State :=
  let fn := (s.ctx e.ctx).desc.func
  let s := { s with faults := s.faults.filter (fun x => x.ticket != e.ticket) }
  let s := s.setFunc fn { s.func fn with waiting := (s.func fn).waiting.filter (fun x => x.1 != e.ticket || x.1 == 0) }
  let s := e.waiters.foldl dropWaiter s
  let s := match r with
    | .retry => s
    | .fail => failLanes s e.addr (parkedAt s e.waiters)
  e.waiters.foldl (fun s w => match w, r with
    | .lane k l, .retry => wakeLane s k l
    | .lane _ _, .fail => s
    | .ccwait k l _, _ => wakeLane s k l
    | .job id, .retry => freeTicket s id e.ticket
    | .job id, .fail => failWork s id e.ticket e.addr) s

/-- R384: an entry of a save image becomes replay pending there, in its byte of the image as well. -/
def replayLater (s : State) (c : Nat) (ticket : Word) (r : Replay) : State :=
  let x := s.ctx c
  match x.image with
  | none => s
  | some i =>
    let mark := fun (e : FaultEntry) => if e.ticket == ticket then { e with state := .replayPending, action := r.code } else e
    let s := s.setCtx c { x with image := some { i with faults := i.faults.map mark } }
    match (i.faults.findIdx? (fun e => e.ticket == ticket)) with
    | none => s
    | some k => match s.writeVA c (i.area + 4096 + 16 * k + 6) [3] with
      | .ok s => s
      | .error f => logDevFault s c f

/-- R192, R351: a FAIL would trap lanes whose group's trap has to wait. -/
def failWaits (s : State) (e : FaultEntry) : Bool := (parkedAt s e.waiters).any (fun x => (s.group x.1).any (fun g => trapAwaits s x.1 g))

/-- R384: a write to REPLAY. An entry of another function's context is left alone. A context that is OUT takes it when it is restored (R126). A FAIL whose traps have to wait for peers is not taken yet (log 64). -/
def replay (s : State) (fn : Nat) (ticket : Word) (r : Replay) : State :=
  match entryOf s.faults ticket with
  | some e =>
    if (s.ctx e.ctx).desc.func != fn then s
    else if (s.ctx e.ctx).image.isSome then
      { s with faults := s.faults.map (fun x => if x.ticket == ticket then { x with state := .replayPending, action := r.code } else x) }
    else if r == .fail && failWaits s e then s
    else replayEntry s e r
  | none =>
    match imageEntry s ticket with
    | none => s
    | some (c, _) => if (s.ctx c).desc.func == fn then replayLater s c ticket r else s

/-- R384: a write to the register REPLAY: ACT in bits [33:32], the ticket in [31:0]. -/
def writeReplay (s : State) (fn : Nat) (w : Dword) : State :=
  match bits w.toNat 33 32 with
  | 1 => replay s fn (w.extractLsb' 0 32) .retry
  | 2 => replay s fn (w.extractLsb' 0 32) .fail
  | _ => s

/-- REPLAY RETRY (R384). -/
def execReplayRetry (fn : Nat) (ticket : Word) (s : State) : Host.Outcome State Fault Refusal := .next (replay s fn ticket .retry)

/-- REPLAY FAIL (R384). -/
def execReplayFail (fn : Nat) (ticket : Word) (s : State) : Host.Outcome State Fault Refusal := .next (replay s fn ticket .fail)

/-! ### Pinned handles (R385, R386) -/

/-- R385: the pin descriptor. -/
structure PinDesc where
  index : Nat
  mem : Nat
  count : Nat
  list : Nat
  deriving DecidableEq, Repr

def pinDescOf (b : List Byte) : PinDesc := { index := field b 0 2, mem := field b 2 1, count := field b 4 4, list := field b 8 8 }

/-- R385: the limits of the fields. -/
def pinDescOk (b : List Byte) : Bool :=
  let d := pinDescOf b
  d.index < 1024 && d.mem < 2 && zeros b 3 4 && 1 ≤ d.count && d.count ≤ 2 ^ 20 && zeros b 16 32

/-- R385: the frame list, read once. -/
def pinFrames (s : State) (d : PinDesc) : List Nat := (List.range d.count).map (fun k => hostValue s (d.list + 8 * k) 8)

/-- R385: a frame is the address of a page of its kind (log 21). -/
def frameOk (mem f : Nat) : Bool := if mem == 1 then f % 4096 == 0 else f % 65536 == 0 && paOk (f + 65535)

/-- PIN (R385). -/
def execPin (fn ctx : Nat) (s : State) : Host.Outcome State Fault Refusal :=
  if !cmdIs (s.func fn).pincmd 1 ctx then .next s
  else
    let st := ctxSt s fn ctx
    let b := hostBytes s (s.func fn).pinarg.toNat 32
    let d := pinDescOf b
    let x := s.ctx ctx
    if st != 0 then .next (endPincmd s fn st)
    else if !pinDescOk b || (lookup x.pins d.index).isSome || !(pinFrames s d).all (frameOk d.mem) then .next (endPincmd s fn 4)
    else .next (endPincmd (s.setCtx ctx { x with pins := insert x.pins d.index { host := d.mem == 1, frames := pinFrames s d } }) fn 0)

/-- An address is a handle with this index. -/
def namesPin (a n : Nat) : Bool := a / 2 ^ 57 == 0x7c && bits a 56 47 == n

/-- R385: a job in the pump, or a COPY, uses a handle. -/
def usesPin (s : State) (c n : Nat) : Bool :=
  s.jobs.any (fun x => x.2.ctx == c && (match x.2.kind with
    | .copy a b _ _ _ _ _ _ => namesPin a n || namesPin b n
    | .plane a _ => namesPin (tidBase a) n
    | _ => false)) || s.copies.any (fun x => x.2.ctx == c && (namesPin x.2.src n || namesPin x.2.dst n))

/-- UNPIN (R385). An index that is not registered breaks its limit. -/
def execUnpin (fn ctx : Nat) (s : State) : Host.Outcome State Fault Refusal :=
  if !cmdIs (s.func fn).pincmd 2 ctx then .next s
  else
    let st := ctxSt s fn ctx
    let b := hostBytes s (s.func fn).pinarg.toNat 32
    let n := (pinDescOf b).index
    let x := s.ctx ctx
    if st != 0 then .next (endPincmd s fn st)
    else if (lookup x.pins n).isNone then .next (endPincmd s fn 4)
    else if usesPin s ctx n then .next s
    else .next (endPincmd (s.setCtx ctx { x with pins := erase x.pins n }) fn 0)

/-! ### The fault queue (R380, R383) -/

/-- R383: FQCTL's fields. -/
def fqHead (w : Dword) : Nat := bits w.toNat 39 24
def fqTail (w : Dword) : Nat := bits w.toNat 23 8
def fqLog (w : Dword) : Nat := bits w.toNat 3 0

/-- R383: the queue is enabled, with n from 6 to 15, and has room. -/
def fqRoom (w : Dword) : Bool := 6 ≤ fqLog w && (fqTail w + 1) % 2 ^ fqLog w != fqHead w % 2 ^ fqLog w

/-- R380: writes a record at TAIL. FQBASE's bit 0 selects its space. -/
def fqStore (s : State) (fn : Nat) (r : List Byte) : Except DevFault State :=
  let f := s.func fn
  let a := f.fqbase.toNat / 4096 * 4096 + 32 * fqTail f.fqctl
  if f.fqbase.getLsbD 0 then s.writeVA 0 a r else .ok (s.hostStore a r)

/-- What the writing of a record of the fault queue comes to. -/
inductive FqPut where
  | put (s : State)
  | kept (s : State)
  deriving DecidableEq, Repr

/-- R383: a record written, TAIL advanced, vector 0 signalled. Without room, or where the write faults, the record is kept (log 21). -/
def fqPut (s : State) (fn : Nat) (r : List Byte) : FqPut :=
  let w := (s.func fn).fqctl
  if !fqRoom w then .kept s
  else match fqStore s fn r with
  | .error f => .kept (logDevFault s 0 f)
  | .ok s =>
    let tail := (fqTail w + 1) % 2 ^ fqLog w
    .put ((s.setFunc fn { s.func fn with fqctl := (w &&& ~~~(0xffff00#64)) ||| BitVec.ofNat 64 (tail * 256) }).signal fn 0)

/-- FAULT_RECORD_WRITE (R383): the first waiting record, if there is room. -/
def execFaultRecordWrite (fn : Nat) (s : State) : Host.Outcome State Fault Refusal :=
  match (s.func fn).waiting with
  | [] => .next s
  | (ticket, r) :: rest =>
    match fqPut s fn r with
    | .kept s => .next s
    | .put s =>
      let s := s.setFunc fn { s.func fn with waiting := rest }
      .next { s with faults := s.faults.map (fun e => if e.ticket == ticket && e.state == .opened then { e with state := .reported } else e) }

/-- R381: a hint's record. -/
def hintRecord (ctx page stack fills : Nat) : List Byte :=
  record 32 [(4, 0), (2, ctx), (1, 2), (1, 0), (8, page), (2, stack), (1, 0), (1, 0), (8, fills)]

/-- The key of a page's line fills and hints. -/
def pageKey (ctx va : Nat) : Nat := ctx * 2 ^ 57 + va / 65536 * 65536

/-- R381: windows of 2^24 clk. -/
def hintWindow (s : State) : Nat := s.clk / 2 ^ 24

/-- R381: a page's line fills in the present window, by quadrant. -/
def fillCounts (s : State) (key : Nat) : List Nat :=
  match lookup s.fills key with
  | some f => if f.window == hintWindow s then f.counts else List.replicate 16 0
  | none => List.replicate 16 0

/-- R381: the home slices count line fills of a page for a quadrant. -/
def countFills (s : State) (ctx page quadrant n : Nat) : State :=
  let key := pageKey ctx page
  let c := fillCounts s key
  { s with fills := insert s.fills key { window := hintWindow s, counts := c.set quadrant (c.getD quadrant 0 + n) } }

/-- R381: the other quadrant with the most fills of a page at home in `own`, where they are at least 4,096 and more than three times its own. -/
def busiest (counts : List Nat) (own : Nat) : Option (Nat × Nat) :=
  let best := (List.range 16).foldl (fun (b : Nat × Nat) q => if q != own && b.2 < counts.getD q 0 then (q, counts.getD q 0) else b) (0, 0)
  if 4096 ≤ best.2 && 3 * counts.getD own 0 < best.2 then some best else none

/-- PLACEMENT_HINT (R381): one record for a page and window that another quadrant fills, if the fault queue has room. -/
def execPlacementHint (ctx page : Nat) (s : State) : Host.Outcome State Fault Refusal :=
  let key := pageKey ctx page
  match walk s.mem (s.ctx ctx).desc.ptroot page with
  | .leaf w _ =>
    if (s.ctx ctx).state == .free || leafMem w != 0 || lookup s.hinted key == some (hintWindow s) then .next s
    else match busiest (fillCounts s key) (paStack (leafFrame w)) with
      | none => .next s
      | some (stack, fills) =>
        match fqPut { s with hinted := insert s.hinted key (hintWindow s) } (s.ctx ctx).desc.func (hintRecord ctx (page / 65536 * 65536) stack fills) with
        | .kept t => .next { t with hinted := s.hinted }
        | .put s => .next s
  | _ => .next s

end Sys2Proof.Machine
end

