-- ==== Sys2Proof/Machine/Retire.lean ====
section
/-! DEFINITION. Machine/Retire: a group retires (R166). -/
namespace Sys2Proof.Machine

/-- R166: the group has finished: its lanes, its counters, its handler and its engine operations. R145: the writes it sent to peers are acknowledged. -/
def mayRetire (s : State) (key : Nat) (g : Group) : Bool :=
  g.live == 0 && g.regs.cc.all (· == 0) && g.handler.isNone && !g.halted && (groupReqs s key).isEmpty &&
    !s.jobs.any (fun x => x.2.group == key) && !s.matops.any (fun x => x.2.group == key) && !s.gateops.any (fun x => x.2.group == key)

/-- R166: a team whose last group has retired frees what it held. -/
def endTeam (s : State) (team : Nat) (launch : Nat) : State :=
  if s.groups.any (fun x => x.2.team == team) then s
  else
    let s := retireTeamRuns { s with teams := erase s.teams team } team
    match lookup s.launches launch with
    | none => s
    | some l => endLaunch (keepReserves (s.setLaunch launch { l with teamsLeft := l.teamsLeft - 1 }) l.ctx) launch

/-- GROUP_RETIRE (R166). -/
def execGroupRetire (core slot : Nat) (s : State) : Host.Outcome State Fault Refusal :=
  let key := groupKey core slot
  match s.group key with
  | none => .next s
  | some g =>
    if (s.ctx g.ctx).state != .active || !mayRetire s key g then .next s
    else
      let s := leaveTeam (unseat s key) g.team (match lookup s.launches g.launch with
        | some l => g.index % l.record.team
        | none => 0)
      let s := match lookup s.launches g.launch with
        | some l => s.setLaunch g.launch { l with gone := l.gone ++ [g.index] }
        | none => s
      .next (endTeam s g.team g.launch)

end Sys2Proof.Machine
end

