-- ==== Sys2Proof/Machine/Sections.lean ====
section
/-! DEFINITION. Machine/Sections: the sections of a save image that R127 names without a layout: the header, the launches, the teams and the tables. DESIGN CHOICE (log 23): how their fields lie is the model's; each list goes after its length, and each number takes 8 bytes where no width is said. -/
namespace Sys2Proof.Machine

/-! ### Bytes of lists -/

def numBytes (n : Nat) : List Byte := leBytes 8 n

def numsBytes (l : List Nat) : List Byte := l.flatMap numBytes

/-- A list of things, after its length. -/
def listBytes {α : Type} (f : α → List Byte) (l : List α) : List Byte := numBytes l.length ++ l.flatMap f

def wordsBytes (l : List Word) : List Byte := listBytes (fun w => leBytes 4 w.toNat) l

def dwordsBytes (l : List Dword) : List Byte := listBytes (fun w => leBytes 8 w.toNat) l

/-- A thing that may be absent. -/
def optBytes {α : Type} (f : α → List Byte) (x : Option α) : List Byte := listBytes f x.toList

/-- A numbered thing, after its number. -/
def keyedBytes {α : Type} (f : α → List Byte) (l : List (Nat × α)) : List Byte := listBytes (fun x => numBytes x.1 ++ f x.2) l

def boolNat (b : Bool) : Nat := if b then 1 else 0

/-! ### The header -/

/-- R117: a descriptor in its own layout. -/
def Desc.bytes (d : Desc) : List Byte :=
  record 256 [(8, d.ptroot.toNat), (2, d.asid), (1, d.prio), (1, 0), (4, d.func), (10, d.pairs.toNat), (6, 0), (8, d.save), (8, d.saveLen),
    (8, d.dump), (8, d.dumpLen), (8, d.slice), (2, d.nslice), (1, boolNat d.auto), (1, 0), (4, d.ckpt), (8, d.errq), (8, d.heapBase), (8, d.heapLen)]

/-- The states of R122, in the order of its table. -/
def CtxState.number : CtxState → Nat
  | .free => 0
  | .killed => 1
  | .opened => 2
  | .active => 3
  | .out => 4
  | .saving => 5
  | .stopped => 6
  | .halted => 7
  | .checkpoint => 8

/-- A queue's number, state, phase and read position. -/
def queuePlace (x : Nat × Queue) : List Byte := record 8 [(2, x.1), (1, x.2.state.code), (1, boolNat x.2.phase), (4, x.2.ri)]

/-- A launch's number, dispatch position and deadline count. -/
def launchPlace (x : Nat × Launch) : List Byte := numsBytes [x.1, x.2.next, x.2.count]

/-- R127: the header. What 4 KiB do not hold is left out. -/
def headerBytes (s : State) (c : Nat) : List Byte :=
  let x := s.ctx c
  let b := numBytes x.state.number ++ x.desc.bytes ++ listBytes launchPlace (s.launches.filter (fun y => y.2.ctx == c)) ++
    listBytes queuePlace (s.queues.filter (fun y => y.2.desc.ctx == c))
  b.take 4096 ++ List.replicate (4096 - b.length) 0

/-! ### The launches -/

def LaunchRec.bytes (r : LaunchRec) : List Byte :=
  numsBytes [r.entry, r.x, r.y, r.z, r.width, r.team, boolNat r.pair, r.deadline, r.data.toNat, r.privBase, r.privSz, r.cistern, r.sump, r.bars,
    r.affBase, r.affStride, r.seeds, r.args, r.join] ++ listBytes (fun c => numsBytes [c.reg, c.maxk]) r.chain

def Origin.bytes : Origin → List Byte
  | .spawn => numsBytes [0]
  | .packet q t c i => numsBytes [1, q, t.toNat, c, boolNat i]
  | .sequencer r => numsBytes [2, r]

/-- The publications of a chain slot that an item has not consumed, after its reads. -/
def ChainItem.bytes (x : ChainItem) : List Byte := numBytes x.reads ++ wordsBytes x.pubs

/-- A launch with the unconsumed publications of its chain registers, and what of it has run. -/
def Launch.bytes (l : Launch) : List Byte :=
  numsBytes [l.order, l.addr, l.liveX, l.liveY, l.liveZ, l.next, l.teamsLeft, l.count, boolNat l.started, boolNat l.monitored, boolNat l.faulted] ++
    l.record.bytes ++ l.origin.bytes ++ keyedBytes ChainItem.bytes l.chain ++ dwordsBytes l.args ++ wordsBytes l.seeds ++
    listBytes numBytes l.gone ++ listBytes numBytes l.returned ++ keyedBytes (listBytes numBytes) l.batches ++
    optBytes (fun v => numBytes v.run ++ dwordsBytes v.values) l.ivarg

/-- R127: the launches. -/
def launchSection (l : List (Nat × Launch)) : List Byte := keyedBytes Launch.bytes l

/-! ### The teams -/

def TileState.number : TileState → Nat
  | .empty => 0
  | .filling => 1
  | .ready => 2
  | .draining => 3

def Tile.bytes (t : Tile) : List Byte :=
  numsBytes [t.state.number, t.prec, t.fmt, t.space, t.rows, t.rb, t.base, t.rd, t.wr, boolNat t.phys]

def Bar.bytes (b : Bar) : List Byte := numsBytes [b.arr.toNat, b.gen]

def Handoff.bytes (h : Handoff) : List Byte :=
  let held := listBytes (fun (x : Nat × Nat) => numsBytes [x.1, x.2])
  numsBytes [h.offset, h.cap, h.head, h.tail] ++ held h.pushes ++ held h.pops ++ held h.filling

/-- A team: its places and allocations, its tile entries, barrier slots, queues and gate programs. -/
def Team.bytes (t : Team) : List Byte :=
  numsBytes [t.launch, t.index, t.live.toNat, t.accepted, boolNat t.ringsUpset] ++ listBytes numBytes t.cores ++ listBytes numBytes t.groups ++
    listBytes numBytes t.cistern ++ listBytes numBytes t.sump ++ keyedBytes Tile.bytes t.tiles ++ listBytes Bar.bytes t.bars ++
    keyedBytes Handoff.bytes t.handoff ++ keyedBytes wordsBytes t.gates

/-- R127: the teams; the bytes of their allocations, each after its place; the tag arrays of the cores (R247); and which launch and team each group is of. -/
def teamSection (teams : List (Nat × Team)) (cells : List Host.Cell) (tags : List (Nat × List (Nat × Nat))) (groups : List (Nat × Group)) : List Byte :=
  keyedBytes Team.bytes teams ++ listBytes (fun x => numBytes x.1 ++ [x.2]) cells ++
    keyedBytes (listBytes (fun x => numsBytes [x.1, x.2])) tags ++ keyedBytes (fun g => numsBytes [g.launch, g.team, g.age]) groups

/-! ### The tables -/

def StreamOp.bytes : StreamOp → List Byte
  | .gate n => numsBytes [0, n]
  | .job n => numsBytes [1, n]

def Pin.bytes (p : Pin) : List Byte := numBytes (boolNat p.host) ++ listBytes numBytes p.frames

def HeapPage.bytes (p : HeapPage) : List Byte := numsBytes [p.va, p.pa] ++ listBytes (fun x => numsBytes [x.1, x.2]) p.blocks

def KeptEnd.number : KeptEnd → Nat
  | .none => 0
  | .lo => 1
  | .hi => 2

def Locate.bytes (x : Locate) : List Byte :=
  numsBytes [x.lo.toNat, x.hi.toNat, x.kept.number, x.it, x.m, x.th.toNat] ++ wordsBytes x.glo ++ wordsBytes x.fl ++ wordsBytes x.ghi ++
    wordsBytes x.fh ++ wordsBytes x.g1

def RunLaunch.number : RunLaunch → Nat
  | .rhs => 0
  | .solve => 1
  | .event .opening => 2
  | .event .stepEnd => 3
  | .event .trial => 4

/-- A run: its record as R391 lays it out, and its sequencer's state. -/
def Run.bytes (r : Run) : List Byte :=
  r.rec_.bytes ++ numsBytes [r.core, r.at_, r.step.toNat, r.ti.toNat, r.gamma.toNat, r.up, r.down, r.eblk, r.etime.toNat, boolNat r.rest, r.budget,
    r.steps, boolNat r.dead, boolNat r.auto, r.before.code] ++
    optBytes numBytes r.team ++ optBytes numBytes r.atKey ++ optBytes (fun f => numBytes f.number) r.flight ++
    optBytes (fun b => numBytes (boolNat b)) r.landed ++ optBytes Locate.bytes r.locate ++
    optBytes (fun p => numsBytes [p.queue, p.tag.toNat, p.completion, boolNat p.irq]) r.packet ++
    wordsBytes r.tab ++ wordsBytes r.gp ++ keyedBytes dwordsBytes r.ids

/-- R127: the tables: tensor identifiers, streams, tableaux, run records, pins and the heap allocators. -/
def tableSection (x : Ctx) (runs : List (Nat × Run)) : List Byte :=
  keyedBytes dwordsBytes x.tids ++ keyedBytes dwordsBytes x.streams ++ keyedBytes (listBytes StreamOp.bytes) x.streamOps ++
    keyedBytes wordsBytes x.tableaux ++ keyedBytes Run.bytes runs ++ keyedBytes Pin.bytes x.pins ++ listBytes HeapPage.bytes x.heap

end Sys2Proof.Machine
end

