-- ==== Sys2Proof/Machine/Save.lean ====
section
/-! DEFINITION. Machine/Save: saves and restores of a context, its save image, and KILL (R111, R112, R115, R124 to R128). -/
namespace Sys2Proof.Machine

/-! ### What a context has on the device -/

def ctxGroups (s : State) (c : Nat) : List (Nat × Group) := s.groups.filter (fun x => x.2.ctx == c)
def ctxTeams (s : State) (c : Nat) : List (Nat × Team) := s.teams.filter (fun x => x.2.ctx == c)
def ctxJobs (s : State) (c : Nat) : List (Nat × Job) := s.jobs.filter (fun x => x.2.ctx == c)

/-- The cores of a partition. -/
def coresOf (d : Desc) : List Nat := (pairsOf d).flatten

/-- A key lies in a core's cistern or sump. -/
def onCore (k core : Nat) : Bool :=
  (cisternKey core 0 ≤ k && k < cisternKey (core + 1) 0) || (sumpKey core 0 ≤ k && k < sumpKey (core + 1) 0)

/-- R125: a queue's command processor has finished the packet it holds, or it waits behind FENCE or on a condition. -/
def queueQuiet (q : Queue) : Bool := q.state != .active || q.packet.isEmpty || (fenceHolds q && q.run.all (fun r => r.started || q.fence))

/-- R125: everything that a save waits for has come to its end. -/
def quiet (s : State) (c : Nat) : Bool :=
  (s.queues.filter (fun x => x.2.desc.ctx == c)).all (fun x => queueQuiet x.2) &&
    (ctxGroups s c).all (fun x => x.2.pend.all (·.arrived)) &&
    !s.matops.any (fun x => x.2.ctx == c) && !s.gateops.any (fun x => x.2.ctx == c) && !s.link.reqs.any (fun r => r.2.ctx == c) &&
    (ctxJobs s c).all (fun x => match x.2.kind with
      | .sexp .. => false
      | .simp .. => false
      | _ => true)

/-! ### The save (R125, R127) -/

/-- R125: a group at its instruction boundary, with the results of its long-latency instructions written, its standpipe written back, and every word read (R115). An evicted group is saved with the results that have come since. -/
def stillGroup (s : State) (x : Nat × Group) : State :=
  let s := s.setGroup x.1 (settle (cleanStaged (closeWindows x.2)))
  (saveParity s x.1).onGroup x.1 (fun g => { g with partition := none, staged := [], yields := [], evicted := false, saved := [] })

/-- R312: a pump job suspends; a faulted-partial one stays so, and one that only has to leave the pump. -/
def suspendJob (s : State) (x : Nat × Job) : State :=
  if x.2.state == .partialFault || x.2.state == .done || x.2.state == .failed then s
  else
    let (s, j) := putWord7 s x.1 { x.2 with inbox := [] }
    { s with jobs := insert s.jobs x.1 { j with state := .suspended } }

/-- R394: a run that is not at rest is suspended in its state. -/
def suspendRun (r : Run) : Run :=
  if r.rest then r else { r with before := r.rec_.state, rec_ := { r.rec_ with state := .suspended } }

/-- R382: a fault entry's state as its byte. -/
def FaultState.code : FaultState → Nat
  | .opened => 1
  | .reported => 2
  | .replayPending => 3

def FaultState.ofCode : Nat → FaultState
  | 1 => .opened
  | 2 => .reported
  | _ => .replayPending

/-- R382: a fault entry's 16 bytes. -/
def entryBytes (e : FaultEntry) : List Byte :=
  leBytes 4 e.ticket.toNat ++ leBytes 2 e.ctx ++ leBytes 1 e.state.code ++ leBytes 1 e.reason ++ leBytes 8 (e.page + (if e.write then 1 else 0))

/-- R315: the word of a footprint, zero for none. -/
def footWord : Option Foot → Nat
  | none => 0
  | some f => f.sp * 2 ^ 57 + f.base + f.lsz

/-- R314, R327: a suspended job's card, with bytes-done and mask; a plane job's is followed by the two identifier records it read. DESIGN CHOICE (log 23): a plane card's SRC and DST are zero, and its LEN counts blocks. -/
def jobCard (j : Job) : List Byte :=
  let counter := match j.counter with
    | none => 0
    | some n => 2 ^ 36 + n * 2 ^ 32
  let card := fun (src dst xp w3 : Nat) => leBytes 8 src ++ leBytes 8 dst ++ leBytes 8 (xp * 2 ^ 37 + counter + j.len % 2 ^ 32) ++ leBytes 8 w3 ++
    leBytes 8 (footWord j.reads[0]?) ++ leBytes 8 (footWord j.reads[1]?) ++ leBytes 8 (footWord j.writes[0]?) ++ leBytes 8 (jobWord7 j)
  match j.kind with
  | .copy src dst xp cols spitch dpitch _ _ =>
    card src dst xp (if xp == 0 then 0 else j.len / (cols * xp) + cols * 2 ^ 16 + spitch * 2 ^ 32 + dpitch * 2 ^ 48)
  | .plane src dst => card 0 0 3 0 ++ (src ++ dst).flatMap (fun w => leBytes 8 w.toNat)
  | _ => []

/-- Pieces put one after the other, each with the address it gets. -/
def placeFrom {α : Type} : Nat → List (α × List Byte) → List (α × Nat × List Byte)
  | _, [] => []
  | at_, x :: r => (x.1, at_, x.2) :: placeFrom (at_ + x.2.length) r

/-- Writes pieces of an image, each a section or a record of one. One that faults is left unwritten (log 23); R375: a malformed entry is logged. -/
def writePieces (c : Nat) (s : State) (l : List (Nat × List Byte)) : State :=
  l.foldl (fun s x => match s.writeVA c x.1 x.2 with
    | .ok s => s
    | .error f => logDevFault s c f) s

/-- R127: the image: its sections in their order, as pieces with their addresses. -/
def buildImage (s : State) (c area : Nat) : Image × List (Nat × List Byte) :=
  let x := s.ctx c
  let gs := ctxGroups s c
  let ts := ctxTeams s c
  let js := ctxJobs s c
  let es := s.faults.filter (fun e => e.ctx == c)
  let tags := (coresOf x.desc).map (fun k => (k, (s.core k).tags))
  let cells := s.mem.filter (fun y => (coresOf x.desc).any (onCore y.1))
  let header := headerBytes s c
  let entries := es.flatMap entryBytes
  let launches := launchSection (s.launches.filter (fun y => y.2.ctx == c))
  let teams := teamSection ts cells tags gs
  let tables := tableSection x (s.runs.filter (fun y => y.2.ctx == c))
  let lead := header ++ entries ++ launches ++ teams
  let rs := placeFrom (area + lead.length) (gs.map (fun g => (g.1, groupRecord s g.1 g.2)))
  let records := rs.flatMap (·.2.2)
  let cs := placeFrom (area + lead.length + records.length) (js.map (fun j => (j.1, jobCard j.2)))
  let bytes := lead ++ records ++ cs.flatMap (·.2.2) ++ tables
  let last := (area + bytes.length - tables.length, tables)
  let first := area + header.length + entries.length
  ({ groups := gs, teams := ts, jobs := js, faults := es, area, bytes, tags, cells
     records := rs.map (fun r => (r.1, r.2.1, r.2.2.length)), cards := cs.map (fun r => (r.1, r.2.1))
     sections := [(area, header), (first, launches), (first + launches.length, teams), last] },
   (area, lead) :: rs.map (·.2) ++ cs.map (·.2) ++ [last])

/-- R127: the trap save areas of a context's handlers that peers have still to send are asked for; none when all are there. -/
def askAreas (s : State) (c : Nat) : Option State :=
  let (t, wait) := (ctxGroups s c).foldl (fun (x : State × Bool) g =>
    if g.2.handler.isNone then x
    else match areaLines g.1 g.2 28 (g.2.sreg 63).toNat x.1 with
      | .wait t => (t, true)
      | _ => x) (s, false)
  if wait then some t else none

/-- R125, R127: what a save comes to: the state with the image taken and written, and the bytes it needs. A piece that does not fit into the area is not written. -/
def takeImage (s : State) (c area room : Nat) : State × Nat :=
  let s := (ctxGroups s c).foldl stillGroup s
  let s := (ctxJobs s c).foldl suspendJob s
  let s := { s with runs := s.runs.map (fun x => if x.2.ctx == c then (x.1, suspendRun x.2) else x) }
  let (image, pieces) := buildImage s c area
  let s := writePieces c s (pieces.filter (fun p => p.1 + p.2.length ≤ area + room))
  (s.setCtx c { s.ctx c with image := some image }, image.bytes.length)

/-- R164: the team indices a launch's dies fetched and have not placed, ascending. -/
def gaveBack (l : Launch) : List Nat := (List.range l.next).filter (fun t => l.returned.contains t || l.batches.any (fun b => b.2.contains t))

/-- The context leaves the cores, the pump and the fault buffers. -/
def leaveCores (s : State) (c : Nat) : State :=
  let fn := (s.ctx c).desc.func
  let tickets := (s.faults.filter (fun e => e.ctx == c)).map (·.ticket)
  let s := s.setFunc fn { s.func fn with waiting := (s.func fn).waiting.filter (fun x => !tickets.contains x.1) }
  let keys := (ctxGroups s c).map (·.1)
  let s := keys.foldl unseat s
  { s with
    teams := s.teams.filter (fun x => x.2.ctx != c)
    jobs := s.jobs.filter (fun x => x.2.ctx != c)
    faults := s.faults.filter (fun e => e.ctx != c)
    launches := s.launches.map (fun x => if x.2.ctx == c then
      (x.1, { x.2 with reserve := none, batches := [], returned := gaveBack x.2 }) else x)
    queues := s.queues.map (fun x => if x.2.desc.ctx == c then (x.1, { x.2 with unit := none }) else x) }

/-! ### The restore (R126) -/

/-- R126, R133: bytes of an image, from where it stands in the context's memory, or from flash. -/
def imagePiece (s : State) (c : Nat) (i : Image) (at_ n : Nat) : Except DevFault (List Byte) :=
  if i.restart then .ok ((i.bytes.drop (at_ - i.area)).take n) else (s.readVA c at_ n).map (·.1)

/-- R375: the faults that the reading of pieces of an image meets are logged. -/
def logPieces (s : State) (c : Nat) (i : Image) (l : List (Nat × Nat)) : State :=
  l.foldl (fun s p => match imagePiece s c i p.1 p.2 with
    | .ok _ => s
    | .error f => logDevFault s c f) s

/-- R126: the trap save area that a record holds is back in memory. -/
def putArea (s : State) (key : Nat) (g : Group) (b : List Byte) : State :=
  if g.handler.isNone then s
  else match s.storeVA key g.ctx (g.sreg 63).toNat (b.take 1792) with
    | .ok s => s
    | .error f => logDevFault s g.ctx f

/-- R128: chain positions of a group's record go back to its launch. -/
def putChains (s : State) (g : Group) (b : List Byte) : State :=
  match lookup s.launches g.launch with
  | none => s
  | some l => s.setLaunch g.launch (readChains s.env.tick b g l)

/-- DESIGN CHOICE (log 23): a section without a layout of the manual's that is not as the save left it rejects the image, as a record does (R112): the address of the first. -/
def changedSection (s : State) (c : Nat) (i : Image) (l : List (Nat × List Byte)) : Option Nat :=
  (l.find? (fun x => (imagePiece s c i x.1 x.2.length).toOption != some x.2)).map (·.1)

/-- R112, R126: reads the records of an image's groups; the address of the first that is rejected. -/
def readGroups (s : State) (c : Nat) (i : Image) : List (Nat × Group) → Except Nat (List (Nat × Group) × State)
  | [] => .ok ([], s)
  | x :: r =>
    let (at_, n) := (lookup i.records x.1).getD (0, 0)
    match imagePiece s c i at_ n with
    | .error _ => .error at_
    | .ok b =>
      match readGroup x.2 b with
      | none => .error at_
      | some (g, rest) => (readGroups (putChains (putArea s x.1 g rest) g b) c i r).map (fun y => ((x.1, g) :: y.1, y.2))

/-- A job as its card holds it: its ranges, its counter and its footprints, and as missing units those its mask marks. -/
def readCard (j : Job) (b : List Byte) : Job :=
  let c := cardOf b
  let j := { j with len := c.len, counter := if c.cv then some c.cnt else none, reads := footOf c.fpa ++ footOf c.fpb, writes := footOf c.fpw }
  let j := match j.kind with
    | .copy _ _ _ _ _ _ x y => { j with kind := .copy c.src c.dst c.xp c.cols c.spitch c.dpitch x y, units := ceilDiv c.len 512 }
    | .plane .. =>
      let w := fun (k : Nat) => (List.range 8).map (fun n => BitVec.ofNat 64 (field b (64 + 64 * k + 8 * n) 8))
      { j with kind := .plane (w 0) (w 1), units := c.len }
    | _ => j
  { j with todo := [], missing := (List.range j.units).filter (fun u => (c.w7 / 2 ^ 32).testBit (u / maskGroup j)) }

/-- R112, R126: the groups of an image, its sections checked in their order; the address of what is rejected. -/
def readImage (s : State) (c : Nat) (i : Image) : Except Nat (List (Nat × Group) × State) :=
  match changedSection s c i (i.sections.take 3) with
  | some a => .error a
  | none =>
    match readGroups s c i i.groups with
    | .error a => .error a
    | .ok x =>
      match changedSection s c i (i.sections.drop 3) with
      | some a => .error a
      | none => .ok x

/-- R126: the jobs of an image, from their cards. A card that cannot be read leaves the job as it was saved (log 23). -/
def readJobs (s : State) (c : Nat) (i : Image) : List (Nat × Job) :=
  i.jobs.map (fun x => match (lookup i.cards x.1).bind (fun at_ => (imagePiece s c i at_ (jobCard x.2).length).toOption) with
    | some b => (x.1, readCard x.2 b)
    | none => x)

/-- R126, R384: the fault entries of an image, with their states as the image holds them. -/
def readFaults (s : State) (c : Nat) (i : Image) : List FaultEntry :=
  i.faults.zipIdx.map (fun x => match imagePiece s c i (i.area + 4096 + 16 * x.2) 16 with
    | .ok b => { x.1 with state := .ofCode (field b 6 1) }
    | .error _ => x.1)

/-- The pieces of an image that a restore reads, as addresses with lengths: the sections, the records, the cards, the fault entries. -/
def Image.pieces (i : Image) : List (Nat × Nat) :=
  i.sections.map (fun x => (x.1, x.2.length)) ++ i.records.map (·.2) ++ i.jobs.filterMap (fun x => (lookup i.cards x.1).map (fun at_ => (at_, (jobCard x.2).length))) ++
    (List.range i.faults.length).map (fun k => (i.area + 4096 + 16 * k, 16))

/-- R312: a suspended job waits again, and continues from its mask. -/
def awakeJob (j : Job) : Job :=
  if j.state == .suspended then { resumeJob j with state := .waiting } else j

/-- The memory of a partition's cores as the image holds it. -/
def putCells (m : List Host.Cell) (cores : List Nat) (cells : List Host.Cell) : List Host.Cell :=
  cells.foldl (fun m x => Memory.write m x.1 x.2) (m.filter (fun y => !cores.any (onCore y.1)))

/-- R126: fault entries are reinstated; those a replay was written for meanwhile take effect. -/
def awakeFaults (s : State) (c : Nat) (l : List FaultEntry) : State :=
  let fn := (s.ctx c).desc.func
  let s := { s with faults := s.faults ++ l }
  let s := s.setFunc fn { s.func fn with waiting := (s.func fn).waiting ++ (l.filter (fun e => e.state == .opened)).map (fun e => (e.ticket, e.record)) }
  (l.filter (fun e => e.state == .replayPending)).foldl (fun s e => replayEntry s e (if e.action == 2 then .fail else .retry)) s

/-- A group is back in its slot; where its words do not fit beside the others' it stays out of the main file, as an evicted group does (R106). -/
def seatGroup (s : State) (x : Nat × Group) : State :=
  let core := x.1 / 64
  let fits := coreWords s core + groupWords x.2 ≤ mainFileWords
  let x := (x.1, { x.2 with since := s.clk, stalled := false, evicted := !fits, saved := if fits then [] else vectorBlock x.2 })
  let s := s.setCore core { s.core core with idle := false, fullSince := if residents s core == 0 then s.clk else (s.core core).fullSince }
  let s := makeWords (s.setGroup x.1 x.2) core
  if fits then givePart s x.1 else s

/-- R126, R384: replays that came while the context was OUT, of entries that a RESUME had opened (R133), take effect. -/
def replayDue (s : State) (c : Nat) : State :=
  (s.faults.filter (fun e => e.ctx == c && e.state == .replayPending)).foldl (fun s e => replayEntry s e (if e.action == 2 then .fail else .retry)) s

/-- R126: the image is back on the device, in its old places, and the context is ACTIVE. -/
def putImage (s : State) (c : Nat) (i : Image) (gs : List (Nat × Group)) : State :=
  let x := s.ctx c
  let s := s.setCtx c { x with image := none, state := .active, sliceDue := false }
  let s := { s with
    mem := putCells s.mem (coresOf x.desc) i.cells
    teams := s.teams ++ i.teams
    jobs := s.jobs ++ i.jobs.map (fun y => (y.1, awakeJob y.2))
    runs := s.runs.map (fun y => if y.2.ctx == c && y.2.rec_.state == .suspended then (y.1, { y.2 with rec_ := { y.2.rec_ with state := y.2.before } }) else y) }
  let s := i.tags.foldl (fun s y => s.setCore y.1 { s.core y.1 with tags := y.2 }) s
  let s := gs.foldl seatGroup s
  keepReserves (replayDue (awakeFaults s c i.faults) c) c

/-! ### After a restart (R133) -/

/-- A page that an address of a job reaches lies in host memory: by its leaf, or by its handle. DESIGN CHOICE (log 23): a page that is not mapped when the RESUME is issued is no host page, and gets no entry. -/
def hostAt (s : State) (c a : Nat) : Bool :=
  if a / 2 ^ 57 == 0x7c then (lookup (s.ctx c).pins (bits a 56 47)).any (·.host)
  else match walk s.mem (s.ctx c).desc.ptroot a with
    | .leaf w _ => leafMem w == 1
    | _ => false

/-- The granules, with whether they are written, that a unit of a job reaches outside the core. -/
def unitPages (j : Job) (u : Nat) : List (Nat × Bool) :=
  let ps : List (Nat × Bool) := match j.kind with
    | .copy _ _ _ _ _ _ a b => (sectorPieces j u).flatMap (fun p =>
        (if a then [] else [(p.1, false)]) ++ (if b then [] else [(p.2.1, true)]))
    | .plane r _ => (planeSrc r u).map (fun p => (p.1, false))
    | _ => []
  (ps.filter (fun p => p.1 / 2 ^ 57 == 0 || p.1 / 2 ^ 57 == 0x7c)).map (fun p => (p.1 / 4096 * 4096, p.2))

/-- R133: the host pages a job still has to copy in its marked groups. -/
def jobHostPages (s : State) (j : Job) : List (Nat × Bool) :=
  let m := markedGroups j
  ((((List.range j.units).filter (fun u => m.contains (u / maskGroup j))).flatMap (unitPages j)).filter (fun p => hostAt s j.ctx p.1)).eraseDups

/-- R133: after a restart a suspended job that addresses host memory is faulted-partial, and its host pages want fresh entries. One that has no host page left continues from its mask. -/
def restartJob (s : State) (x : Nat × Job) : Nat × Job :=
  let ps := jobHostPages s x.2
  if ps.isEmpty then (x.1, { x.2 with state := .suspended, tickets := [], opening := [] })
  else (x.1, { x.2 with state := .partialFault, missing := x.2.missing ++ x.2.todo, todo := [], tickets := [], opening := ps })

/-- Lanes parked on a translation fault return to `run` (R133). -/
def unpark (g : Group) : Group := g.setLanes (g.inState .parked) .run

/-- R247: a context that comes to its cores for the first time finds every tag clear there. -/
def clearTags (s : State) (d : Desc) : State := (coresOf d).foldl (fun s k => s.setCore k { s.core k with tags := [] }) s

/-- What a restore comes to. -/
inductive Restored where
  | ok (s : State)
  | rejected (s : State)
  deriving DecidableEq, Repr

/-- R112, R122: the image is rejected at an address, and the context halts. -/
def rejectImage (s : State) (c a : Nat) : State :=
  report (s.setCtx c { s.ctx c with state := .halted, sliceDue := false }) c (record 64 [(2, 6), (2, 2), (4, 0), (8, a)])

/-- R133: the jobs of an image that a restart left without entries open theirs. -/
def openAll : List (Nat × Job) → State → List (Nat × Job) × State
  | [], s => ([], s)
  | x :: r, s =>
    let (s, j) := openSome x.1 x.2.opening (s, x.2)
    let y := openAll r s
    ((x.1, j) :: y.1, y.2)

/-- R133: what a RESUME makes of an image from flash, once: parked lanes are in `run`, its jobs are faulted-partial and their pages have fresh entries. -/
def readyImage (s : State) (c : Nat) : Restored :=
  match (s.ctx c).image.filter (fun i => i.restart && !i.ready) with
  | none => .ok s
  | some i =>
    match readImage s c i with
    | .error a => .rejected (rejectImage s c a)
    | .ok (gs, s) =>
      let (jobs, s) := openAll ((readJobs s c i).map (restartJob s)) s
      .ok (s.setCtx c { s.ctx c with image := some { i with groups := gs.map (fun x => (x.1, unpark x.2)), jobs, faults := [], ready := true } })

/-- R112, R122, R126: restores a context from its image, or rejects that. -/
def restoreImage (s : State) (c : Nat) : Restored :=
  match (s.ctx c).image with
  | none => .ok ((clearTags s (s.ctx c).desc).setCtx c { s.ctx c with state := .active, sliceDue := false })
  | some i =>
    if i.restart then .ok (putImage s c i i.groups)
    else
      let s := logPieces s c i i.pieces
      match readImage s c i with
      | .error a => .rejected (rejectImage s c a)
      | .ok (gs, s) => .ok (putImage s c { i with faults := readFaults s c i, jobs := readJobs s c i } gs)

/-- R112, R122, R126, R133: restores a context, or rejects its image. -/
def restore (s : State) (c : Nat) : Restored :=
  match readyImage s c with
  | .rejected s => .rejected s
  | .ok s => restoreImage s c

/-! ### KILL (R124) -/

/-- R145, R124: the work of a context is abandoned: completion records with STATUS 2. -/
def killWork (s : State) (c : Nat) : State :=
  let s := (s.copies.filter (fun x => x.2.ctx == c)).foldl (fun s x => endCopy s x.1 x.2 2) s
  let s := killRuns s c
  (s.launches.filter (fun x => x.2.ctx == c)).foldl (fun s x =>
    let s := { s with launches := erase s.launches x.1 }
    match x.2.origin with
    | .packet .. => tellOrigin s x.1 x.2 2
    | _ => s) s

/-- R124: everything of the context stops at once, and nothing is saved; the plane arrays it used come to rest (R23). -/
def killCtx (s : State) (c : Nat) : State :=
  let cores := ((s.matops.filter (fun x => x.2.ctx == c)).map (·.2.core)).eraseDups
  let s := cores.foldl restArray { s with matops := s.matops.filter (fun x => x.2.ctx != c), gateops := s.gateops.filter (fun x => x.2.ctx != c) }
  let s := leaveCores s c
  let s := killWork s c
  let s := (s.queues.filter (fun x => x.2.desc.ctx == c && x.2.state != .disabled)).foldl (fun s x => killQueue s x.1) s
  let s := { s with tlb := s.tlb.filter (fun e => e.ctx != c) }
  s.setCtx c { s.ctx c with state := .killed, image := none, sliceDue := false }

end Sys2Proof.Machine
end

