-- ==== Sys2Proof/Machine/Context.lean ====
section
/-! DEFINITION. Machine/Context: the commands and states of a context, deadlines and gang slices (R116 to R130). -/
namespace Sys2Proof.Machine

/-! ### CREATE (R116 to R118, R121) -/

/-- R117: the descriptor. -/
def descOf (b : List Byte) : Desc :=
  { ptroot := BitVec.ofNat 64 (field b 0 8), asid := field b 8 2, prio := field b 10 1, func := field b 12 4, pairs := BitVec.ofNat 80 (field b 16 10)
    save := field b 32 8, saveLen := field b 40 8, dump := field b 48 8, dumpLen := field b 56 8, slice := field b 64 8, nslice := field b 72 2
    auto := (field b 74 1).testBit 0, ckpt := field b 76 4, errq := field b 80 8, heapBase := field b 88 8, heapLen := field b 96 8 }

/-- R372: the limits of PTROOT. -/
def ptrootOk (x : Nat) : Bool := x % 4096 == 0 && x / 2 ^ 41 == 0 && paOk x

/-- R117, R118: the limits of the fields. -/
def descOk (b : List Byte) : Bool :=
  let d := descOf b
  ptrootOk d.ptroot.toNat && d.prio < 8 && zeros b 11 12 && d.func ≤ 64 && d.pairs != 0 && zeros b 26 32 && d.save % 65536 == 0 && d.dump % 65536 == 0 &&
    d.slice % 64 == 0 && (if d.slice == 0 then d.nslice == 0 else 1 ≤ d.nslice && d.nslice ≤ 256) && field b 74 1 < 2 && zeros b 75 76 &&
    d.errq != 0 && d.errq % 4096 == 0 && d.heapBase % 65536 == 0 && d.heapLen % 65536 == 0 && (d.heapBase != 0 || d.heapLen == 0) && zeros b 104 256

/-- R117, R449: the pairs lie in the pool of the function that FUNC names; the physical function's are all. A virtual function names itself (log 24). -/
def poolOk (s : State) (fn : Nat) (d : Desc) : Bool :=
  (fn == physical || d.func == fn) && (d.func == physical || d.pairs &&& ~~~(s.func d.func).poolPairs == 0)

/-- R449: contexts a function holds. -/
def ctxsOf (s : State) (fn : Nat) : Nat := (s.ctxs.filter (fun x => x.2.state != .free && x.2.owner == fn)).length

/-- R449: a virtual function holds as many contexts as it may. -/
def ctxsFull (s : State) (fn : Nat) : Bool := fn != physical && (s.func fn).poolCtxs ≤ ctxsOf s fn

/-- R118: opens the error queue a descriptor names: its LOG2N, read once. TAIL starts at 0 (log 24). -/
def openErrq (s : State) (c : Nat) (d : Desc) : Option (ErrQ × State) :=
  match s.readVA c d.errq 1 with
  | .error _ => none
  | .ok (b, s) => let n := field b 0 1; if 4 ≤ n && n ≤ 16 then some ({ addr := d.errq, log2n := n }, s) else none

/-- CREATE (R116, R117, R122). DESIGN CHOICE (log 20): a descriptor line with an uncorrectable error ends it with ST 4. -/
def execCreate (fn ctx : Nat) (s : State) : Host.Outcome State Fault Refusal :=
  let x := s.ctx ctx
  if !cmdIs (s.func fn).ctxcmd 1 ctx then .next s
  else if x.state != .free && x.owner != fn then .next (endCtxcmd s fn 5)
  else if x.state != .free then .next (endCtxcmd s fn 3)
  else
    let at_ := (s.func fn).ctxdesc.toNat
    let b := hostBytes s at_ 256
    let d := descOf b
    if at_ % 256 != 0 || s.badLine (s.busKey at_) || !descOk b || !poolOk s fn d || ctxsFull s fn then .next (endCtxcmd s fn 4)
    else
      let t := { s with tlb := s.tlb.filter (fun e => e.ctx != ctx) }
      match openErrq (t.setCtx ctx { owner := fn, desc := d, state := .opened, ckptClk := s.clk }) ctx d with
      | none => .next (endCtxcmd s fn 4)
      | some (q, t) => .next (endCtxcmd (t.setCtx ctx { t.ctx ctx with errq := q }) fn 0)

/-! ### RESUME (R121, R122, R126) -/

/-- R121: partitions overlap. -/
def overlaps (a b : Desc) : Bool := a.pairs &&& b.pairs != 0

/-- The place of a context's slice table. -/
def sliceAt (s : State) (c : Nat) : Option Loc :=
  let x := s.ctx c
  if x.desc.slice == 0 then none
  else match walk s.mem x.desc.ptroot x.desc.slice with
    | .leaf w _ => some (leafLoc w x.desc.slice)
    | _ => none

/-- R121: two contexts name the same slice table. -/
def sameSlice (s : State) (a b : Nat) : Bool := (sliceAt s a).isSome && sliceAt s a == sliceAt s b

/-- R121: a context that holds its partition or waits for it. -/
def inUse (x : Ctx) : Bool := x.state != .free && x.state != .killed && x.state != .opened && x.state != .stopped

/-- R121: the pairs of a context are in other hands: another context that overlaps it is ACTIVE, or has not left them yet. -/
def pairsHeld (s : State) (c : Nat) : Bool :=
  s.ctxs.any (fun y => y.1 != c && overlaps y.2.desc (s.ctx c).desc &&
    (y.2.state == .active || y.2.state == .saving || y.2.state == .killed || (y.2.state == .checkpoint && y.2.prior == .active)))

/-- R121: a RESUME would break a rule: an overlapping context in use names another slice table, or is ACTIVE. -/
def resumeBreaks (s : State) (c : Nat) : Bool :=
  s.ctxs.any (fun y => y.1 != c && inUse y.2 && overlaps y.2.desc (s.ctx c).desc && !sameSlice s c y.1) ||
    ((s.ctx c).desc.slice == 0 && pairsHeld s c)

/-- R261: at the first RESUME the heap range is walked. -/
def firstWalk (s : State) (c : Nat) : State :=
  let x := s.ctx c
  if x.heapWalked then s
  else walkHeap (s.setCtx c { x with heapWalked := true }) c x.desc.heapBase (x.desc.heapBase + x.desc.heapLen)

/-- R129: a context that joins others on a slice table stands where they stand. DESIGN CHOICE (log 48): the manual does not say at which entry a resumed context joins. -/
def joinSlices (s : State) (c : Nat) : State :=
  match s.ctxs.find? (fun y => y.1 != c && inUse y.2 && sameSlice s c y.1) with
  | none => s
  | some y => s.setCtx c { s.ctx c with sliceNext := y.2.sliceNext, sliceLast := y.2.sliceLast, sliceAgreed := y.2.sliceAgreed, sliceOff := y.2.sliceOff }

/-- RESUME (R122). ST is final when the restore is made or the context waits for its slice (log 24). -/
def execResume (fn ctx : Nat) (s : State) : Host.Outcome State Fault Refusal :=
  let x := s.ctx ctx
  if !cmdIs (s.func fn).ctxcmd 2 ctx then .next s
  else if x.state != .free && !ownsCtx s fn ctx false then .next (endCtxcmd s fn 5)
  else if !(x.state == .opened || x.state == .stopped || x.state == .halted) || resumeBreaks s ctx then .next (endCtxcmd s fn 3)
  else
    match readyImage (firstWalk s ctx) ctx with
    | .rejected s => .next (endCtxcmd s fn 6)
    | .ok s =>
      if x.desc.slice != 0 then .next (endCtxcmd (joinSlices (s.setCtx ctx { s.ctx ctx with state := .out }) ctx) fn 0)
      else match restoreImage s ctx with
        | .ok s => .next (endCtxcmd s fn 0)
        | .rejected s => .next (endCtxcmd s fn 6)

/-! ### Deadlines (R130) -/

/-- A context begins to save. -/
def beginSave (s : State) (c : Nat) (why : SaveFor) (stop : Bool) : State :=
  s.setCtx c { s.ctx c with state := .saving, saveFor := why, stopMark := stop }

/-- R119, R130: the kind 4 record. -/
def deadlineRecord (l : Launch) (dump : Nat) : List Byte :=
  record 64 [(2, 4), (2, 19), (4, 0), (8, l.addr), (8, l.count), (8, l.record.deadline), (8, dump)]

/-- R130, R383: the record for the driver's fault queue. -/
def deadlineFault (c : Nat) (l : Launch) : List Byte :=
  record 32 [(4, 0), (2, c), (1, 3), (1, 0), (8, l.addr), (2, 0xffff), (1, 0xff), (1, 0), (8, l.count)]

/-- R130: a launch's count has reached its deadline. -/
def overdue (s : State) (l : Launch) : Bool :=
  (s.ctx l.ctx).state == .active && l.started && l.monitored && l.record.deadline != 0 && l.record.deadline ≤ l.count

/-- R130: the context halts, by a save to its dump area. The launch goes on unmonitored after a RESUME. -/
def haltCtx (s : State) (id : Nat) (l : Launch) : State :=
  let x := s.ctx l.ctx
  let s := beginSave (s.setLaunch id { l with monitored := false }) l.ctx (.deadline id) false
  let s := report s l.ctx (deadlineRecord l x.desc.dump)
  let fn := x.desc.func
  s.setFunc fn { s.func fn with waiting := (s.func fn).waiting ++ [(0, deadlineFault l.ctx l)] }

/-- R123: a KILL that stands at a function's register goes first. -/
def killFirst (s : State) (c : Nat) : State :=
  if s.funcs.any (fun x => cmdIs x.2.ctxcmd 4 c && ownsCtx s x.1 c true) && (s.ctx c).state != .free && (s.ctx c).state != .killed then killCtx s c else s

/-- DEADLINE (R123, R130). -/
def execDeadline (launch : Nat) (s : State) : Host.Outcome State Fault Refusal :=
  match lookup s.launches launch with
  | none => .next s
  | some l =>
    let s := killFirst s l.ctx
    .next (if overdue s l then haltCtx s launch l else s)

/-- R123: a deadline goes before a slice instant, SUSPEND or CHECKPOINT. -/
def deadlineFirst (s : State) (c : Nat) : State :=
  match s.launches.find? (fun x => x.2.ctx == c && overdue s x.2) with
  | none => s
  | some x => haltCtx s x.1 x.2

/-! ### Gang slices (R129) -/

/-- R129: an entry of a slice table. -/
structure Slice where
  seconds : Nat
  nanos : Nat
  ctx : Nat
  zero : Nat
  deriving DecidableEq, Repr

def sliceOf (b : List Byte) : Slice := { seconds := field b 0 6, nanos := field b 6 4, ctx := field b 10 2, zero := field b 12 4 }

/-- The instant of an entry, in nanoseconds. -/
def Slice.instant (e : Slice) : Nat := e.seconds * 10 ^ 9 + e.nanos

/-- R129: an entry is well formed and later than the one before. DESIGN CHOICE (log 48): one with nonzero bytes 12 to 15 or with more than 999,999,999 nanoseconds, and a first one at instant 0, count as not ascending. -/
def Slice.follows (e : Slice) (last : Nat) : Bool := e.nanos < 10 ^ 9 && e.zero == 0 && last < e.instant

/-- R129: the contexts that name the slice table of a context, whatever their state. -/
def namers (s : State) (c : Nat) : List Nat :=
  ((s.ctxs.filter (fun y => y.2.state != .free && y.2.state != .killed && (y.1 == c || sameSlice s c y.1))).map (·.1)).eraseDups

/-- Those of them that hold their partition or wait for it. -/
def sharers (s : State) (c : Nat) : List Nat := (namers s c).filter (fun k => inUse (s.ctx k))

/-- R129: the table is at fault: every context that names it hears of it, and the device switches at no later entry. -/
def sliceFault (s : State) (c : Nat) : State :=
  (namers s c).foldl (fun s k =>
    report (s.setCtx k { s.ctx k with sliceOff := true }) k (record 64 [(2, 6), (2, 3), (4, 0), (8, (s.ctx k).desc.slice)])) s

/-- R122: a context whose slice has begun comes in, when its pairs are free; a rejected image halts it. -/
def comeIn (s : State) (c : Nat) : State :=
  let x := s.ctx c
  if x.state != .out then s
  else if pairsHeld s c then s.setCtx c { x with sliceDue := true }
  else match restore s c with
    | .ok s => s
    | .rejected s => s

/-- R125: contexts that wait for pairs which have become free come in. -/
def comeInDue (s : State) : State := (s.ctxs.filter (fun y => y.2.sliceDue)).foldl (fun s y => comeIn s y.1) s

/-- R122, R129: a slice begins: the other contexts of the table leave, and the one it names comes in. -/
def takeSlice (s : State) (c : Nat) (e : Slice) : State :=
  let who := sharers s c
  let s := who.foldl (fun s k => deadlineFirst (killFirst s k) k) s
  let s := who.foldl (fun s k =>
    let x := s.ctx k
    let d := x.desc
    let s := s.setCtx k { x with sliceNext := (x.sliceNext + 1) % max 1 d.nslice, sliceLast := e.instant, sliceDue := false }
    if k != e.ctx && x.state == .active then beginSave s k .switch false else s) s
  if who.contains e.ctx then comeIn s e.ctx else s

/-- R4, R430: the device's IEEE 1588 time in thirds of a nanosecond: a clk lasts one third. -/
def timeNow (s : State) : Nat := 3 * s.link.time + (s.clk - s.link.timeAt)

/-- R129: the next entry of the slice table that a context names, as the device reads it: `none` where it does not follow one. -/
def nextSlice (s : State) (c : Nat) : Option (Except DevFault (Slice × State)) :=
  let x := s.ctx c
  if !inUse x || x.desc.slice == 0 || !x.sliceAgreed || x.sliceOff then none
  else some ((s.readVA c (x.desc.slice + 16 * x.sliceNext) 16).map (fun y => (sliceOf y.1, y.2)))

/-- R129: the entry read is taken at the first clk at or after its instant; one that does not ascend is a fault at once. DESIGN CHOICE (log 48): so is a table that cannot be read. -/
def sliceNow (s : State) (c : Nat) : State :=
  match nextSlice s c with
  | none => s
  | some (.error f) => sliceFault (logDevFault s c f) c
  | some (.ok (e, t)) =>
    if !e.follows (s.ctx c).sliceLast then sliceFault t c
    else if 3 * e.instant ≤ timeNow s then takeSlice t c e
    else s

/-- SLICE_INSTANT (R123, R129): the instant of the next entry of the slice table that a context names. -/
def execSliceInstant (ctx : Nat) (s : State) : Host.Outcome State Fault Refusal := .next (sliceNow (killFirst s ctx) ctx)

/-- R129: the entries of a table ascend. -/
def tableAscends (b : List Byte) (n : Nat) : Bool :=
  (List.range (n - 1)).all (fun k => (sliceOf (b.drop (16 * (k + 1)))).follows (sliceOf (b.drop (16 * k))).instant)

/-- R428, R430: a slice table goes to a device in TYPE 10 flits: the mark of a table, then up to 224 bytes; SEQ counts them, and the last one ends the transfer (log 12). -/
def sendTable (b : List Byte) (port : Nat) (s : State) (dev : Nat) : State :=
  let n := (b.length + 223) / 224
  (List.range n).foldl (fun s k =>
    s.send port { flitTo s 10 dev (BitVec.ofNat 32 k) (leBytes 2 0x100 ++ (b.drop (224 * k)).take 224) with flags := if k + 1 == n then 2 else 0 }) s

/-- R129: a device of the gang has sent its whole table. -/
def tableCame (s : State) (dev : Nat) : Bool := (lookup s.link.slices dev).any (·.complete)

/-- R129: this device's table goes to the gang, by the first port that is up (log 48). -/
def shareTable (s : State) (ctx : Nat) (gang : List Nat) (b : List Byte) : State :=
  match (upPorts s (2 ^ 18 - 1)).head? with
  | none => s
  | some p => (gang.foldl (sendTable b p) s).setCtx ctx { s.ctx ctx with sliceSent := true }

/-- R129: all tables of a gang are there: they agree and ascend, or the table is at fault. -/
def settleTables (s : State) (ctx : Nat) (gang : List Nat) (b : List Byte) : State :=
  let same := gang.all (fun d => (lookup s.link.slices d).any (fun x => x.bytes == b))
  let s := { s with link := { s.link with slices := s.link.slices.filter (fun x => !gang.contains x.1) } }
  if same && tableAscends b (s.ctx ctx).desc.nslice then
    (sharers s ctx).foldl (fun s k => s.setCtx k { s.ctx k with sliceAgreed := true, sliceSent := false }) s
  else sliceFault s ctx

/-- SLICE_TABLE_EXCHANGE (R129, R430): the port processors send the table to the gang's other devices, and compare it with theirs once all have come. Which devices are a context's gang the manual leaves to software; the event names them (log 48). -/
def execSliceTableExchange (ctx : Nat) (gang : List Nat) (s : State) : Host.Outcome State Fault Refusal :=
  let x := s.ctx ctx
  if !inUse x || x.desc.slice == 0 || x.sliceOff then .next s
  else match s.readVA ctx x.desc.slice (16 * x.desc.nslice) with
    | .error f => .next (sliceFault (logDevFault s ctx f) ctx)
    | .ok (b, s) =>
      let s := if x.sliceSent then s else shareTable s ctx gang b
      .next (if gang.all (tableCame s) then settleTables s ctx gang b else s)

/-- TIME_SYNC_LOST (R129): the device goes on by its own time, and reports to the contexts that name a slice table. -/
def execTimeSyncLost (s : State) : Host.Outcome State Fault Refusal :=
  if !s.link.timeSynced then .next s
  else
    let s := { s with link := { s.link with timeSynced := false } }
    .next ((s.ctxs.filter (fun y => y.2.state != .free && y.2.state != .killed && y.2.desc.slice != 0)).foldl (fun s y =>
      report s y.1 (record 64 [(2, 6), (2, 4), (4, 0), (8, y.2.desc.slice)])) s)

/-! ### Leaving the device (R122, R125) -/

/-- SUSPEND (R122, R123). ST is final at once (log 24). -/
def execSuspend (fn ctx : Nat) (s : State) : Host.Outcome State Fault Refusal :=
  if !cmdIs (s.func fn).ctxcmd 3 ctx then .next s
  else if (s.ctx ctx).state != .free && !ownsCtx s fn ctx true then .next (endCtxcmd s fn 5)
  else
    let s := sliceNow (deadlineFirst (killFirst s ctx) ctx) ctx
    let x := s.ctx ctx
    match x.state with
    | .active => .next (endCtxcmd (beginSave s ctx .switch true) fn 0)
    | .saving => .next (endCtxcmd (s.setCtx ctx { x with stopMark := true }) fn 0)
    | .out => .next (endCtxcmd (s.setCtx ctx { x with state := .stopped, sliceDue := false }) fn 0)
    | _ => .next (endCtxcmd s fn 3)

/-- KILL (R122, R124): it is reported complete by KILL_COMPLETE. -/
def execKill (fn ctx : Nat) (s : State) : Host.Outcome State Fault Refusal :=
  let x := s.ctx ctx
  if !cmdIs (s.func fn).ctxcmd 4 ctx then .next s
  else if x.state == .free then .next (endCtxcmd s fn 3)
  else if !ownsCtx s fn ctx true then .next (endCtxcmd s fn 5)
  else if x.state == .killed then .next s
  else .next (killCtx s ctx)

/-! ### A save ends (R122, R125, R127) -/

/-- R127, R130: where the image goes, and how many bytes there are. -/
def saveArea (x : Ctx) : Nat × Nat :=
  match x.saveFor with
  | .deadline _ => (x.desc.dump + 64, x.desc.dumpLen - 64)
  | _ => (x.desc.save, x.desc.saveLen)

/-- The image goes to the dump area, whose length has no rule of its own: the halt stands (log 23). -/
def SaveFor.isDump : SaveFor → Bool
  | .deadline _ => true
  | _ => false

/-- R130: the record that precedes a dump image. -/
def dumpHead (s : State) (c : Nat) : State :=
  let x := s.ctx c
  match x.saveFor with
  | .deadline id =>
    match lookup s.launches id with
    | some l => if x.desc.dumpLen < 64 then s else writePieces c s [(x.desc.dump, deadlineRecord l x.desc.dump)]
    | none => s
  | _ => s

/-- R122: the state after a save. DESIGN CHOICE (log 24): a deadline's save ends HALTED whatever the stop mark says, and a checkpoint returns to STOPPED where it is set; the table names the mark only for OUT. -/
def afterSave (x : Ctx) : Ctx :=
  match x.saveFor with
  | .deadline _ => { x with state := .halted, stopMark := false }
  | .checkpoint => { x with state := .checkpoint, prior := if x.stopMark then .stopped else .active, stopMark := false }
  | .switch => { x with state := if x.stopMark then .stopped else .out, stopMark := false }

/-- SAVE_COMPLETE (R122, R125, R127). -/
def execSaveComplete (ctx : Nat) (s : State) : Host.Outcome State Fault Refusal :=
  let x := s.ctx ctx
  if x.state != .saving || !quiet s ctx then .next s
  else match askAreas s ctx with
  | some s => .next s
  | none =>
    let (area, room) := saveArea x
    let (t, n) := takeImage s ctx area room
    if room < n && !x.saveFor.isDump then .next (killCtx (report t ctx (record 64 [(2, 6), (2, 1), (4, 0), (8, area)])) ctx)
    else
      let t := leaveCores (dumpHead t ctx) ctx
      .next (comeInDue (t.setCtx ctx (afterSave (t.ctx ctx))))

/-- KILL_COMPLETE (R124): once what the context asked of peers is answered, it is FREE, its pairs are released, and the KILLs that wait are done. -/
def execKillComplete (ctx : Nat) (s : State) : Host.Outcome State Fault Refusal :=
  if (s.ctx ctx).state != .killed || s.link.reqs.any (fun r => r.2.ctx == ctx) then .next s
  else
    let s := s.setCtx ctx {}
    .next (comeInDue { s with funcs := s.funcs.map (fun x =>
      if cmdIs x.2.ctxcmd 4 ctx then (x.1, { x.2 with ctxcmd := cmdEnd x.2.ctxcmd 0 }) else x) })

/-! ### Error queues (R118) -/

/-- ERRQ_HEAD_POLL (R118): the device reads HEAD again, and records that waited are written while there is room. -/
def execErrqHeadPoll (ctx : Option Nat) (s : State) : Host.Outcome State Fault Refusal :=
  match ctx with
  | some c => .next (errqDrain 17 s c)
  | none => .next (evDrain 17 s)

end Sys2Proof.Machine
end

