-- ==== Sys2Proof/Machine/Checkpoint.lean ====
section
/-! DEFINITION. Machine/Checkpoint: checkpoints to flash and restores after a restart (R131 to R133). -/
namespace Sys2Proof.Machine

/-! ### Dirty bits (R131, R377) -/

/-- R131, R377: clears a page's dirty bit, and drops every copy of its leaf. -/
def clearDirty (s : State) (p : Nat × Dword × Nat) : State :=
  let w := BitVec.ofNat 64 (Memory.value s.mem p.2.2 8) &&& ~~~(1#64 <<< 56)
  { s.poke p.2.2 (leBytes 8 w.toNat) with tlb := s.tlb.filter (fun e => e.leafAddr != p.2.2) }

/-! ### Generations (R132) -/

/-- The bytes of an image (R127). -/
def imageBytes (x : Ctx) : List Byte :=
  match x.image with
  | none => []
  | some i => i.bytes

/-- R131: the image as it stands in the context's memory now; what cannot be read is as it was saved (log 23). -/
def copyImage (s : State) (c : Nat) (i : Image) : Image :=
  if i.restart then i
  else match s.readVA c i.area i.bytes.length with
    | .ok (b, _) => { i with bytes := b }
    | .error _ => i

/-- R375: what the reading of the image met is logged. -/
def logImage (s : State) (c : Nat) : State :=
  match (s.ctx c).image with
  | some i => if i.restart then s else logPieces s c i [(i.area, i.bytes.length)]
  | none => s

/-- What a generation holds as structured data beside the bytes of its image: the descriptor, the launches, the teams and the tables (R127). -/
def keptBytes (x : Ctx) (launches : List (Nat × Launch)) (runs : List (Nat × Run)) : List Byte :=
  let i := x.image.getD {}
  x.desc.bytes ++ launchSection launches ++ teamSection i.teams i.cells i.tags i.groups ++ tableSection x runs

/-- R132: the digests of a manifest: the image's, then every page's. DESIGN CHOICE (log 49): what the model keeps of the image as structured data is under the image's digest too. -/
def digestsOf (x : Ctx) (launches : List (Nat × Launch)) (runs : List (Nat × Run)) (pages : List (Nat × List Byte)) : List (List Byte) :=
  Config.shake256 (imageBytes x ++ keptBytes x launches runs) :: pages.map (fun p => Config.shake256 p.2)

/-- R132: what the device key signs. -/
def manifest (number : Nat) (digests : List (List Byte)) : List Byte := leBytes 8 number ++ digests.flatten

/-- R132: a generation whose manifest passes its check. -/
def Generation.valid (g : Generation) : Bool :=
  g.digests == digestsOf g.ctx g.launches g.runs g.pages && g.signature == Config.sign (manifest g.number g.digests)

/-- R132: the generations of a context in flash, the newest first. -/
def flashOf (s : State) (c : Nat) : List Generation := (lookup s.sec.flash c).getD []

/-- R132: the newest valid generation. -/
def newestValid (s : State) (c : Nat) : Option Generation := (flashOf s c).find? Generation.valid

/-- R131: the pages of a new generation: those of the last with the copied ones put in. -/
def mergePages (old new : List (Nat × List Byte)) : List (Nat × List Byte) := new.foldl (fun l p => insert l p.1 p.2) old

/-! ### CHECKPOINT (R122, R131) -/

/-- R123: what goes before a CHECKPOINT in one clk: KILL, a deadline, a slice instant, a SUSPEND that stands at the function's register. -/
def beforeCheckpoint (s : State) (c : Nat) : State :=
  let s := sliceNow (deadlineFirst (killFirst s c) c) c
  match s.funcs.find? (fun x => cmdIs x.2.ctxcmd 3 c) with
  | none => s
  | some x => match execSuspend x.1 c s with
    | .next s => s
    | _ => s

/-- R122: a context that may be checkpointed. An ACTIVE one saves first. -/
def beginCheckpoint (s : State) (c : Nat) : Option State :=
  let x := s.ctx c
  match x.state with
  | .active => some (beginSave s c .checkpoint false)
  | .out => some (s.setCtx c { x with state := .checkpoint, prior := .out })
  | .stopped => some (s.setCtx c { x with state := .checkpoint, prior := .stopped })
  | .halted => some (s.setCtx c { x with state := .checkpoint, prior := .halted })
  | _ => none

/-- CHECKPOINT (R122, R131). ST is final at once (log 24). -/
def execCheckpoint (fn ctx : Nat) (s : State) : Host.Outcome State Fault Refusal :=
  if !cmdIs (s.func fn).ctxcmd 5 ctx then .next s
  else if (s.ctx ctx).state != .free && !ownsCtx s fn ctx false then .next (endCtxcmd s fn 5)
  else
    let s := beforeCheckpoint s ctx
    match beginCheckpoint s ctx with
    | some s => .next (endCtxcmd s fn 0)
    | none => .next (endCtxcmd s fn 3)

/-- CHECKPOINT_INTERVAL (R117, R131): CKPT × 2^24 clk since CREATE or the last checkpoint. -/
def execCheckpointInterval (ctx : Nat) (s : State) : Host.Outcome State Fault Refusal :=
  let x := s.ctx ctx
  if x.desc.ckpt == 0 || s.clk < x.ckptClk + x.desc.ckpt * 2 ^ 24 then .next s
  else
    let s := beforeCheckpoint s ctx
    .next ((beginCheckpoint s ctx).getD s)

/-- R19: bytes of flash on the module. -/
def flashBytes : Nat := 4 * 10 ^ 12

/-- What the generations of a flash take. -/
def flashUsed (l : List (Nat × List Generation)) : Nat :=
  ((l.flatMap (·.2)).map (fun g => g.pages.length * 65536 + (imageBytes g.ctx).length)).sum

/-- R131: the generation is written: the image and the pages copied, and their dirty bits cleared. The first of a context copies every page it maps. DESIGN CHOICE (log 49): with it go the older generations that flash holds under the context's number. DESIGN CHOICE (log 75): one that flash has no room for is not written, and nothing else changes. -/
def writeGeneration (s : State) (c : Nat) : State :=
  let before := logImage s c
  let s := before
  let x := s.ctx c
  let first := x.generation == 0
  let ps := (devicePages s c).filter (fun p => first || (BitVec.ofNat 64 (Memory.value s.mem p.2.2 8)).getLsbD 56)
  let copied := ps.map (fun p => (leafFrame p.2.1, Memory.bytes s.mem (leafFrame p.2.1) 65536))
  let old := if first then [] else flashOf s c
  let pages := mergePages ((old.head?.map (·.pages)).getD []) copied
  let x := { x with generation := x.generation + 1, ckptClk := s.clk, image := x.image.map (copyImage s c) }
  let launches := s.launches.filter (fun y => y.2.ctx == c)
  let runs := s.runs.filter (fun y => y.2.ctx == c)
  let digests := digestsOf x launches runs pages
  let g : Generation := { number := x.generation, ctx := x, launches, runs
                          pages, digests, signature := Config.sign (manifest x.generation digests) }
  let s := ps.foldl clearDirty (s.setCtx c { s.ctx c with generation := x.generation, ckptClk := s.clk })
  let flash := insert s.sec.flash c ((g :: old).take 2)
  if flashUsed flash ≤ flashBytes then { s with sec := { s.sec with flash } } else before

/-- CHECKPOINT_COMPLETE (R122, R131, R132): the generation closes, and the context returns to the state before. -/
def execCheckpointComplete (ctx : Nat) (s : State) : Host.Outcome State Fault Refusal :=
  if (s.ctx ctx).state != .checkpoint then .next s
  else
    let s := writeGeneration s ctx
    let x := s.ctx ctx
    if x.prior == .active then
      match restore s ctx with
      | .ok s => .next s
      | .rejected s => .next s
    else .next (comeInDue (s.setCtx ctx { x with state := x.prior }))

/-! ### After a full restart (R133) -/

/-- R133: a context as its generation holds it: STOPPED, its image marked as coming from flash. -/
def revived (g : Generation) : Ctx :=
  { g.ctx with state := .stopped, stopMark := false, sliceDue := false, sliceAgreed := false, sliceSent := false, image := g.ctx.image.map (fun i => { i with restart := true, ready := false }) }

/-- AUTO_RESTORE (R133): after bring-up, a context that is not there yet comes back from its newest valid generation, if that has AUTO. DESIGN CHOICE (log 24): a context with a run in a slot that another context's run has taken since waits for that slot. -/
def execAutoRestore (ctx : Nat) (s : State) : Host.Outcome State Fault Refusal :=
  if s.sec.hbm < 16 || (lookup s.ctxs ctx).isSome then .next s
  else match newestValid s ctx with
    | none => .next s
    | some g =>
      if !g.ctx.desc.auto || g.runs.any (fun x => (lookup s.runs x.1).isSome) then .next s
      else
        let s := g.pages.foldl (fun s p => s.poke p.1 p.2) s
        .next { s.setCtx ctx (revived g) with
        launches := s.launches ++ g.launches
        runs := s.runs ++ g.runs }

end Sys2Proof.Machine
end

