-- ==== Sys2Proof/Machine/Integer.lean ====
section
/-! DEFINITION. Machine/Integer: major 0x10 and `movi` (R212 to R223). -/
namespace Sys2Proof.Machine

/-- The value of a `w`-bit pattern by signedness (R29). -/
def intOf (sgn : Bool) (w x : Nat) : Int := if sgn then signed w x else (x % 2 ^ w : Nat)

/-- The least and greatest values of a type (R36). -/
def intMin (sgn : Bool) (w : Nat) : Int := if sgn then -(2 ^ (w - 1) : Nat) else 0
def intMax (sgn : Bool) (w : Nat) : Int := if sgn then (2 ^ (w - 1) : Nat) - 1 else (2 ^ w : Nat) - 1

/-- The `w`-bit pattern of an integer. -/
def wrap (w : Nat) (x : Int) : Nat := (x % (2 ^ w : Nat)).toNat

/-- R36, R213: an exact result clamped (with SAT) or wrapped. -/
def narrow (sat sgn : Bool) (w : Nat) (x : Int) : Nat × Word :=
  if sat then
    let y := clampInt (intMin sgn w) (intMax sgn w) x
    (wrap w y, satFlag (y != x))
  else (wrap w x, 0)

/-- R30: applies an operation to every element and ORs the flags. -/
def perElement (t : Ty) (f : Nat → Nat → Nat → Nat × Word) (a b c : Nat) : Nat × Word :=
  let w := tyBits t
  let r := (List.range t.elems).map (fun k => f (elem w a k) (elem w b k) (elem w c k))
  (unelem w (r.map (·.1)), r.foldl (fun x y => x ||| y.2) 0)

/-- The form of an integer instruction whose operands have the width of its type. -/
def intForm (o : VOps) : Form :=
  let w := o.ty.wide
  { imm := immValue o.ty o.imm, wide := w, wideA := w, wideB := w, wideC := w, signed := o.ty == .i32 }

/-- R104: the A rows apply to b32, i32 and n32 with sat = 0. -/
def affineType (o : VOps) : Bool := !o.sat && (o.ty == .b32 || o.ty == .i32 || o.ty == .n32)

/-- The A row of `add` (R104). -/
def affAdd : Tag → Tag → Option (Word × Word)
  | .a base st, .u x => some (base + x, st)
  | .u x, .a base st => some (base + x, st)
  | _, _ => none

/-- The A rows of `sub`. -/
def affSub : Tag → Tag → Option (Word × Word)
  | .a base st, .u x => some (base - x, st)
  | .u x, .a base st => some (x - base, -st)
  | _, _ => none

/-- The A row of `mul`. -/
def affMul : Tag → Tag → Option (Word × Word)
  | .a base st, .u x => some (base * x, st * x)
  | .u x, .a base st => some (base * x, st * x)
  | _, _ => none

/-- The A row of `shl`: base and stride each shifted by the lane amount `shl` uses. -/
def affShl : Tag → Tag → Option (Word × Word)
  | .a base st, .u x => if 32 ≤ x.toNat then some (0, 0) else some (base <<< x.toNat, st <<< x.toNat)
  | _, _ => none

def affNeg : Tag → Tag → Option (Word × Word)
  | .a base st, _ => some (-base, -st)
  | _, _ => none

def affMov : Tag → Tag → Option (Word × Word)
  | .a base st, _ => some (base, st)
  | _, _ => none

/-- An integer form with an A row where R104 allows it. -/
def affForm (o : VOps) (aff : Tag → Tag → Option (Word × Word)) : Form :=
  { intForm o with affine := if affineType o then aff else fun _ _ => none }

/-- R213: the arithmetic of one element: an exact integer function, then narrowed. -/
def arith (o : VOps) (f : Int → Int → Int → Int) : LaneFn := fun _ a b c _ =>
  let w := tyBits o.ty
  let sg := tySigned o.ty
  perElement o.ty (fun x y z => narrow o.sat sg w (f (intOf sg w x) (intOf sg w y) (intOf sg w z))) a b c

/-- An operation on the whole operand that sets no flag. -/
def plain (f : Nat → Nat → Nat → Nat) : LaneFn := fun _ a b c _ => (f a b c, 0)

/-- R216. -/
def pick (o : VOps) (less : Bool) : LaneFn := fun _ a b c _ =>
  let w := tyBits o.ty
  let sg := tySigned o.ty
  perElement o.ty (fun x y _ => (if (intOf sg w x < intOf sg w y) == less then x else y, 0)) a b c

/-- R215: quotient and remainder truncated toward zero. -/
def divide (o : VOps) (quot : Bool) : LaneFn := fun _ a b _ _ =>
  let w := tyBits o.ty
  let sg := tySigned o.ty
  let x := intOf sg w a
  let y := intOf sg w b
  if y == 0 then (if quot then 2 ^ w - 1 else a % 2 ^ w, fDZ)
  else
    let q := x.tdiv y
    if intMax sg w < q then
      if quot then (wrap w (if o.sat then intMax sg w else intMin sg w), satFlag o.sat) else (0, 0)
    else (wrap w (if quot then q else x - q * y), 0)

/-- R217: shifts by an amount that may reach or pass the width. -/
def shiftLeft (w a amt : Nat) : Nat := if w ≤ amt then 0 else a * 2 ^ amt % 2 ^ w
def shiftRight (w a amt : Nat) : Nat := if w ≤ amt then 0 else a % 2 ^ w / 2 ^ amt
def shiftArith (w a amt : Nat) : Nat := wrap w (signed w a / (2 ^ (min amt w) : Nat))
def rotate (w a amt : Nat) : Nat := a * 2 ^ (amt % w) % 2 ^ w + a % 2 ^ w / 2 ^ (w - amt % w)

/-- R218. -/
def leadingZeros (w a : Nat) : Nat := if a % 2 ^ w == 0 then w else w - 1 - Nat.log2 (a % 2 ^ w)
def reverseBits (a : Nat) : Nat → Nat
  | 0 => 0
  | n + 1 => a % 2 * 2 ^ n + reverseBits (a / 2) n

/-- R219: position, and length limited to the word, of a field control. -/
def fieldPos (x : Nat) : Nat := bits x 4 0
def fieldLen (x : Nat) : Nat := min (bits x 13 8) (32 - fieldPos x)

def fieldExtract (sgn : Bool) (a ctl : Nat) : Nat :=
  let n := fieldLen ctl
  let f := a / 2 ^ fieldPos ctl % 2 ^ n
  if n != 0 && sgn then wrap 32 (signed n f) else f

def fieldInsert (a b ctl : Nat) : Nat :=
  let p := fieldPos ctl
  let n := fieldLen ctl
  let low := a % 2 ^ p
  let high := a % 2 ^ 32 / 2 ^ (p + n)
  low + 2 ^ p * (b % 2 ^ n) + 2 ^ (p + n) * high

/-- R220: an integer comparison by condition code. -/
def condInt (c : Nat) (x y : Int) : Bool :=
  match c with
  | 0 => x == y
  | 1 => x != y
  | 2 => x < y
  | 3 => x ≤ y
  | 4 => y < x
  | _ => y ≤ x

/-- R220: a binary32 comparison by condition code; −0 equals +0. -/
def condFloat (c : Nat) (a b : FVal) : Bool × Word :=
  let nan := a.isNan || b.isNan
  let sig := a.isSig || b.isSig
  let lt := a.cmp b == .lt
  let gt := b.cmp a == .lt
  let r := match c with
    | 0 => !nan && !lt && !gt
    | 1 => nan || lt || gt
    | 2 => !nan && lt
    | 3 => !nan && !gt
    | 4 => !nan && gt
    | 5 => !nan && !lt
    | 6 => !nan
    | _ => nan
  (r, if sig || (nan && 2 ≤ c && c ≤ 5) then fNV else 0)

/-- R220. -/
def compareFn (o : VOps) : LaneFn := fun _ a b _ _ =>
  if o.ty == .f32 then
    let (r, fl) := condFloat o.cond (binary32.decode a) (binary32.decode b)
    (if r then 1 else 0, fl)
  else
    let w := tyBits o.ty
    let sg := tySigned o.ty
    (if condInt o.cond (intOf sg w a) (intOf sg w b) then 1 else 0, 0)

/-- Widths of a shift: its amount is 32 bits (R212). -/
def shiftForm (o : VOps) : Form := { intForm o with wideB := false }
/-- A 32-bit result whatever the type (R218). -/
def countForm (o : VOps) : Form := { intForm o with wide := false, signed := false }
/-- `cmp` and the vector result of a predicate. -/
def cmpForm (o : VOps) : Form := { intForm o with wide := false, signed := false }

/-- `add` (R213). -/
def execAdd (o : VOps) (s : State) : Host.Outcome State Fault Refusal :=
  execV o (affForm o affAdd) (arith o (fun x y _ => x + y)) s

/-- `sub` (R213). -/
def execSub (o : VOps) (s : State) : Host.Outcome State Fault Refusal :=
  execV o (affForm o affSub) (arith o (fun x y _ => x - y)) s

/-- `mul` (R213). -/
def execMul (o : VOps) (s : State) : Host.Outcome State Fault Refusal :=
  execV o (affForm o affMul) (arith o (fun x y _ => x * y)) s

/-- `mulhi` (R214): the upper half of the exact product. -/
def execMulhi (o : VOps) (s : State) : Host.Outcome State Fault Refusal :=
  execV o (intForm o) (fun _ a b _ _ =>
    let w := tyBits o.ty
    let sg := tySigned o.ty
    (wrap w (intOf sg w a * intOf sg w b / (2 ^ w : Nat)), 0)) s

/-- `mad` (R213): one clamp or wrap. -/
def execMad (o : VOps) (s : State) : Host.Outcome State Fault Refusal :=
  execV o (intForm o) (arith o (fun x y z => x * y + z)) s

/-- `div` (R215), long-latency. -/
def execDiv (o : VOps) (s : State) : Host.Outcome State Fault Refusal :=
  execV o (intForm o) (divide o true) s (long := true)

/-- `rem` (R215), long-latency. -/
def execRem (o : VOps) (s : State) : Host.Outcome State Fault Refusal :=
  execV o (intForm o) (divide o false) s (long := true)

/-- `min` (R216). -/
def execMin (o : VOps) (s : State) : Host.Outcome State Fault Refusal :=
  execV o (intForm o) (pick o true) s

/-- `max` (R216). -/
def execMax (o : VOps) (s : State) : Host.Outcome State Fault Refusal :=
  execV o (intForm o) (pick o false) s

/-- `abs` (R213). -/
def execAbs (o : VOps) (s : State) : Host.Outcome State Fault Refusal :=
  execV o (intForm o) (arith o (fun x _ _ => if x < 0 then -x else x)) s

/-- `neg` (R213). -/
def execNeg (o : VOps) (s : State) : Host.Outcome State Fault Refusal :=
  execV o (affForm o affNeg) (arith o (fun x _ _ => -x)) s

/-- `and` (R217). -/
def execAnd (o : VOps) (s : State) : Host.Outcome State Fault Refusal :=
  execV o { intForm o with halves := true } (plain (fun a b _ => a &&& b)) s

/-- `or` (R217). -/
def execOr (o : VOps) (s : State) : Host.Outcome State Fault Refusal :=
  execV o { intForm o with halves := true } (plain (fun a b _ => a ||| b)) s

/-- `xor` (R217). -/
def execXor (o : VOps) (s : State) : Host.Outcome State Fault Refusal :=
  execV o { intForm o with halves := true } (plain (fun a b _ => a ^^^ b)) s

/-- `andn` (R217): a AND NOT b. -/
def execAndn (o : VOps) (s : State) : Host.Outcome State Fault Refusal :=
  execV o { intForm o with halves := true } (plain (fun a b _ => a - (a &&& b))) s

/-- `shl` (R217). -/
def execShl (o : VOps) (s : State) : Host.Outcome State Fault Refusal :=
  execV o { shiftForm o with affine := if affineType o then affShl else fun _ _ => none }
    (plain (fun a b _ => shiftLeft (tyBits o.ty) a b)) s

/-- `shr` (R217). -/
def execShr (o : VOps) (s : State) : Host.Outcome State Fault Refusal :=
  execV o (shiftForm o) (plain (fun a b _ => shiftRight (tyBits o.ty) a b)) s

/-- `sar` (R217). -/
def execSar (o : VOps) (s : State) : Host.Outcome State Fault Refusal :=
  execV o (shiftForm o) (plain (fun a b _ => shiftArith (tyBits o.ty) a b)) s

/-- `rot` (R217). -/
def execRot (o : VOps) (s : State) : Host.Outcome State Fault Refusal :=
  execV o (shiftForm o) (plain (fun a b _ => rotate (tyBits o.ty) a b)) s

/-- `clz` (R218). -/
def execClz (o : VOps) (s : State) : Host.Outcome State Fault Refusal :=
  execV o (countForm o) (plain (fun a _ _ => leadingZeros (tyBits o.ty) a)) s

/-- `popc` (R218). -/
def execPopc (o : VOps) (s : State) : Host.Outcome State Fault Refusal :=
  execV o (countForm o) (plain (fun a _ _ => popcount a (tyBits o.ty))) s

/-- `brev` (R218). -/
def execBrev (o : VOps) (s : State) : Host.Outcome State Fault Refusal :=
  execV o (intForm o) (plain (fun a _ _ => reverseBits a (tyBits o.ty))) s

/-- `bfe` (R219). -/
def execBfe (o : VOps) (s : State) : Host.Outcome State Fault Refusal :=
  execV o (intForm o) (plain (fun a b _ => fieldExtract (o.ty == .i32) a b)) s

/-- `bfi` (R219). -/
def execBfi (o : VOps) (s : State) : Host.Outcome State Fault Refusal :=
  execV o (intForm o) (plain fieldInsert) s

/-- `cmp` (R220). -/
def execCmp (o : VOps) (s : State) : Host.Outcome State Fault Refusal :=
  execV o (cmpForm o) (compareFn o) s

/-- `sel` (R221). -/
def execSel (o : VOps) (s : State) : Host.Outcome State Fault Refusal :=
  execV o { intForm o with halves := true } (plain (fun a b c => if c == 1 then a else b)) s

/-- `lea` (R222). -/
def execLea (o : VOps) (s : State) : Host.Outcome State Fault Refusal :=
  execV o { wide := true, wideA := true }
    (plain (fun a b _ => wrap 64 ((a : Int) + signed 32 b * (2 ^ o.imm.toNat : Nat)))) s

/-- R40: a write of `gs` waits until every long-latency instruction of the group has written its result, and until every operation it issued that will merge flags has completed (R293, R331). -/
def gsBusy (s : State) (is : Issue) : Bool :=
  ((s.group is.key).getD is.g).pend.any (fun p => !p.arrived) ||
    s.matops.any (fun x => x.2.group == is.key) || s.gateops.any (fun x => x.2.group == is.key) ||
    s.jobs.any (fun x => x.2.group == is.key && (match x.2.kind, x.2.state with
      | _, .done => false
      | _, .failed => false
      | _, .abandoned => false
      | .plane _ _, _ => true
      | .simp _ _ _ _, _ => true
      | _, _ => false))

/-- The value `mov` moves. -/
def movValue (o : VOps) (is : Issue) (l : Nat) : Nat := opValue is o.a o.ty.wide (immValue o.ty o.imm) l

/-- R100, R101: `mov` to `gs`, from the scalar a. It is a shadowed issue as any other of its major (R189). -/
def movToGs (o : VOps) (is : Issue) (s : State) : Verdict :=
  if is.gd == 0 then .commit s 0 0
  else if gsBusy s is then .hold s
  else shadowed is (s.onGroup is.key (fun g => { g with regs := { g.regs with gs := gsValue (BitVec.ofNat 64 (movValue o is 0)) } })) 0 is.gd is.gd (movValue o is)

/-- R99: `mov` to `lsp`. -/
def movToLsp (o : VOps) (is : Issue) (s : State) : Verdict :=
  let uniform := (opTag is o.a true 0).isU
  shadowed is (s.onGroup is.key (fun g => g.writeLsp is.gd uniform (fun l => BitVec.ofNat 64 (movValue o is l)))) 0 is.gd is.gd (movValue o is)

/-- `mov` (R221), with the positions of R99 and R100. -/
def execMov (o : VOps) (s : State) : Host.Outcome State Fault Refusal :=
  let f : Form := { affForm o affMov with signed := false, halves := true }
  match o.d, o.a with
  | .gs, .s _ => s.run o.pred o.neg (226 :: Opnd.regs o.a true) [226] (movToGs o)
  | .lsp, _ => s.run o.pred o.neg (226 :: Opnd.regs o.a true) [225] (movToLsp o)
  | _, _ => execV o f (plain (fun a _ _ => a)) s

/-- R223: the value `movi` writes. -/
def moviValue (o : IOps) : Nat :=
  match o.ty with
  | .b32 | .i32 => (o.imm.setWidth 32).toNat
  | .i64 => (o.imm.signExtend 64).toNat
  | .n64 => o.imm.toNat
  | _ => o.imm.toNat % 2 ^ 32

/-- `movi` (R223). -/
def execMovi (o : IOps) (s : State) : Host.Outcome State Fault Refusal :=
  s.run o.pred o.neg [] (Opnd.regs o.d o.ty.wide) fun is s =>
    .commit (s.onGroup is.key (fun g => g.writeD o.d o.ty.wide (o.ty == .i32) is.gd .u (fun _ => moviValue o))) 0 0

end Sys2Proof.Machine
end

