-- ==== Sys2Proof/Machine/FloatOps.lean ====
section
/-! DEFINITION. Machine/FloatOps: major 0x20 (R224 to R230). -/
namespace Sys2Proof.Machine

/-- The form of a floating-point instruction. -/
def floatForm (o : VOps) : Form := { imm := immValue o.ty o.imm }

/-- Applies an operation on data to every element, in the element format (R30). -/
def floatFn (o : VOps) (f : Fmt → FVal → FVal → FVal → FRes) : LaneFn := fun _ a b c _ =>
  let m := tyFmt o.ty
  perElement o.ty (fun x y z => f m (m.decode x) (m.decode y) (m.decode z)) a b c

/-- The same on codes. -/
def codeFn (o : VOps) (f : Fmt → Nat → Nat → FRes) : LaneFn := fun _ a b c _ =>
  perElement o.ty (fun x y _ => f (tyFmt o.ty) x y) a b c

/-- `fadd` (R225). -/
def execFadd (o : VOps) (s : State) : Host.Outcome State Fault Refusal :=
  execV o (floatForm o) (floatFn o (fun m x y _ => m.add o.rnd x y)) s

/-- `fsub` (R225). -/
def execFsub (o : VOps) (s : State) : Host.Outcome State Fault Refusal :=
  execV o (floatForm o) (floatFn o (fun m x y _ => m.sub o.rnd x y)) s

/-- `fmul` (R225). -/
def execFmul (o : VOps) (s : State) : Host.Outcome State Fault Refusal :=
  execV o (floatForm o) (floatFn o (fun m x y _ => m.mul o.rnd x y)) s

/-- `fma` (R225): one rounding of the exact product plus addend. -/
def execFma (o : VOps) (s : State) : Host.Outcome State Fault Refusal :=
  execV o (floatForm o) (floatFn o (fun m x y z => m.fma o.rnd x y z)) s

/-- `fmin` (R226). -/
def execFmin (o : VOps) (s : State) : Host.Outcome State Fault Refusal :=
  execV o (floatForm o) (codeFn o (fun m x y => m.minmax true x y)) s

/-- `fmax` (R226). -/
def execFmax (o : VOps) (s : State) : Host.Outcome State Fault Refusal :=
  execV o (floatForm o) (codeFn o (fun m x y => m.minmax false x y)) s

/-- `fdiv` (R227), long-latency. -/
def execFdiv (o : VOps) (s : State) : Host.Outcome State Fault Refusal :=
  execV o (floatForm o) (floatFn o (fun m x y _ => m.div o.rnd x y)) s (long := true)

/-- `fsqrt` (R227), long-latency. -/
def execFsqrt (o : VOps) (s : State) : Host.Outcome State Fault Refusal :=
  execV o (floatForm o) (floatFn o (fun m x _ _ => m.sqrt o.rnd x)) s (long := true)

/-- `frcp` (R227), long-latency. -/
def execFrcp (o : VOps) (s : State) : Host.Outcome State Fault Refusal :=
  execV o (floatForm o) (floatFn o (fun m x _ _ => m.recip o.rnd x)) s (long := true)

/-- `frsq` (R227), long-latency. -/
def execFrsq (o : VOps) (s : State) : Host.Outcome State Fault Refusal :=
  execV o (floatForm o) (floatFn o (fun m x _ _ => m.rsqrt o.rnd x)) s (long := true)

/-- `fexp2` (R228), long-latency. -/
def execFexp2 (o : VOps) (s : State) : Host.Outcome State Fault Refusal :=
  execV o (floatForm o) (floatFn o (fun m x _ _ => m.exp2 o.rnd x)) s (long := true)

/-- `flog2` (R228), long-latency. -/
def execFlog2 (o : VOps) (s : State) : Host.Outcome State Fault Refusal :=
  execV o (floatForm o) (floatFn o (fun m x _ _ => m.log2 o.rnd x)) s (long := true)

/-- `fsin` (R228), long-latency. -/
def execFsin (o : VOps) (s : State) : Host.Outcome State Fault Refusal :=
  execV o (floatForm o) (floatFn o (fun m x _ _ => m.sinPi o.rnd x)) s (long := true)

/-- `fcos` (R228), long-latency. -/
def execFcos (o : VOps) (s : State) : Host.Outcome State Fault Refusal :=
  execV o (floatForm o) (floatFn o (fun m x _ _ => m.cosPi o.rnd x)) s (long := true)

/-- `fround` (R229). -/
def execFround (o : VOps) (s : State) : Host.Outcome State Fault Refusal :=
  execV o (floatForm o) (codeFn o (fun m x _ => m.integral o.rnd x)) s

/-- `fscale` (R229): an immediate n is imm25 sign-extended (R207). -/
def execFscale (o : VOps) (s : State) : Host.Outcome State Fault Refusal :=
  execV o { floatForm o with imm := if o.b == .none then (o.imm.signExtend 32).toNat else immValue o.ty o.imm }
    (fun _ a b _ _ => binary32.scale o.rnd (binary32.decode a) (signed 32 b)) s

/-- `fclass` (R229). -/
def execFclass (o : VOps) (s : State) : Host.Outcome State Fault Refusal :=
  execV o (floatForm o) (fun _ a _ _ _ => ((classMask (binary32.decode a)).toNat, 0)) s

/-- The immediate of `fdot2`: an `f32` value in c (R207), else one of the packed type. -/
def dotImm (o : VOps) : Nat := if o.c == .none then immValue .f32 o.imm else immValue o.ty o.imm

/-- `fdot2` (R230). -/
def execFdot2 (o : VOps) (s : State) : Host.Outcome State Fault Refusal :=
  execV o { imm := dotImm o } (fun _ a b c _ =>
    let m := tyFmt o.ty
    let e := fun x k => m.decode (elem 16 x k)
    binary32.dot2 o.rnd (e a 0) (e b 0) (e a 1) (e b 1) (binary32.decode c)) s

end Sys2Proof.Machine
end

