-- ==== Sys2Proof/Machine/Combine.lean ====
section
/-! DEFINITION. Machine/Combine: major 0x38 (R238 to R243). -/
namespace Sys2Proof.Machine

/-! ### Reductions and scans (R239) -/

/-- The values of the participants, chain reads among them, in ascending lane order (R186, R210). -/
def participants (o : VOps) (f : Form) (fn : LaneFn) (is : Issue) (s : State) : Prog :=
  (is.gd.lanes is.g.width).foldl (vLane s is o f fn ((chainReads is.l (VOps.chain o)).getD []) none) { l := is.l }

/-- Lanes with no room to publish (R185). -/
def pubBlocked (s : State) (is : Issue) (l : Launch) (pub : Option (Nat × ChainDecl)) : List (Nat × ChainWait) :=
  match pub with
  | none => []
  | some (c, d) => ((is.gd.lanes is.g.width).filter (fun k => 8 ≤ unconsumed s is.g.launch l c d.maxk (is.g.item k))).map (fun k => (k, .room k c))

/-- An instruction that combines lanes holds every executing lane back while one of them cannot go on (log 14). -/
def holdAll (is : Issue) (s : State) (waits : List (Nat × ChainWait)) : Verdict :=
  .commit (s.onGroup is.key (fun g => g.chainwait is.ex (waitAll g.width is.ex waits))) is.ex 0

/-- Publishes every participant's value (R183). -/
def publishAll (is : Issue) (pub : Option (Nat × ChainDecl)) (val : Nat → Nat) (l : Launch) : Launch :=
  match pub with
  | none => l
  | some (c, _) => (is.gd.lanes is.g.width).foldl (fun la k =>
      let x := la.chainItem c (is.g.item k)
      la.setChain c (is.g.item k) { x with pubs := x.pubs ++ [BitVec.ofNat 32 (val k)] }) l

/-- An instruction that combines the values of its participants. `result` gives every participant's result and the flags. -/
def combineBody (o : VOps) (f : Form) (result : List (Nat × Nat) → List (Nat × Nat) × Word) (is : Issue) (s : State) : Verdict :=
  if is.gd == 0 then .commit s 0 0
  else if pubWaits o is s then .hold s
  else
    let pub := VOps.pubSlot o is.l
    let p := participants o f (fun _ a _ _ _ => (a, 0)) is s
    let waits := p.waits ++ pubBlocked s is p.l pub
    if !waits.isEmpty then holdAll is s waits
    else
      let (out, flags) := result p.out
      let s := s.setLaunch is.g.launch (publishAll is pub (outAt out) p.l)
      .commit (s.onGroup is.key (fun g => (g.writeD o.d f.wide f.signed is.gd (resultShape is o f) (outAt out)).orFlags flags)) 0 0

/-- The frame of an instruction that combines lanes. -/
def execCombine (o : VOps) (f : Form) (result : List (Nat × Nat) → List (Nat × Nat) × Word) (s : State) : Host.Outcome State Fault Refusal :=
  s.run o.pred o.neg (VOps.touched o f).1 (VOps.touched o f).2 (combineBody o f result) (chainAhead o (VOps.chain o))

/-- Sums of a list, one rounding an addition, from a first term; each with the flags so far. -/
def floatSums (rnd : Rnd) : Nat → Word → List Nat → List (Nat × Word)
  | _, _, [] => []
  | acc, fl, x :: r =>
    let y := binary32.add rnd (binary32.decode acc) (binary32.decode x)
    (y.1, fl ||| y.2) :: floatSums rnd y.1 (fl ||| y.2) r

/-- Exact sums of integers. -/
def intSums : Int → List Int → List Int
  | _, [] => []
  | acc, x :: r => (acc + x) :: intSums (acc + x) r

/-- R28, R38, R239: the first term of a float reduction: unrounded, but a NaN is canonical and a signalling one sets NV (log 77). -/
def firstTerm (x : Nat) : FRes :=
  match binary32.decode x with
  | .nan sig => binary32.nanRes sig
  | _ => (x, 0)

/-- R239: every partial sum of a list, the first term unrounded, with the flags up to it. -/
def partialSums (o : VOps) (xs : List Nat) : List (Nat × Word) :=
  let w := tyBits o.ty
  if o.ty == .f32 then
    match xs with
    | [] => []
    | x :: r => firstTerm x :: floatSums o.rnd (firstTerm x).1 (firstTerm x).2 r
  else (intSums 0 (xs.map (intOf (tySigned o.ty) w))).map (narrow o.sat (tySigned o.ty) w)

/-- R239: the sums before each term, from the identity. -/
def sumsBefore (o : VOps) (xs : List Nat) : List (Nat × Word) :=
  let w := tyBits o.ty
  let n := xs.length
  if o.ty == .f32 then ((0, 0) :: floatSums o.rnd 0 0 xs).take n
  else ((0 :: intSums 0 (xs.map (intOf (tySigned o.ty) w))).take n).map (narrow o.sat (tySigned o.ty) w)

/-- Every lane of a list given one value. -/
def toAll (l : List (Nat × Nat)) (x : Nat) : List (Nat × Nat) := l.map (fun y => (y.1, x))

/-- R239: the form of a reduction: a 64-bit type takes pairs. -/
def redForm (o : VOps) : Form := { wide := o.ty.wide, wideA := o.ty.wide, signed := tySigned o.ty, shadowed := false }

/-- R239: the sum, with the flags of every addition made. -/
def sumAll (o : VOps) (l : List (Nat × Nat)) : List (Nat × Nat) × Word :=
  match (partialSums o (l.map (·.2))).getLast? with
  | some (x, fl) => (toAll l x, fl)
  | none => ([], 0)

/-- R226, R239: the larger or smaller of two values. -/
def pickTwo (o : VOps) (small : Bool) (x y : Nat × Word) : Nat × Word :=
  if o.ty == .f32 then
    let r := binary32.minmax small x.1 y.1
    (r.1, x.2 ||| r.2)
  else
    let a := intOf (tySigned o.ty) (tyBits o.ty) x.1
    let b := intOf (tySigned o.ty) (tyBits o.ty) y.1
    (if (if small then a ≤ b else b ≤ a) then x.1 else y.1, 0)

def pickAll (o : VOps) (small : Bool) (l : List (Nat × Nat)) : List (Nat × Nat) × Word :=
  match l with
  | [] => ([], 0)
  | (_, x) :: r =>
    let (y, fl) := r.foldl (fun acc z => pickTwo o small acc (z.2, 0)) (if o.ty == .f32 then firstTerm x else (x, 0))
    (toAll l y, fl)

/-- `redadd` (R239). -/
def execRedadd (o : VOps) (s : State) : Host.Outcome State Fault Refusal :=
  execCombine o (redForm o) (sumAll o) s

/-- `redmax` (R239). -/
def execRedmax (o : VOps) (s : State) : Host.Outcome State Fault Refusal :=
  execCombine o (redForm o) (pickAll o false) s

/-- `redmin` (R239). -/
def execRedmin (o : VOps) (s : State) : Host.Outcome State Fault Refusal :=
  execCombine o (redForm o) (pickAll o true) s

/-- R104: a scan's result is G. -/
def scanForm (o : VOps) : Form := { signed := tySigned o.ty, shadowed := false, shape := some .g }

def scanAll (o : VOps) (l : List (Nat × Nat)) : List (Nat × Nat) × Word :=
  let sums := if o.imm == 1 then sumsBefore o (l.map (·.2)) else partialSums o (l.map (·.2))
  let out := (l.map (·.1)).zip (sums.map (·.1))
  -- an exclusive scan also makes the last addition (R239)
  let last := if o.imm == 1 && o.ty == .f32 then ((floatSums o.rnd 0 0 (l.map (·.2))).getLast?.map (·.2)).getD 0 else 0
  (out, sums.foldl (fun f x => f ||| x.2) last)

/-- `scan` (R239). -/
def execScan (o : VOps) (s : State) : Host.Outcome State Fault Refusal :=
  execCombine o (scanForm o) (scanAll o) s

/-! ### Distances (R240) -/

/-- R240: element formats that are exact in binary32. -/
def distFmt (fmt : Nat) : Bool := fmt ≤ 5

/-- R240: an element of a format as a binary32 code, exact; a signalling NaN sets NV (R38). -/
def widen (fmt x : Nat) : FRes :=
  match fmt with
  | 0 => (x, 0)
  | 1 => convertFloat bf16 binary32 .rn x
  | 2 => convertFloat fp16 binary32 .rn x
  | 3 => convertFloat e4m3 binary32 .rn x
  | 4 => convertFloat e5m2 binary32 .rn x
  | _ => binary32.round .rn (signed 8 x < 0) (signed 8 x).natAbs 0

/-- R240: the two identifiers fit each other. -/
def distFits (r q : List Dword) : Bool :=
  let d := tidExtent r 0
  distFmt (tidFmt r) && distFmt (tidFmt q) && d == tidExtent q 0 && d % 32 == 0 && 32 ≤ d && d ≤ 4096

/-- The addresses of a row's elements, with their size. -/
def rowElems (r : List Dword) (i : Nat) : List Nat := (List.range (tidExtent r 0)).map (fun e => tidElem r e i 0 0)

/-- R240: a plain read of an element. -/
def elemAccess (s : State) (is : Issue) (l n a : Nat) : Access :=
  if a % n != 0 then .align else resolve s is .generic .read false l a

/-- R252: the fault of several accesses of one lane: a misaligned one first, then one that is not allowed, then one without a translation. -/
def worst (l : List (Nat × Access)) : Option (Nat × Access) :=
  ((l.find? (fun x => x.2 == .align)).or (l.find? (fun x => x.2.isProt))).or (l.find? (fun x => match x.2 with
    | .ok _ => false
    | _ => true))

/-- R240: the fault of a lane's element reads, with its address. -/
def rowFault (s : State) (is : Issue) (l n : Nat) (elems : List Nat) : Option (Nat × Access) :=
  worst (elems.map (fun a => (a, elemAccess s is l n a)))

/-- The bytes of an element: memory's, or those a peer has sent for this issue; free ones in a line with an uncorrectable error (R119). -/
def elemBytes (s : State) (is : Issue) (l n a : Nat) : Option (List Byte) :=
  match elemAccess s is l n a with
  | .ok p => match p, p.loc with
    | _, .here key => some (if s.badLine key then leBytes n (Config.freeWord (s.env.tick * 2 ^ 80 + key)).toNat else Memory.bytes s.mem key n)
    | .page va _ _, .peer _ _ => is.g.sent va n
    | .sram _, .peer _ _ => none
  | _ => none

/-- The value read of an element. -/
def elemValue (s : State) (is : Issue) (l n fmt a : Nat) : FRes := widen fmt (leNat ((elemBytes s is l n a).getD []))

/-- R240: the distance of two rows of binary32 codes, element by element. -/
def distance (ip : Bool) : List (FRes × FRes) → Nat → Word → FRes
  | [], acc, fl => (acc, fl)
  | (x, q) :: r, acc, fl =>
    let d := binary32.decode
    let fl := fl ||| x.2 ||| q.2
    if ip then
      let y := binary32.fma .rn (d q.1) (d x.1) (d acc)
      distance ip r y.1 (fl ||| y.2)
    else
      let t := binary32.sub .rn (d q.1) (d x.1)
      let y := binary32.fma .rn (d t.1) (d t.1) (d acc)
      distance ip r y.1 (fl ||| t.2 ||| y.2)

/-- Negates a code; a NaN stays canonical. -/
def negCode (x : Nat) : Nat := if (binary32.decode x).isNan then binary32.nan else if x < 2 ^ 31 then x + 2 ^ 31 else x - 2 ^ 31

/-- R240: the form of `dist`: its result is G. -/
def distForm : Form := { shadowed := false, shape := some .g }

/-- The result of one lane. -/
def distLane (s : State) (is : Issue) (ip : Bool) (r q : List Dword) : LaneFn := fun l a b _ _ =>
  if tidExtent r 1 ≤ a || tidExtent q 1 ≤ b then (binary32.nan, fNV)
  else
    let xs := (rowElems r a).map (elemValue s is l (fmtBytes (tidFmt r)) (tidFmt r))
    let qs := (rowElems q b).map (elemValue s is l (fmtBytes (tidFmt q)) (tidFmt q))
    let (x, fl) := distance ip (xs.zip qs) 0 0
    (if ip then negCode x else x, fl)

/-- A participant of a `dist`: its lane, its row and its query. -/
abbrev DistLane := Nat × Nat × Nat

/-- The elements a participant reads, with their size; none where an index lies past its extent. -/
def distElems (r q : List Dword) (x : DistLane) : List (Nat × Nat) :=
  if tidExtent r 1 ≤ x.2.1 || tidExtent q 1 ≤ x.2.2 then []
  else (rowElems r x.2.1).map (fun a => (a, fmtBytes (tidFmt r))) ++ (rowElems q x.2.2).map (fun a => (a, fmtBytes (tidFmt q)))

/-- A participant's reads as one access (R252). -/
def distAccess (s : State) (is : Issue) (r q : List Dword) (x : DistLane) : Nat × Access :=
  (worst ((distElems r q x).map (fun e => (e.1, elemAccess s is x.1 e.2 e.1)))).getD (0, .ok (.sram 0))

/-- The lines with an uncorrectable error that a participant reads. -/
def distBad (s : State) (is : Issue) (r q : List Dword) (x : DistLane) : List Nat :=
  ((distElems r q x).filterMap (fun e => match elemAccess s is x.1 e.2 e.1 with
    | .ok p => match p.loc with
      | .here key => if s.badLine key then some (lineName key) else none
      | .peer _ _ => none
    | _ => none)).eraseDups

/-- The translations a participant's reads use, and the lines in error they meet, which are logged (R119). -/
def distTouch (is : Issue) (r q : List Dword) (s : State) (x : DistLane) : State :=
  let bad := distBad s is r q x
  let s := (distElems r q x).foldl (fun s e => match elemAccess s is x.1 e.2 e.1 with
    | .ok p => touch s is.g.ctx .read p
    | _ => s) s
  if bad.isEmpty then s
  else
    let s := bad.foldl (fun s line => logEvent s is.g.ctx false 7 is.core 0 line 0 0) s
    { s with env := { s.env with tick := s.env.tick + 1 } }

/-- The peers' elements that a participant still lacks: address, size, leaf and the peer's address. -/
def distLacks (s : State) (is : Issue) (r q : List Dword) (x : DistLane) : List (Nat × Nat × Dword × Nat) :=
  (distElems r q x).filterMap (fun e => match elemAccess s is x.1 e.2 e.1 with
    | .ok (.page va w _) => match leafLoc w va with
      | .peer _ pa => if (is.g.sent va e.2).isNone then some (va, e.2, w, pa) else none
      | .here _ => none
    | _ => none)

/-- Asks peers for elements, each once. -/
def distAsk (is : Issue) (s : State) (x : Nat × Nat × Dword × Nat) : State :=
  askOnce s is.key is.g.ctx x.1 x.2.2.1 x.2.2.2 x.2.1

/-- `dist` (R240), its identifiers valid. Where elements lie in a peer's memory the issue holds until they have come. -/
def distRows (o : VOps) (is : Issue) (s : State) (r q : List Dword) : Verdict :=
  let reads := (chainReads is.l (VOps.chain o)).getD []
  let pub := VOps.pubSlot o is.l
  let p := (is.gd.lanes is.g.width).foldl (vLane s is o distForm (fun _ a b _ _ => (a + 2 ^ 32 * b, 0)) reads pub) { l := is.l }
  let rows : List DistLane := p.out.map (fun x => (x.1, x.2 % 2 ^ 32, x.2 / 2 ^ 32))
  let accs := rows.map (fun x => (x.1, distAccess s is r q x))
  let whole := accs.any (fun x => x.2.2 == .align || x.2.2.isProt)
  let lacks := (rows.filter (fun x => accs.any (fun a => a.1 == x.1 && (match a.2.2 with
    | .ok _ => true
    | _ => false)))).flatMap (distLacks s is r q)
  if !whole && !lacks.isEmpty then .hold (lacks.foldl (distAsk is) s)
  else match settleAccess s is .read accs with
  | .stop v => v
  | .go s' _ parked =>
    let go := rows.filter (fun x => !parked.has x.1)
    let p2 := (go.map (·.1)).foldl (vLane s is o distForm (distLane s is (o.imm.getLsbD 16) r q) reads pub) { l := is.l }
    let s' := go.foldl (distTouch is r q) s'
    match vCommit s' { is with gd := is.gd &&& ~~~parked } o distForm (some o.look.toNat) false { p2 with waits := p.waits } with
    | .commit s stay moved => .commit s (stay ||| parked) moved
    | v => v

/-- `dist` (R240): plain loads, which wait for an earlier acquire (R250). -/
def distBody (o : VOps) (is : Issue) (s : State) : Verdict :=
  if is.gd == 0 then .commit s 0 0
  else
    let r := s.tid is.g.ctx (o.imm.extractLsb' 0 8).toNat
    let q := s.tid is.g.ctx (o.imm.extractLsb' 8 8).toNat
    let code := if tidCode r false != 0 then tidCode r false else tidCode q false
    if code != 0 then .trap s 9 code 0 is.ex
    else if !distFits r q then .trap s 9 8 0 is.ex
    else if mustWait s is.key (if o.pub then .rel else .plain) false then .hold s
    else distRows o is s r q

/-- `dist` (R240). -/
def execDist (o : VOps) (s : State) : Host.Outcome State Fault Refusal :=
  s.run o.pred o.neg (VOps.touched o distForm).1 (VOps.touched o distForm).2 (distBody o) (chainAhead o (VOps.chain o))

/-! ### Top-k lists (R241 to R243) -/

/-- An entry: score code and id. -/
abbrev Scored := Nat × Nat

/-- R241: the order of entries. -/
def precedes (x y : Scored) : Bool :=
  match (binary32.decode x.1).cmp (binary32.decode y.1) with
  | .lt => true
  | .eq => x.2 < y.2
  | .gt => false

/-- Places an entry in order. -/
def inOrder (x : Scored) : List Scored → List Scored
  | [] => [x]
  | y :: r => if precedes x y then x :: y :: r else y :: inOrder x r

/-- R242: `insert` into a list of capacity `k`, and whether NV is set. -/
def insertEntry (k : Nat) (l : List Scored) (x : Scored) : List Scored × Bool :=
  if (binary32.decode x.1).isNan then (l, true)
  else if l.length < k then (inOrder x l, false)
  else match l.getLast? with
    | some z => if precedes x z then (inOrder x l.dropLast, false) else (l, false)
    | none => (l, false)

/-- Inserts entries in turn. -/
def insertAll (k : Nat) (l : List Scored) (xs : List Scored) : List Scored × Bool :=
  xs.foldl (fun acc x => let (l, nv) := insertEntry k acc.1 x; (l, acc.2 || nv)) (l, false)

/-- What the checks of a list come to (R241). -/
inductive ListCheck where
  | align
  | prot
  | invalid
  | ok (k : Nat) (entries : List Scored)
  deriving DecidableEq, Repr

/-- Bytes of the team's directly addressed window. -/
def windowRead (s : State) (is : Issue) (off n : Nat) : List Byte :=
  (List.range n).map (fun k => match directKey is.t is.l (off + k) with
    | some key => Memory.read s.mem key
    | none => 0)

/-- Writes bytes of the team's directly addressed window. -/
def windowWrite (is : Issue) (s : State) (off : Nat) : List Byte → State
  | [] => s
  | b :: r => windowWrite is (match directKey is.t is.l off with
    | some key => s.poke key [b]
    | none => s) (off + 1) r

/-- R241: checks a list, and reads it. -/
def checkList (s : State) (is : Issue) (off : Nat) : ListCheck :=
  if off % 16 != 0 then .align
  else if !directFits is.l off 16 then .prot
  else
    let h := windowRead s is off 16
    let count := field h 0 4
    let k := field h 4 4
    if k == 0 || 256 < k || k < count || field h 8 8 != 0 then .invalid
    else if !directFits is.l off (16 + 8 * k) then .prot
    else
      let b := windowRead s is (off + 16) (8 * count)
      .ok k ((List.range count).map (fun e => (field b (8 * e) 4, field b (8 * e + 4) 4)))

/-- Writes a list back: COUNT and its entries. -/
def writeList (s : State) (is : Issue) (off : Nat) (l : List Scored) : State :=
  windowWrite is (windowWrite is s off (leBytes 4 l.length)) (off + 16) (l.flatMap (fun x => leBytes 4 x.1 ++ leBytes 4 x.2))

/-- Sets flags of the group. -/
def setFlags (s : State) (is : Issue) (f : Word) : State := s.onGroup is.key (fun g => g.orFlags f)

/-- `topk` (R242), once its lanes' values are known. -/
def topkList (o : VOps) (is : Issue) (s : State) (lanes : List Scored) : Verdict :=
  let off := opValue is o.c false 0 0
  match checkList s is off with
  | .align => .trap s 5 0 off is.ex
  | .prot => .trap s 7 0 off is.ex
  | .invalid => .commit (setFlags s is fRC) 0 0
  | .ok k l =>
    let (l', nv) := insertAll k l lanes
    .commit (setFlags (writeList s is off l') is (if nv then fNV else 0)) 0 0

/-- `topk` (R242); a chain operand that is not there yet keeps every lane back (log 14). It is an acq-rel access (R243). -/
def topkBody (o : VOps) (is : Issue) (s : State) : Verdict :=
  if is.gd == 0 then .commit s 0 0
  else if mustWait s is.key .ar true then .hold s
  else
    let p := participants o { shadowed := false } (fun _ a b _ _ => (a + 2 ^ 32 * b, 0)) is s
    if !p.waits.isEmpty then holdAll is s p.waits
    else
      match topkList o is s (p.out.map (fun x => (x.2 % 2 ^ 32, x.2 / 2 ^ 32))) with
      | .commit s stay moved => .commit (s.setLaunch is.g.launch p.l) stay moved
      | v => v

def execTopk (o : VOps) (s : State) : Host.Outcome State Fault Refusal :=
  s.run o.pred o.neg (VOps.touched o {}).1 [] (topkBody o) (chainAhead o (VOps.chain o))

/-- `topm` (R242): the source is read in full before the destination is written. -/
def topmBody (o : VOps) (is : Issue) (s : State) : Verdict :=
  if is.gd == 0 then .commit s 0 0
  else if mustWait s is.key .ar true then .hold s
  else
    let a := opValue is o.a false 0 0
    let b := opValue is o.b false 0 0
    match checkList s is a, checkList s is b with
    | .align, _ => .trap s 5 0 a is.ex
    | .prot, _ => .trap s 7 0 a is.ex
    | _, .align => .trap s 5 0 b is.ex
    | _, .prot => .trap s 7 0 b is.ex
    | .ok k l, .ok _ src =>
      let (l', nv) := insertAll k l src
      .commit (setFlags (writeList s is a l') is (if nv then fNV else 0)) 0 0
    | _, _ => .commit (setFlags s is fRC) 0 0

def execTopm (o : VOps) (s : State) : Host.Outcome State Fault Refusal :=
  s.run o.pred o.neg (VOps.touched o {}).1 [] (topmBody o) (chainAhead o (VOps.chain o))

end Sys2Proof.Machine
end

