-- ==== Sys2Proof/Machine/Convert.lean ====
section
/-! DEFINITION. Machine/Convert: major 0x30 (R231 to R237). -/
namespace Sys2Proof.Machine

/-- R233: converts one element between two types. -/
def convertElem (o : VOps) (src dst : Ty) (x : Nat) : FRes :=
  let w := tyBits dst
  let sg := tySigned dst
  match tyFloat src, tyFloat dst with
  | true, true => convertFloat (tyFmt src) (tyFmt dst) o.rnd x
  | true, false => floatToInt (tyFmt src) o.rnd w sg x
  | false, true => intToFloat (tyFmt dst) o.rnd (intOf (tySigned src) (tyBits src) x)
  | false, false => narrow o.sat sg w (intOf (tySigned src) (tyBits src) x)

/-- R232: the source elements a result takes, and the first destination element they go to. -/
def cvtSources (n m sel : Nat) (a b : Nat → Nat) : List Nat × Nat :=
  if n == 1 then
    if m == 1 then ([a 0], 0) else ([a 0, b 0], 2 * sel)
  else if m == 1 then ([a sel], 0)
  else if n == 2 then ([a 0, a 1], if m == 4 then 2 * sel else 0)
  else if m == 2 then ([a (2 * sel), a (2 * sel + 1)], 0)
  else ([a 0, a 1, a 2, a 3], 0)

/-- R232: writes elements into a word from a position on, keeping the others. -/
def putElems (w total : Nat) (old first : Nat) (l : List Nat) : Nat :=
  unelem w ((List.range total).map (fun k => if first ≤ k && k < first + l.length then l.getD (k - first) 0 else elem w old k))

/-- R232, R233: `cvt` on one lane. -/
def cvtFn (o : VOps) (src : Ty) : LaneFn := fun _ a b _ d =>
  let w := tyBits src
  let r := cvtSources src.elems o.ty.elems (cvtSEL o) (elem w a) (elem w b)
  let l := r.1.map (convertElem o src o.ty)
  (putElems (tyBits o.ty) o.ty.elems d r.2 (l.map (·.1)), l.foldl (fun f x => f ||| x.2) 0)

/-- R232: elements of d are kept, so d is a source, and the result is G. -/
def cvtKeeps (o : VOps) (src : Ty) : Bool := o.ty.elems == 4 && src.elems < 4

/-- `cvt` (R231 to R233). -/
def execCvt (o : VOps) (s : State) : Host.Outcome State Fault Refusal :=
  let src := (cvtST o).getD .f32
  execV o { wide := o.ty.wide, wideA := src.wide, wideB := src.wide, signed := o.ty == .i32, readsD := cvtKeeps o src, shape := if cvtKeeps o src then some .g else none } (cvtFn o src) s

/-- R234: the block of 32 lanes that a lane lies in, from the guarded lanes. -/
def planeBlock (o : VOps) (value : Nat → Nat) (gd : Mask) (j : Nat) : Block × Word :=
  toPlane (cvtP o) (fmtBig binary32) ((List.range 32).map (fun k =>
    let l := 32 * j + k
    if l < 64 && gd.has l then binary32.decode (value l) else .fin false 0 0))

/-- R206, R234: a place field that the group's width does not allow; CHAIN_BAD after it (R95). -/
def planeAhead (o : VOps) : Ahead :=
  let chain := chainAhead o [(o.a, o.ka)]
  { chain with first := fun is => if is.g.width == 16 && 14 < cvtP o then some 2 else chain.first is }

/-- R234: whether a chain read or a full buffer keeps any guarded lane from supplying its element; then no lane goes on. -/
def planeBody (o : VOps) (is : Issue) (s : State) : Verdict :=
  if pubWaits o is s then .hold s
  else
    let lanes := is.gd.lanes is.g.width
    let pub := VOps.pubSlot o is.l
    -- the guarded lanes' chain reads, in lane order
    let p := lanes.foldl (vLane s is o {} (fun _ a _ _ _ => (a, 0)) ((chainReads is.l [(o.a, o.ka)]).getD []) none) { l := is.l }
    -- room for their publications
    let waits := p.waits ++ (match pub with
      | some (c, d) => (lanes.filter (fun l => 8 ≤ unconsumed s is.g.launch p.l c d.maxk (is.g.item l) && !(p.waits.any (fun w => w.1 == l)))).map
          (fun l => (l, ChainWait.room l c))
      | none => [])
    if !waits.isEmpty then .commit (s.onGroup is.key (fun g => g.chainwait is.ex (waitAll g.width is.ex waits))) is.ex 0
    else
      let b0 := planeBlock o (outAt p.out) is.gd 0
      let b1 := planeBlock o (outAt p.out) is.gd 1
      let val := fun l => if l < 32 then b0.1.word l else b1.1.word (l - 32)
      let flags := b0.2 ||| (if 32 < is.g.width then b1.2 else 0)
      let la := match pub with
        | some (c, _) => lanes.foldl (fun (la : Launch) l =>
            let i := is.g.item l
            la.setChain c i { la.chainItem c i with pubs := (la.chainItem c i).pubs ++ [BitVec.ofNat 32 (val l)] }) p.l
        | none => p.l
      let s := (s.setLaunch is.g.launch la).onGroup is.key (fun g => (g.writeD o.d false false is.ex .g val).orFlags flags)
      let serial := match pub with
        | some (c, _) => (chainSlots ((chainReads is.l [(o.a, o.ka)]).getD [])).contains c
        | none => false
      if serial then .commit s 0 0 else shadowed is s 0 is.gd is.ex val

/-- R235: `pk` on one lane. -/
def pkFn (o : VOps) : LaneFn := fun _ a b _ _ =>
  if tyBits o.ty == 16 then (elem 16 a 0 + 2 ^ 16 * elem 16 b 0, 0)
  else (elem 8 a 0 + 2 ^ 8 * elem 8 b 0 + 2 ^ 16 * elem 8 a 2 + 2 ^ 24 * elem 8 b 2, 0)

/-- `pk` (R235). -/
def execPk (o : VOps) (s : State) : Host.Outcome State Fault Refusal :=
  execV o { imm := immValue o.ty o.imm } (pkFn o) s

/-- `unpk` (R235): an immediate b is an element index (R207). -/
def execUnpk (o : VOps) (s : State) : Host.Outcome State Fault Refusal :=
  execV o { imm := o.imm.toNat } (fun _ a b _ _ =>
    let w := tyBits o.ty
    let x := elem w a (b % 2 ^ 32 % o.ty.elems)
    (if tyFloat o.ty then x else wrap 32 (signed w x), 0)) s

/-- R236: `mxun` on one lane. -/
def mxunFn (o : VOps) : LaneFn := fun _ a b _ _ =>
  let n := o.ty.elems
  let f := tyFmt o.ty
  let scale := b % 256
  let l := (List.range n).map (fun k =>
    let v := e2m1 (elem 4 a (o.imm.toNat * n + k))
    if scale == 255 then (f.nan, 0) else f.round o.rnd v.1 v.2 ((scale : Int) - 128))
  (unelem (tyBits o.ty) (l.map (·.1)), l.foldl (fun x y => x ||| y.2) 0)

/-- `mxun` (R236). -/
def execMxun (o : VOps) (s : State) : Host.Outcome State Fault Refusal := execV o {} (mxunFn o) s

/-- R237: the FP8 code of a ternary digit. -/
def ternDigit (t : Ty) (d : Nat) : Nat :=
  match d with
  | 0 => 0
  | 1 => if t == .e4m3x4 then 0x38 else 0x3c
  | _ => if t == .e4m3x4 then 0xb8 else 0xbc

/-- R237: `tern` on one lane. -/
def ternFn (o : VOps) : LaneFn := fun _ a _ _ _ =>
  let x := elem 8 a o.imm.toNat
  if 243 ≤ x then (copies 8 5 (tyFmt o.ty).nan, fRC)
  else (unelem 8 ((List.range 5).map (fun k => ternDigit o.ty (x / 3 ^ k % 3))), 0)

/-- `tern` (R237). -/
def execTern (o : VOps) (s : State) : Host.Outcome State Fault Refusal := execV o { wide := true } (ternFn o) s

/-- `cvt` to plane form (R234). -/
def execCvtPlane (o : VOps) (s : State) : Host.Outcome State Fault Refusal :=
  s.run o.pred o.neg (226 :: (if o.ka == 0 then Opnd.regs o.a false else [])) (Opnd.regs o.d false) (planeBody o) (planeAhead o)

end Sys2Proof.Machine
end

