-- ==== Sys2Proof/Machine/Link.lean ====
section
/-! DEFINITION. Machine/Link: die links, fabric ports, and the flits of reads, writes, atomics, time and control (R425 to R433). The payload layouts are the model's (log 12). -/
namespace Sys2Proof.Machine

/-! ### Die links (R425, R426) -/

/-- The links: 0 to 3 between C-die k and its neighbour (k + 1) mod 4, 4 to 7 between C-die k and the S-die (log 25). -/
def dieLinks : Nat := 8

/-- R425: retransmissions of a beat. -/
def beatRetries : Nat := 16

/-- DIE_LINK_BEAT (R425, R426). -/
def execDieLinkBeat (link : Nat) (crcOk : Bool) (s : State) : Host.Outcome State Fault Refusal :=
  let x := (lookup s.link.dies link).getD {}
  let put := fun (y : DieLink) => { s with link := { s.link with dies := insert s.link.dies link y } }
  if dieLinks ≤ link || !x.up then .next s
  else if crcOk then .next (put { x with fails := 0 })
  else if x.fails < beatRetries then .next (logDevice (put { x with fails := x.fails + 1 }) true 4 (link % 4) 0)
  else .next (logDevice (put { up := false, fails := 0 }) false 4 (link % 4) 0)

/-- R426: the next die clockwise and counterclockwise round the ring of C-dies; 4 names the S-die. -/
def ringNext (d : Nat) : Nat := (d + 1) % 4
def ringBack (d : Nat) : Nat := (d + 3) % 4

/-- A die link is up. -/
def linkUp (s : State) (link : Nat) : Bool := ((lookup s.link.dies link).getD {}).up

/-- R426: the way from one C-die to another round the ring, after the first die. -/
def ringWay (next : Nat → Nat) (b : Nat) : Nat → Nat → List Nat
  | 0, _ => []
  | n + 1, a => if a == b then [] else next a :: ringWay next b n (next a)

/-- R426: the ring links of a way that begins at a die are up. A link carries the number of the die before it. -/
def wayUp (s : State) (a : Nat) : List Nat → Bool
  | [] => true
  | d :: r => linkUp s (if d == ringNext a then a else d) && wayUp s d r

/-- R426: the dies that traffic between two C-dies passes after the first: the direct link, or by (source + 1) mod 4; the other way round where a link of that way is down. -/
def ringRoute (s : State) (a b : Nat) : List Nat :=
  let first := if b == ringBack a then ringBack else ringNext
  let other := if b == ringBack a then ringNext else ringBack
  let way := ringWay first b 4 a
  if wayUp s a way then way else ringWay other b 4 a

/-- R426: the C-die by which traffic between a C-die and the S-die passes: itself, or where its S-die link is down its neighbour with the lower number. -/
def sGate (s : State) (d : Nat) : Nat := if linkUp s (4 + d) then d else min (ringNext d) (ringBack d)

/-- R426: the dies that traffic passes after its source; 4 is the S-die. Only time and bandwidth depend on it. -/
def dieRoute (s : State) (a b : Nat) : List Nat :=
  if a == b then []
  else if b == 4 then (if sGate s a == a then [4] else ringRoute s a (sGate s a) ++ [4])
  else if a == 4 then (if sGate s b == b then [b] else sGate s b :: ringRoute s (sGate s b) b)
  else ringRoute s a b

/-! ### Fabric ports (R427, R429, R432) -/

def portCount : Nat := 18

def State.port (s : State) (p : Nat) : Port := (lookup s.link.ports p).getD {}
def State.setPort (s : State) (p : Nat) (x : Port) : State := { s with link := { s.link with ports := insert s.link.ports p x } }

/-- R432: a request sent on a port that is now down goes again, on its line's new port, if there is one. -/
def resend (s : State) (x : Nat × PeerReq) : State :=
  match portOf s x.2.ports x.2.pa with
  | none => s
  | some p =>
    let r := { x.2 with port := p }
    ({ s with link := { s.link with reqs := insert s.link.reqs x.1 r } } : State).send p (reqFlit s r)

/-- R432: the set of up ports has changed: what was sent on a port now down goes again in the order of SEQ, then what was kept back. -/
def portsChange (s : State) : State :=
  flushReqs ((s.link.reqs.filter (fun x => !x.2.queued && !(s.port x.2.port).up)).foldl resend s)

/-- R429, R432: a port goes down. -/
def portDown (s : State) (p : Nat) : State := portsChange (logDevice (s.setPort p {}) false 5 p 0)

/-- FABRIC_PORT_TRAINING (R427): a port runs eight lanes, four, or none. -/
def execFabricPortTraining (port lanes : Nat) (s : State) : Host.Outcome State Fault Refusal :=
  if portCount ≤ port then .next s
  else if lanes < 4 then .next (if (s.port port).up then portDown s port else s.setPort port {})
  else .next (portsChange (s.setPort port { up := true, lanes := if 8 ≤ lanes then 8 else 4, fails := 0 }))

/-- R429: failures of a flit after which its port goes down. -/
def flitFailures : Nat := 64

/-- R428: the types of flits that have a group id and incarnation. -/
def flitColl (f : Flit) : Bool := f.type == 6 || f.type == 7

/-- R428, R430: a flit as its header allows it. -/
def flitOk (s : State) (f : Flit) : Bool :=
  s.link.id != 0 && f.tail == 0 && f.dst.toNat == s.link.id && f.flags.toNat < 4 && f.len ≤ 232 && f.payload.length == f.len &&
    (flitColl f || (f.gid == 0 && f.inc == 0)) && (f.type == 6 || f.rank == 0)

/-- R428: a type that is defined. -/
def flitKnown (f : Flit) : Bool := 1 ≤ f.type.toNat && f.type.toNat ≤ 10

/-- A flit arrives at a port: it is resent where its CRC fails (R429), and dropped and logged where its type is none (R428) or it is not for this device (R430). A flit of another type is another event. -/
def receive (s : State) (port type : Nat) (f : Flit) (go : State → State) : Host.Outcome State Fault Refusal :=
  let x := s.port port
  if portCount ≤ port || !x.up || (flitKnown f && f.type.toNat != type) then .next s
  else if !f.crcOk then
    .next (if x.fails + 1 < flitFailures then logDevice (s.setPort port { x with fails := x.fails + 1 }) true 5 port 0 else portDown s port)
  else
    let s := s.setPort port { x with fails := 0 }
    .next (if flitKnown f && flitOk s f then go s else logDevice s false 6 port 0)

/-! ### Inbound requests (R432, R433) -/

/-- R432: what the target keeps of a request it has performed: the last 4,096 of a source. -/
def keepPerformed (s : State) (f : Flit) (reply : Flit) : State :=
  let src := f.src.toNat
  let mine := s.link.performed.filter (fun x => x.source == src)
  let rest := s.link.performed.filter (fun x => x.source != src)
  { s with link := { s.link with performed := rest ++ (mine ++ [({ source := src, seq := f.seq, reply } : Performed)]).drop (mine.length + 1 - 4096) } }

/-- R432: answers a request and remembers the answer. -/
def answer (s : State) (port type : Nat) (f : Flit) (payload : List Byte) : State :=
  let r := flitTo s type f.src.toNat f.seq payload
  (keepPerformed s f r).send port r

/-- R433: an entry of the inbound table covers a source and a range. -/
def covered (s : State) (src pa n : Nat) : Bool := s.link.inbound.any (fun e => e.source == src && e.lo ≤ pa && pa + n ≤ e.hi)

/-- R433: the FAIL code of an inbound request: 2 without an entry, 3 without memory. -/
def inboundFail (s : State) (f : Flit) (n : Nat) : Nat :=
  let pa := field f.payload 0 8
  if !covered s f.src.toNat pa n then 2
  else if n == 0 || !paOk pa || !paOk (pa + n - 1) then 3
  else 0

/-- R432: a request is performed once; one that was performed has its answer sent again. -/
def once (s : State) (port : Nat) (f : Flit) (go : State → State) : State :=
  match s.link.performed.find? (fun x => x.source == f.src.toNat && x.seq == f.seq) with
  | some x => s.send port x.reply
  | none => go s

/-- R349, R433: an earlier atomic of a request's source to a line it reaches is still to be performed: the request stays at the port. -/
def behindAtomic (s : State) (f : Flit) (n : Nat) : Bool :=
  let pa := field f.payload 0 8
  s.link.atoms.any (fun x => x.flit.src == f.src && pa / 64 ≤ field x.flit.payload 0 8 / 64 && field x.flit.payload 0 8 / 64 ≤ (pa + n - 1) / 64)

/-- FLIT_WRITE (R433): performed and acknowledged, or dropped and logged. -/
def execFlitWrite (port : Nat) (f : Flit) (s : State) : Host.Outcome State Fault Refusal :=
  receive s port 1 f (fun s => once s port f (fun s =>
    let b := f.payload.drop 8
    if inboundFail s f b.length != 0 then logDevice s false 6 port (field f.payload 0 8)
    else if behindAtomic s f b.length then s
    else answer (s.devStore (field f.payload 0 8) b) port 10 f (leBytes 2 0)))

/-- FLIT_READ_REQUEST (R433): answered with the bytes, or with FAIL. -/
def execFlitReadRequest (port : Nat) (f : Flit) (s : State) : Host.Outcome State Fault Refusal :=
  receive s port 2 f (fun s => once s port f (fun s =>
    let n := field f.payload 8 8
    let fail := if 230 < n then 3 else inboundFail s f n
    if fail == 0 && behindAtomic s f n then s
    else answer s port 3 f (leBytes 2 fail ++ (if fail == 0 then Memory.bytes s.mem (field f.payload 0 8) n else []))))

/-- R262, R433: the bytes of an atomic and whether they are aligned. -/
def atomicFail (s : State) (f : Flit) : Nat :=
  let n := field f.payload 12 4
  if !(n == 4 || n == 8) || field f.payload 0 8 % n != 0 || 12 < field f.payload 8 4 then 2 else inboundFail s f n

/-- R371: the home die of a device physical address. -/
def homeDie (pa : Nat) : Nat := paStack pa / 4

/-- R433: requests on the command queue of a die's atomic engine, and how many it takes. -/
def atomsOn (s : State) (die : Nat) : Nat := (s.link.atoms.filter (fun x => x.die == die)).length
def atomQueue : Nat := 4096

/-- FLIT_ATOMIC_REQUEST (R433): one that fails its checks is answered; another waits for the atomic engine of its line's home die, or at the port while that queue is full. One sent again while it waits is answered on the port it came by last (R432). -/
def execFlitAtomicRequest (port : Nat) (f : Flit) (s : State) : Host.Outcome State Fault Refusal :=
  receive s port 4 f (fun s => once s port f (fun s =>
    let same := fun (x : AtomCmd) => x.flit.src == f.src && x.flit.seq == f.seq
    if s.link.atoms.any same then { s with link := { s.link with atoms := s.link.atoms.map (fun x => if same x then { x with port } else x) } }
    else if atomicFail s f != 0 then answer s port 5 f (leBytes 2 (atomicFail s f) ++ leBytes 8 0)
    else if atomQueue ≤ atomsOn s (homeDie (field f.payload 0 8)) then s
    else { s with link := { s.link with atoms := s.link.atoms ++ [{ die := homeDie (field f.payload 0 8), port, flit := f }] } }))

/-- R264, R433: the atomic engine of a die performs the first request of its queue, and answers it. -/
def runAtomics (die : Nat) (s : State) : State :=
  match s.link.atoms.find? (fun x => x.die == die) with
  | none => s
  | some x =>
    let f := x.flit
    let pa := field f.payload 0 8
    let n := field f.payload 12 4
    let old := Memory.value s.mem pa n
    let new := atomOp (field f.payload 8 4) n old (field f.payload 16 8 % 2 ^ (8 * n)) (field f.payload 24 8 % 2 ^ (8 * n))
    let s := { s with link := { s.link with atoms := s.link.atoms.erase x } }
    answer (s.devStore pa (leBytes n new)) x.port 5 f (leBytes 2 0 ++ leBytes 8 old)

/-! ### Answers (R269, R432) -/

/-- The request that an answer from a device belongs to. -/
def reqOf (s : State) (f : Flit) (p : PeerAsk → Bool) : Option (Nat × PeerReq) :=
  s.link.reqs.find? (fun x => !x.2.queued && x.2.dev == f.src.toNat && x.2.seq == f.seq && p x.2.ask)

/-- Bytes a peer sent reach who asked for them. -/
def deliver (s : State) (r : PeerReq) (b : List Byte) : State :=
  match r.for_ with
  | .load g seq l _ => loadReply s g seq l (leNat b)
  | .once g a n => s.onGroup g (fun x => { x with inbox := insert x.inbox (inboxKey a n) b })
  | .job id line =>
    match lookup s.jobs id with
    | some j => { s with jobs := insert s.jobs id { j with inbox := insert j.inbox line b } }
    | none =>
      match lookup s.copies id with
      | some c => { s with copies := insert s.copies id { c with inbox := insert c.inbox line b } }
      | none => s
  | _ => s

/-- Bytes of a read. -/
def PeerAsk.bytes : PeerAsk → Nat
  | .read n => n
  | _ => 0

/-- A read that fails, by FAIL or by the timeout of R268, is logged, and its bytes are free (log 26). -/
def failRead (s : State) (r : PeerReq) : State :=
  let (b, s) := freeBytes (logEvent s r.ctx false 6 0xffff r.port r.pa 0 0) r.ask.bytes
  deliver s r b

/-- FLIT_READ_REPLY (R432). -/
def execFlitReadReply (port : Nat) (f : Flit) (s : State) : Host.Outcome State Fault Refusal :=
  receive s port 3 f (fun s =>
    match reqOf s f (fun a => match a with
      | .read _ => true
      | _ => false) with
    | none => s
    | some (id, r) =>
      let s := dropReq s id
      if field f.payload 0 2 == 0 then deliver s r ((f.payload.drop 2).take r.ask.bytes) else failRead s r)

/-- FLIT_ATOMIC_REPLY (R269). -/
def execFlitAtomicReply (port : Nat) (f : Flit) (s : State) : Host.Outcome State Fault Refusal :=
  receive s port 5 f (fun s =>
    match reqOf s f (fun a => match a with
      | .atomic .. => true
      | _ => false) with
    | none => s
    | some (id, r) =>
      let s := dropReq s id
      let fail := field f.payload 0 2
      match r.for_ with
      | .ring ctx addr => ringReply s ctx addr (field f.payload 2 8) (if fail == 0 then 2 else 3) fail
      | _ => s)

/-- R445: a token of an exchange failed at its target. -/
def failToken (s : State) (r : PeerReq) : State :=
  match r.for_ with
  | .exchange fn => s.setFunc fn { s.func fn with exchange := (s.func fn).exchange.map (fun e => { e with failed := true }) }
  | _ => s

/-- R129, R430: a piece of a slice table that a device sends. One that is no next piece of a table begins a new one. -/
def takePiece (s : State) (f : Flit) : State :=
  let dev := f.src.toNat
  let have_ := if f.seq == 0 then [] else ((lookup s.link.slices dev).map (·.bytes)).getD []
  { s with link := { s.link with slices := insert s.link.slices dev { bytes := have_ ++ f.payload.drop 2, complete := f.flags.getLsbD 1 } } }

/-- R432: an acknowledgement clears a write or a token from the retry store. -/
def takeAck (s : State) (f : Flit) : State :=
  match reqOf s f (fun a => match a with
    | .write _ => true
    | .token _ => true
    | _ => false) with
  | none => s
  | some (id, r) => if field f.payload 0 2 == 0 then dropReq s id else failToken (dropReq s id) r

/-- FLIT_CONTROL (R430, R432): an acknowledgement, or a piece of a slice table (log 12). -/
def execFlitControl (port : Nat) (f : Flit) (s : State) : Host.Outcome State Fault Refusal :=
  receive s port 10 f (fun s => if field f.payload 0 2 == 0x100 then takePiece s f else takeAck s f)

/-- FLIT_TIME (R430): the device's IEEE 1588 time is kept: 6 bytes of seconds, 4 of nanoseconds, as in a slice table (log 12). -/
def execFlitTime (port : Nat) (f : Flit) (s : State) : Host.Outcome State Fault Refusal :=
  receive s port 9 f (fun s =>
    { s with link := { s.link with timeSynced := true, time := field f.payload 0 6 * 10 ^ 9 + field f.payload 6 4, timeAt := s.clk } })

/-- PEER_REQUEST_TIMEOUT (R432): a read, a write or a token that no port can deliver fails; a lost write is logged. -/
def execPeerRequestTimeout (req : Nat) (s : State) : Host.Outcome State Fault Refusal :=
  match lookup s.link.reqs req with
  | none => .next s
  | some r =>
    if s.clk < r.sentAt + requestTimeout || !(upPorts s r.ports).isEmpty then .next s
    else
      let t := dropReq s req
      .next (match r.ask with
        | .read _ => failRead t r
        | .write _ => logEvent t r.ctx false 6 0xffff r.port r.pa 0 0
        | .token _ => failToken t r
        | .atomic .. => s)

end Sys2Proof.Machine
end

