-- ==== Sys2Proof/Machine/Groups.lean ====
section
/-! DEFINITION. Machine/Groups: binding collective groups, and their contributions, results and timeouts (R434 to R441). -/
namespace Sys2Proof.Machine

/-! ### Flits (R434, R437 to R440) -/

/-- R434, R440: a collective flit of a group that is bound with its incarnation goes on; another is dropped, and counted or logged. -/
def collFlit (s : State) (port : Nat) (f : Flit) (go : State → Nat → State) : State :=
  let gid := f.gid.toNat
  let c := s.coll gid
  if !portsRun s || !c.bound then logDevice s false 6 port 0
  else if c.inc != f.inc.toNat then countStale s gid
  else go s gid

/-- R437: contributions that a result lets go are sent. -/
def letGo (s : State) (gid : Nat) : State :=
  let (more, s) := releaseHeld s gid
  sendContributions s gid more

/-- FLIT_CONTRIBUTION (R438, R440). One that reaches a device other than ROOT, or names no rank, is dropped and logged. -/
def execFlitContribution (port : Nat) (f : Flit) (s : State) : Host.Outcome State Fault Refusal :=
  receive s port 6 f (fun s => collFlit s port f (fun s gid =>
    let c := s.coll gid
    let off := field f.payload 0 8
    if c.root != s.link.id || c.nrank ≤ f.rank.toNat || c.len ≤ off then logDevice s false 6 port 0
    else letGo (rootTakes s gid { port, rank := f.rank.toNat, off, round := f.seq.toNat, value := BitVec.ofNat 32 (field f.payload 8 4) }) gid))

/-- FLIT_RESULT (R437, R438, R440, R441). -/
def execFlitResult (port : Nat) (f : Flit) (s : State) : Host.Outcome State Fault Refusal :=
  receive s port 7 f (fun s => collFlit s port f (fun s gid =>
    letGo (writeResult s gid (field f.payload 0 8) f.seq.toNat (field f.payload 12 32) (BitVec.ofNat 32 (field f.payload 8 4))) gid))

/-- COLLECTIVE_TIMEOUT (R439): the round of a word has waited TIMEOUT clk. -/
def execCollectiveTimeout (gid off : Nat) (s : State) : Host.Outcome State Fault Refusal :=
  let c := s.coll gid
  match c.rounds.find? (fun r => r.off == off) with
  | none => .next s
  | some r => .next (if c.bound && c.timeout != 0 && r.since + c.timeout ≤ s.clk then letGo (endRound s gid r) gid else s)

/-! ### BIND and FREE (R435, R436) -/

/-- CLSCMD stands at a command for a group id. -/
def clsIs (s : State) (fn op gid : Nat) : Bool :=
  let w := (s.func fn).clscmd
  fn == physical && cmdGo w && cmdOp w == op && bits w.toNat 43 36 == gid

/-- R436: a member entry. -/
def memberOf (b : List Byte) (k : Nat) : Member := { dev := field b (16 * k) 2, ctx := field b (16 * k + 4) 2, base := field b (16 * k + 8) 8 }

/-- R436: a member entry within its limits; CTX and BASE count only on the rank's own device. -/
def memberOk (s : State) (b : List Byte) (k : Nat) : Bool :=
  let m := memberOf b k
  field b (16 * k + 2) 2 == 0 && field b (16 * k + 6) 2 == 0 && (m.dev != s.link.id || (m.ctx < 4096 && m.base % 65536 == 0 && m.base / 2 ^ 57 == 0))

/-- R436: the descriptor. -/
def collOf (b members : List Byte) : Collective :=
  { bound := true, inc := field b 3 1, last := some (field b 3 1), nrank := field b 0 2, op := field b 2 1, len := field b 4 4, timeout := field b 8 4
    root := field b 12 2, members := (List.range (field b 0 2)).map (memberOf members), status := field b 24 8 }

/-- R436: the limits of the descriptor. -/
def collOk (s : State) (gid : Nat) (b members : List Byte) : Bool :=
  let n := field b 0 2
  1 ≤ n && n ≤ 256 && field b 2 1 < 3 && some (field b 3 1) != (s.coll gid).last && field b 4 4 % 65536 == 0 && zeros b 14 16 && zeros b 32 64 &&
    (List.range n).all (memberOk s members)

/-- R435: CLSCMD's INC field shows the incarnation now bound. -/
def showInc (s : State) (fn inc : Nat) : State :=
  let w := (s.func fn).clscmd
  s.setFunc fn { s.func fn with clscmd := (w &&& ~~~(0xff000000#64)) ||| BitVec.ofNat 64 (inc * 2 ^ 24) }

/-- BIND (R435, R436). -/
def execBind (fn gid : Nat) (s : State) : Host.Outcome State Fault Refusal :=
  if !clsIs s fn 1 gid then .next s
  else if (s.coll gid).bound then .next (endClscmd s fn 3)
  else
    let at_ := (s.func fn).clsarg.toNat
    let b := hostBytes s at_ 64
    let members := hostBytes s (field b 16 8) (16 * min 256 (field b 0 2))
    if at_ % 64 != 0 || !collOk s gid b members then .next (endClscmd s fn 4)
    else .next (endClscmd (showInc (s.setColl gid { collOf b members with stale := (s.coll gid).stale }) fn (field b 3 1)) fn 0)

/-- FREE (R435, R439): open rounds end as timeouts; once no port holds a contribution of the group, the id is unbound. -/
def execFree (fn gid : Nat) (s : State) : Host.Outcome State Fault Refusal :=
  let c := s.coll gid
  if !clsIs s fn 2 gid then .next s
  else if !c.bound then .next (endClscmd s fn 3)
  else
    let s := c.rounds.foldl (fun s r => letGo (endRound s gid r) gid) s
    let c := s.coll gid
    if c.held.isEmpty && c.rounds.isEmpty then .next (endClscmd (s.setColl gid { last := c.last, stale := c.stale }) fn 0) else .next s

end Sys2Proof.Machine
end

