-- ==== Sys2Proof/Machine/Exchange.lean ====
section
/-! DEFINITION. Machine/Exchange: the expert exchange and the placing of its tokens (R442 to R445). -/
namespace Sys2Proof.Machine

/-! ### The ring (R442, R447) -/

/-- R447: XQCTL's context and n. -/
def xqCtx (w : Dword) : Nat := bits w.toNat 47 36
def xqLog (w : Dword) : Nat := bits w.toNat 3 0

/-- R443: the fields of a descriptor. -/
structure XDesc where
  seq : Nat
  src : Nat
  dests : Nat
  ntok : Nat
  tbytes : Nat
  policy : Nat
  ndest : Nat
  cap : Nat
  table : Nat
  compl : Nat
  deriving DecidableEq, Repr

def xdescOf (b : List Byte) : XDesc :=
  { seq := field b 0 8, src := field b 8 8, dests := field b 16 8, ntok := field b 24 4, tbytes := field b 28 2, policy := field b 30 1
    ndest := field b 32 2, cap := field b 34 2, table := field b 40 8, compl := field b 56 8 }

/-- R443: the limits of the fields. -/
def xdescOk (b : List Byte) : Bool :=
  let d := xdescOf b
  1 ≤ d.ntok && d.ntok ≤ 65536 && 64 ≤ d.tbytes && d.tbytes ≤ 8192 && d.tbytes % 64 == 0 && d.policy < 2 && zeros b 31 32 && 1 ≤ d.ndest &&
    d.ndest ≤ 256 && 1 ≤ d.cap && zeros b 36 40 && zeros b 48 56 && d.compl % 16 == 0

/-! ### Placing tokens (R444) -/

/-- R444: the counts so far: tokens at each destination, drops, reroutes. -/
structure Placing where
  cnt : List Nat
  drops : Nat := 0
  reroutes : Nat := 0
  deriving DecidableEq, Repr

/-- R444: the first of d+1, d+2, … that has room. -/
def nextRoom (cnt : List Nat) (cap d : Nat) : Option Nat :=
  ((List.range cnt.length).map (fun k => (d + 1 + k) % cnt.length)).find? (fun e => cnt.getD e 0 < cap)

/-- R444: where a token for `d` goes. -/
def tokenDest (p : Placing) (cap policy d : Nat) : Option Nat × Placing :=
  if p.cnt.length ≤ d then (none, { p with drops := p.drops + 1 })
  else
    let full := cap ≤ p.cnt.getD d 0
    let dest := if full && policy == 1 then nextRoom p.cnt cap d else if full then none else some d
    match dest with
    | none => (none, { p with drops := p.drops + 1 })
    | some e => (some e, { p with cnt := p.cnt.set e (p.cnt.getD e 0 + 1), reroutes := if e != d || full then p.reroutes + 1 else p.reroutes })

/-- R444: the tokens in ascending order: each placed token with its destination and slot. -/
def placeTokens (cap policy : Nat) : List (Nat × Nat) → Placing → List (Nat × Nat × Nat) × Placing
  | [], p => ([], p)
  | (k, d) :: r, p =>
    let (dest, q) := tokenDest p cap policy d
    let (t, q') := placeTokens cap policy r q
    match dest with
    | none => (t, q')
    | some e => ((k, e, p.cnt.getD e 0) :: t, q')

/-! ### Writing receive areas (R443, R445) -/

/-- R443: a destination: this device's address, or a peer's device, ports and physical address. -/
inductive XDest where
  | here (va : Nat)
  | peer (dev ports pa : Nat)
  | none
  deriving DecidableEq, Repr

/-- R431, R443: a table entry of a descriptor. -/
def xdestOf (s : State) (fn : Nat) (b : List Byte) (d : Nat) : XDest :=
  let i := field b (16 * d) 1
  let a := field b (16 * d + 8) 8
  if i == 0xff then .here a
  else
    let e := hostBytes s ((s.func fn).peertab.toNat + 16 * i) 16
    let ports := field e 4 4
    if field e 2 2 == 1 && zeros e 8 16 && ports < 2 ^ 18 && !(upPorts s ports).isEmpty then .peer (field e 0 2) ports a else .none

/-- R443: the zero bytes of the entries of a descriptor's table. -/
def xtableOk (d : XDesc) (table : List Byte) : Bool := (List.range d.ndest).all (fun k => zeros table (16 * k + 1) (16 * k + 8))

/-- R445: the exchange under way has met a target failure; `areas` are receive areas of this device that failed. -/
def exchangeFails (s : State) (fn : Nat) (areas : List (Nat × Nat)) : State :=
  s.setFunc fn { s.func fn with exchange := (s.func fn).exchange.map (fun e => { e with failed := true, areas := (e.areas ++ areas).eraseDups }) }

/-- The name under which the requests of an exchange stand in the retry store. -/
def exchangeAgent (fn : Nat) : Nat := 2 ^ 33 + fn

/-- Sends bytes to a peer in lines. -/
def sendLines (fn c dev ports : Nat) : Nat → Nat → List Byte → State → State
  | 0, _, _, s => s
  | n + 1, pa, b, s =>
    sendLines fn c dev ports n (pa + 64) (b.drop 64) (sendReq s dev ports (exchangeAgent fn) c pa .plain (.token (b.take 64)) (.exchange fn))

/-- R444, R445: writes bytes at an offset of a destination's receive area of `len` bytes. -/
def putToken (fn c len : Nat) (d : XDest) (off : Nat) (b : List Byte) (s : State) : State :=
  match d with
  | .here va => (match s.writeVA c (va + off) b with
    | .ok s => s
    | .error f => exchangeFails (logDevFault s c f) fn [(va, len)])
  | .peer dev ports pa => sendLines fn c dev ports (b.length / 64) (pa + off) b s
  | .none => exchangeFails s fn []

/-- R445: the bytes of a receive area that failed are free, where there is memory. -/
def upsetArea (c : Nat) (s : State) (x : Nat × Nat) : State :=
  (rangeOf x.1 x.2).foldl (fun s p =>
    let (b, s) := freeBytes s p.2
    match s.writeVA c p.1 b with
    | .ok s => s
    | .error _ => s) s

/-- R445: the completion record, then DONE + 1. -/
def endExchange (s : State) (fn c ring : Nat) (e : Exchange) (status : Nat) : State :=
  let s := e.areas.foldl (upsetArea c) (s.setFunc fn { s.func fn with exchange := none })
  let s := match s.writeVA c e.compl (record 16 [(8, e.seq), (4, e.drops), (2, e.reroutes), (1, status)]) with
    | .ok s => s
    | .error f => logDevFault s c f
  match s.writeVA c (ring + 8) (leBytes 8 e.seq) with
  | .ok s => s
  | .error f => logDevFault s c f

/-- R444: performs a descriptor whose source, destinations and table have been read. -/
def performExchange (s : State) (fn c : Nat) (d : XDesc) (src dests table : List Byte) : State :=
  let ds := (List.range d.ntok).map (fun k => (k, field dests (2 * k) 2))
  let (ts, p) := placeTokens d.cap d.policy ds { cnt := List.replicate d.ndest 0 }
  let s := s.setFunc fn { s.func fn with exchange := some { seq := d.seq, compl := d.compl, drops := p.drops, reroutes := p.reroutes, failed := false } }
  let s := ts.foldl (fun s t =>
    putToken fn c (64 + d.cap * d.tbytes) (xdestOf s fn table t.2.1) (64 + d.tbytes * t.2.2) ((src.drop (d.tbytes * t.1)).take d.tbytes) s) s
  (List.range d.ndest).foldl (fun s e => putToken fn c (64 + d.cap * d.tbytes) (xdestOf s fn table e) 0 (record 64 [(4, p.cnt.getD e 0)]) s) s

/-- R443: reads what a descriptor names: the tokens, the destinations, the table. -/
def readExchange (s : State) (c : Nat) (d : XDesc) : Except DevFault (List Byte × List Byte × List Byte × State) := do
  let (src, s) ← s.readVA c d.src (d.ntok * d.tbytes)
  let (dests, s) ← s.readVA c d.dests (2 * d.ntok)
  let (table, s) ← s.readVA c d.table (16 * d.ndest)
  return (src, dests, table, s)

/-- R442: DONE of a ring, and the descriptor of the next ticket. -/
def readTicket (s : State) (c ring n : Nat) : Except DevFault (Nat × List Byte × State) := do
  let (t, s) ← s.readVA c (ring + 8) 8
  let (b, s) ← s.readVA c (ring + 64 + 64 * (leNat t % 2 ^ n)) 64
  return (leNat t, b, s)

/-- R443, R444: a descriptor whose SEQ has appeared: one that breaks a limit is not performed. What it names and cannot be read is refused likewise (log 26). -/
def takeExchange (s : State) (fn c ring : Nat) (b : List Byte) : State :=
  let d := xdescOf b
  let refused : Exchange := { seq := d.seq, compl := d.compl, drops := 0, reroutes := 0, failed := false }
  if !xdescOk b then endExchange s fn c ring refused 1
  else match readExchange s c d with
    | .error f => endExchange (logDevFault s c f) fn c ring refused 1
    | .ok (src, dests, table, s) => if xtableOk d table then performExchange s fn c d src dests table else endExchange s fn c ring refused 1

/-- EXCHANGE (R442 to R445): the port processors take the next descriptor, or end the one under way when its targets have answered. -/
def execExchange (fn : Nat) (s : State) : Host.Outcome State Fault Refusal :=
  let f := s.func fn
  let c := xqCtx f.xqctl
  let ring := f.xqbase.toNat / 4096 * 4096
  let n := xqLog f.xqctl
  if !portsRun s then .next s
  else match f.exchange with
    | some e => .next (if (groupReqs s (exchangeAgent fn)).isEmpty then endExchange s fn c ring e (if e.failed then 2 else 0) else s)
    | none =>
      if n < 4 || 12 < n then .next s
      else match readTicket s c ring n with
        | .error f => .next (logDevFault s c f)
        | .ok (t, b, s') => .next (if field b 0 8 == (t + 1) % 2 ^ 64 then takeExchange s' fn c ring b else s)

/-- FLIT_EXCHANGE_TOKEN (R434, R443, R444): bytes of a token or of a count reach a receive area of this device, checked as a write (R433). -/
def execFlitExchangeToken (port : Nat) (f : Flit) (s : State) : Host.Outcome State Fault Refusal :=
  receive s port 8 f (fun s =>
    if !portsRun s then logDevice s false 6 port 0
    else once s port f (fun s =>
      let b := f.payload.drop 8
      let fail := inboundFail s f b.length
      answer (if fail == 0 then s.devStore (field f.payload 0 8) b else s) port 10 f (leBytes 2 fail)))

end Sys2Proof.Machine
end

