-- ==== Sys2Proof/Machine/HostPort.lean ====
section
/-! DEFINITION. Machine/HostPort: pools, firmware and attestation, the inbound table, and the host port (R356, R433, R447 to R454). -/
namespace Sys2Proof.Machine

/-! ### Pools (R449) -/

/-- R449: the pool descriptor. -/
structure Pool where
  pairs : BitVec 80
  first : Nat
  count : Nat
  ctxs : Nat
  deriving DecidableEq, Repr

def poolOf (b : List Byte) : Pool := { pairs := BitVec.ofNat 80 (field b 0 10), first := field b 10 2, count := field b 12 2, ctxs := field b 14 2 }

/-- A queue lies in a pool's range. -/
def Pool.queue (p : Pool) (n : Nat) : Bool := p.first ≤ n && n < p.first + p.count

/-- R449: the range overlaps another function's; a range of no queues overlaps none. -/
def poolOverlaps (s : State) (target : Nat) (p : Pool) : Bool :=
  s.funcs.any (fun x => x.1 != target && x.1 != physical && p.count != 0 && x.2.poolCount != 0 && p.first < x.2.poolFirst + x.2.poolCount && x.2.poolFirst < p.first + p.count)

/-- R449: the function holds a context or an enabled queue outside the new pool, or the physical function an enabled queue inside it. -/
def poolBusy (s : State) (target : Nat) (p : Pool) : Bool :=
  s.ctxs.any (fun x => x.2.state != .free && x.2.owner == target && x.2.desc.pairs &&& ~~~p.pairs != 0) || p.ctxs < (s.ctxs.filter (fun x =>
    x.2.state != .free && x.2.owner == target)).length || s.queues.any (fun x => x.2.state != .disabled &&
    ((queueOwner s x.1 == target && !p.queue x.1) || (queueOwner s x.1 == physical && p.queue x.1)))

/-- ASSIGN (R449). -/
def execAssign (fn target : Nat) (s : State) : Host.Outcome State Fault Refusal :=
  let f := s.func fn
  if fn != physical || !cmdIs f.poolcmd 1 target then .next s
  else
    let b := hostBytes s f.poolarg.toNat 32
    let p := poolOf b
    if target == physical || 64 < target || !zeros b 16 32 || queueCount < p.first + p.count || poolOverlaps s target p then .next (endPoolcmd s fn 4)
    else if poolBusy s target p then .next (endPoolcmd s fn 3)
    else .next (endPoolcmd (s.setFunc target { s.func target with poolPairs := p.pairs, poolFirst := p.first, poolCount := p.count, poolCtxs := p.ctxs }) fn 0)

/-! ### Firmware (R451, R452) -/

/-- FWCMD stands at an OP. -/
def fwIs (s : State) (fn op : Nat) : Bool := fn == physical && cmdGo (s.func fn).fwcmd && cmdOp (s.func fn).fwcmd == op

/-- R452: the fused minimum version of a kind. -/
def minVersion (s : State) (kind : Nat) : Nat := (lookup s.sec.fused kind).getD 0

/-- R451: the header, and the body it describes. -/
def imageBody (s : State) (at_ : Nat) (h : List Byte) : List Byte := hostBytes s (at_ + 256) (field h 12 4)

/-- R451: the security processor accepts an image. -/
def imageAccepted (s : State) (h body : List Byte) : Bool :=
  let kind := field h 4 1
  field h 0 4 == 0x4d464c43 && 1 ≤ kind && kind ≤ 3 && zeros h 5 8 && zeros h 194 256 &&
    Config.verify Config.caerrasKey (h.take 80) ((h.drop 80).take 114) && (h.drop 16).take 64 == Config.shake256 body && minVersion s kind ≤ field h 8 4

/-- R451: a collective round is in progress here: one that ROOT has open, words that a port holds, or words sent whose result has not come. -/
def roundOpen (c : Collective) : Bool := !c.rounds.isEmpty || !c.held.isEmpty || c.sent.any (fun x => (lookup c.seen (x.1 % 2 ^ 33)).getD 0 < x.2)

/-- R451: an image of kind 1 replaces the schedule only while no round and no exchange is in progress. -/
def portsIdle (s : State) : Bool := s.link.groups.all (fun x => !roundOpen x.2) && s.funcs.all (fun x => x.2.exchange.isNone)

/-- LOAD (R451). A schedule image waits for PORT_FIRMWARE_START. -/
def execLoad (fn : Nat) (s : State) : Host.Outcome State Fault Refusal :=
  if !fwIs s fn 1 || s.sec.pending.isSome then .next s
  else
    let at_ := (s.func fn).fwarg.toNat
    let h := hostBytes s at_ 256
    let body := imageBody s at_ h
    let fw : Firmware := { version := field h 8 4, digest := (h.drop 16).take 64, body }
    if !imageAccepted s h body then .next (endFwcmd s fn 4)
    else if field h 4 1 == 1 then .next { s with sec := { s.sec with pending := some fw, pendingFn := fn } }
    else .next (endFwcmd { s with sec := { s.sec with running := insert s.sec.running (field h 4 1) fw } } fn 0)

/-- Bytes of a port processor's private memory (R434). -/
def portBytes : Nat := 2 ^ 18

/-- R434, R451: every port processor starts the image afresh. DESIGN CHOICE (log 54): its body lies from address 0 of the private memory, and execution begins there. -/
def startPorts (fw : Firmware) (s : State) : State :=
  { s with link := { s.link with portCores := (List.range portCount).map (fun p => (p, { mem := Memory.store [] 0 (fw.body.take portBytes) })) } }

/-- PORT_FIRMWARE_START (R451). -/
def execPortFirmwareStart (s : State) : Host.Outcome State Fault Refusal :=
  match s.sec.pending with
  | none => .next s
  | some fw =>
    if portsIdle s then
      .next (endFwcmd (startPorts fw { s with sec := { s.sec with running := insert s.sec.running 1 fw, pending := none } }) s.sec.pendingFn 0)
    else .next s

/-- FUSE (R452). The kind stands in bits [47:36] of FWCMD (log 27). A kind without a running image has no version to fuse. -/
def execFuse (fn kind : Nat) (s : State) : Host.Outcome State Fault Refusal :=
  if !fwIs s fn 2 || cmdNum (s.func fn).fwcmd != kind then .next s
  else if kind == 0 || 3 < kind then .next (endFwcmd s fn 4)
  else match lookup s.sec.running kind with
    | none => .next (endFwcmd s fn 3)
    | some fw => .next (endFwcmd { s with sec := { s.sec with fused := insert s.sec.fused kind (max (minVersion s kind) fw.version) } } fn 0)

/-! ### Attestation (R453, R454) -/

/-- Bytes cut or padded with zeros to a length. -/
def fit (n : Nat) (b : List Byte) : List Byte := (b ++ List.replicate n 0).take n

/-- R453: the part of a report for one kind: all zero where no image of it runs. -/
def kindReport (s : State) (kind : Nat) : List Byte :=
  match lookup s.sec.running kind with
  | none => List.replicate 64 0
  | some fw => leBytes 4 fw.version ++ leBytes 4 0 ++ fit 56 fw.digest

/-- R453: bytes 0 to 397 of a report. -/
def reportBody (s : State) (nonce : List Byte) : List Byte :=
  nonce ++ leBytes 2 s.link.id ++ leBytes 6 0 ++ fit 64 Config.serialDigest ++ kindReport s 1 ++ kindReport s 2 ++ kindReport s 3 ++ leBytes 102 0

/-- ATTEST (R453). -/
def execAttest (fn : Nat) (s : State) : Host.Outcome State Fault Refusal :=
  if !fwIs s fn 3 then .next s
  else
    let at_ := (s.func fn).fwarg.toNat
    let b := reportBody s (hostBytes s at_ 32)
    .next (endFwcmd (s.hostStore (at_ + 64) (b ++ fit 114 (Config.sign b))) fn 0)

/-- R454: the device's identity certificate. -/
def certificate : List Byte :=
  leBytes 4 0x43455254 ++ leBytes 4 1 ++ fit 64 Config.serialDigest ++ fit 57 Config.identityKey ++ leBytes 7 0 ++ fit 6 Config.certInstant ++
    fit 114 Config.certSignature

/-- CERT (R454). -/
def execCert (fn : Nat) (s : State) : Host.Outcome State Fault Refusal :=
  if !fwIs s fn 4 then .next s
  else
    let at_ := (s.func fn).fwarg.toNat
    if at_ % 64 != 0 then .next (endFwcmd s fn 4)
    else .next (endFwcmd (s.hostStore (at_ + 64) certificate) fn 0)

/-! ### The inbound table (R433, R447) -/

/-- R433: an entry of the inbound table. The manual gives no layout: 32 bytes, the source in bytes 0–1, the range from bytes 8–15 up to bytes 16–23 (log 27). -/
def inboundOf (b : List Byte) (k : Nat) : Inbound := { source := field b (32 * k) 2, lo := field b (32 * k + 8) 8, hi := field b (32 * k + 16) 8 }

/-- FABCFG_INBOUND_LOAD (R447). -/
def execFabcfgInboundLoad (fn : Nat) (s : State) : Host.Outcome State Fault Refusal :=
  let w := (s.func fn).fabcfg
  if fn != physical || !w.getLsbD 16 then .next s
  else
    let b := hostBytes s (w.toNat / 2 ^ 22 * 2 ^ 22) 2048
    let s := s.setFunc fn { s.func fn with fabcfg := w &&& ~~~(1#64 <<< 16) }
    .next { s with link := { s.link with inbound := (List.range 64).map (inboundOf b) } }

/-! ### The host port (R356, R448) -/

/-- R448: a dirty line that cannot be written back is lost: the host's bytes stand, and each context that wrote it hears of it. -/
def loseLine (s : State) (x : DirtyLine) : State :=
  x.ctxs.foldl (fun s c => logEvent s c false 9 0xffff 0 (x.line * 64) 0 0) (s.poke (x.line * 64) x.old)

/-- CXL_CACHE_DOWN (R448): dirty host lines are written back, if the link still allows it, or lost. -/
def execCxlCacheDown (linkUp : Bool) (s : State) : Host.Outcome State Fault Refusal :=
  if !s.link.lnkCache then .next s
  else
    let ls := s.link.dirtyHost
    let s := { s with link := { s.link with lnkCache := false, dirtyHost := [] } }
    .next (if linkUp then s else ls.foldl loseLine s)

/-- CXL_CACHE_UP (R448). -/
def execCxlCacheUp (s : State) : Host.Outcome State Fault Refusal := .next { s with link := { s.link with lnkCache := true } }

/-- Where a host write lands; `none` where no memory is. -/
def hostTarget : HostTarget → Option Nat
  | .bus a => some (hostKey a)
  | .device pa => if paOk pa then some pa else none

/-- A host line that the device holds dirty is written back before the host writes it. -/
def giveUpLine (s : State) (k n : Nat) : State :=
  { s with link := { s.link with dirtyHost := s.link.dirtyHost.filter (fun x => !(x.line * 64 < k + n && k < x.line * 64 + 64)) } }

/-- HOST_WRITE (R356): a host write is performed at its home; in device memory it marks the pages it writes (R131). -/
def execHostWrite (t : HostTarget) (bytes : List Byte) (s : State) : Host.Outcome State Fault Refusal :=
  match hostTarget t with
  | none => .next s
  | some k => .next ((giveUpLine s k bytes.length).devStore k bytes)

/-- R446: what a PCIe AtomicOp leaves: 0 FetchAdd, 1 Swap, 2 CAS. -/
def hostAtomicOp (op size old : Nat) (v c : Dword) : Nat :=
  match op with
  | 0 => (old + v.toNat) % 2 ^ (8 * size)
  | 1 => v.toNat % 2 ^ (8 * size)
  | _ => if old == c.toNat % 2 ^ (8 * size) then v.toNat % 2 ^ (8 * size) else old

/-- R446: the device completes an AtomicOp of the host on its memory, with the bytes before; one of another op or width, misaligned or without memory gets an error status (log 74). -/
def hostAtomic (pa op size : Nat) (v c : Dword) (s : State) : State :=
  let reply := fun (s : State) (r : Option Nat) => { s with link := { s.link with hostReplies := s.link.hostReplies ++ [r] } }
  if !(size == 4 || size == 8) || 2 < op || pa % size != 0 || !paOk pa then reply s none
  else
    let old := Memory.value s.mem pa size
    reply (s.devStore pa (leBytes size (hostAtomicOp op size old v c))) (some old)

/-- R448: the host link as it stands now; 1 to 16 lanes are trained, or none. -/
def hostLink (io mem : Bool) (width : Nat) (s : State) : State :=
  if 16 < width then s else { s with link := { s.link with lnkIo := io, lnkMem := mem, width } }

/-- R472: software on the host sets up a BAR of one of the device's functions over device memory; one at the base of another takes its place (log 72). -/
def mapBar (base len pa : Nat) (s : State) : State :=
  if 2 ^ 41 < pa + len || 2 ^ 64 < base + len then s
  else { s with link := { s.link with bars := { base, len, pa } :: s.link.bars.filter (fun b => b.base != base) } }

end Sys2Proof.Machine
end

