-- ==== Sys2Proof/Machine/Housekeeping.lean ====
section
/-! DEFINITION. Machine/Housekeeping: bring-up, and what a core does by itself with its placements, its standpipe and its main file (R24, R25, R106, R107, R113). -/
namespace Sys2Proof.Machine

/-- RESET (R25): the S-die comes up, and the C-dies and stacks are to follow; or it fails to, a choice of the device's (log 2), which is reported, and all that is to follow stays held (log 70). What the device holds in flash and fuses stands. DESIGN CHOICE (log 17): so do the bytes of memory. -/
def execReset (s : State) : Host.Outcome State Fault Refusal :=
  let (fails, s) := s.draw 2
  .next { State.reset with
    env := s.env, mem := s.mem, badLines := s.badLines, irqs := s.irqs, nextId := s.nextId
    sec := { fused := s.sec.fused, flash := s.sec.flash, failed := if fails == 0 then none else some .sDie } }

/-- STACK_TRAINING_COMPLETE (R25): the next stack in the order comes up; or it, or the C-die before its first stack, fails and is reported (log 70), and what follows stays held. -/
def execStackTrainingComplete (x : BringUp) (s : State) : Host.Outcome State Fault Refusal :=
  let n := s.sec.hbm
  if s.sec.failed.isSome || 16 ≤ n then .next s
  else match x with
  | .trained => .next { s with sec := { s.sec with hbm := n + 1 } }
  | .stackFails => .next { s with sec := { s.sec with failed := some (.stack n) } }
  | .dieFails => .next (if n % 4 == 0 then { s with sec := { s.sec with failed := some (.die (n / 4)) } } else s)

/-- CORE_IDLE (R24). -/
def execCoreIdle (core : Nat) (s : State) : Host.Outcome State Fault Refusal :=
  if isIdle s core then .next (s.setCore core { s.core core with idle := true }) else .next s

/-- PLACEMENT_RATE_LIMIT_END (R24). -/
def execPlacementRateLimitEnd (core : Nat) (s : State) : Host.Outcome State Fault Refusal :=
  .next (s.setCore core { s.core core with limited := isLimited s core })

/-! ### The standpipe (R107) -/

/-- A group able to issue, as far as its own state shows. -/
def able (s : State) (g : Group) : Bool :=
  !g.halted && !g.evicted && g.barrier.isNone && (s.ctx g.ctx).state == .active && g.issuePc.isSome

/-- R107, R276, R311, R336, R341, R409: a group waits: it is not able to issue, or when the selector last looked its instruction held (log 69). -/
def waits (s : State) (g : Group) : Bool := !able s g || g.stalled

/-- Gives a holder's partition to another group, with its dirty entries written back. The holder has been able to issue without a partition from now on. -/
def handOver (s : State) (holder taker : Nat) : State :=
  match s.group holder with
  | none => s
  | some h =>
    let core := holder / 64
    let s := s.setGroup holder { cleanStaged h with partition := none, staged := [], since := s.clk }
    let s := s.onGroup taker (fun g => { g with partition := h.partition })
    s.setCore core { s.core core with parts := insert (erase (s.core core).parts holder) taker s.clk }

/-- PARTITION_HANDOVER (R107). -/
def execPartitionHandover (core holder taker : Nat) (s : State) : Host.Outcome State Fault Refusal :=
  let h := groupKey core holder
  let t := groupKey core taker
  match s.group h, s.group t with
  | some gh, some gt =>
    if gh.partition.isSome && gt.partition.isNone && waits s gh && !waits s gt then .next (handOver s h t) else .next s
  | _, _ => .next s

/-- The entry of least value of a list; the first where several are equal. -/
def leastOf : List (Nat × Nat) → Option (Nat × Nat)
  | [] => none
  | x :: r => match leastOf r with
    | none => some x
    | some y => if y.2 < x.2 then some y else some x

/-- R107: the holder of a core's partition that has held it longest without waiting. -/
def longestHolder (s : State) (holders : List (Nat × Group)) (core : Nat) : Option Nat :=
  (leastOf (holders.map (fun x => (x.1, max ((lookup (s.core core).parts x.1).getD 0) x.2.since)))).map (·.1)

/-- STANDPIPE_ROTATION (R107): no holder waits, and the group that has been able to issue longest takes over. -/
def execStandpipeRotation (core : Nat) (s : State) : Host.Outcome State Fault Refusal :=
  let here := s.groups.filter (fun x => x.1 / 64 == core)
  let holders := here.filter (fun x => x.2.partition.isSome)
  let rest := here.filter (fun x => x.2.partition.isNone && !waits s x.2)
  match longestHolder s holders core, leastOf (rest.map (fun x => (x.1, x.2.since))) with
  | some h, some t =>
    if holders.all (fun y => !waits s y.2) && (s.core core).rotated + 256 ≤ s.clk then
      let s := handOver s h t.1
      .next (s.setCore core { s.core core with rotated := s.clk })
    else .next s
  | _, _ => .next s

/-! ### The main file (R106, R113) -/

/-- EVICTED_GROUP_RESTORE (R106): an evicted group comes back when its words are free. -/
def execEvictedGroupRestore (core slot : Nat) (s : State) : Host.Outcome State Fault Refusal :=
  let key := groupKey core slot
  match s.group key with
  | none => .next s
  | some g =>
    if g.evicted && coreWords s core + groupWords g ≤ mainFileWords then
      .next (makeWords (fillParts (s.setGroup key (refillGroup g)) core) core)
    else .next s

/-- R96, R113: the specifier code of a register whose words lie in the main file. -/
def dupCode : Opnd → Option Nat
  | .v n => some n.val
  | .s n => some (128 + n.val)
  | .lpc => some 224
  | .lsp => some 225
  | _ => none

/-- DUPLICATE_COPY (R113): the words of a register, those with good parity, are copied into unallocated words. -/
def execDuplicateCopy (core slot : Nat) (reg : Opnd) (s : State) : Host.Outcome State Fault Refusal :=
  let key := groupKey core slot
  match s.group key, dupCode reg with
  | some g, some n =>
    let ws := ((List.range (regWords g n)).map (fun k => { reg := n, word := k : RegWord })).filter (fun w =>
      !g.integrity.bad.contains w && !g.integrity.dups.contains w && !g.staged.any (fun e => e.reg == n && e.bad.contains w.word))
    let settled := !g.pend.any (fun p => p.reg == (if p.scalar then n - 128 else n) && p.scalar == (128 ≤ n : Bool))
    if !g.evicted && settled && coreWords s core + dupWords s core + ws.length ≤ mainFileWords then
      .next (s.setGroup key { g with integrity := { g.integrity with dups := g.integrity.dups ++ ws } })
    else .next s
  | _, _ => .next s

end Sys2Proof.Machine
end

