-- ==== Sys2Proof/Machine/Rejoin.lean ====
section
/-! DEFINITION. Machine/Rejoin: major 0x02 (R175 to R180, R202, R203). -/
namespace Sys2Proof.Machine

/-- The number of a set an operand names. -/
def Opnd.setNo : Opnd → Nat
  | .j n => n.val
  | _ => 0

/-- The number of a scalar an operand names. -/
def Opnd.scalNo : Opnd → Nat
  | .s n => n.val
  | _ => 0

/-- A rejoin set of a group. -/
def Group.jset (g : Group) (n : Nat) : JSet := g.regs.j.getD n {}
def Group.setJ (g : Group) (n : Nat) (x : JSet) : Group := { g with regs := { g.regs with j := g.regs.j.set n x } }

/-- R203: the lanes of a mask differ in DEPTH from a value. -/
def depthsDiffer (g : Group) (m : Mask) (d : Nat) : Bool := (m.lanes g.width).any (fun l => g.depth l != d)

/-- `jenter` (R203). -/
def jenterBody (o : VOps) (is : Issue) (s : State) : Verdict :=
  match is.gd.lanes is.g.width with
  | [] => .commit s 0 0
  | l :: _ =>
    let n := Opnd.setNo o.a
    let x := is.g.jset n
    let d := is.g.depth l
    if depthsDiffer is.g is.gd d || (x.members != 0 && x.entry != d) then .trap s 11 0 0 is.gd
    else .commit (s.onGroup is.key (fun g => g.setJ n { x with members := x.members ||| is.gd, entry := d })) 0 0

/-- `jquit` (R203). -/
def jquitBody (o : VOps) (is : Issue) (s : State) : Verdict :=
  let n := Opnd.setNo o.a
  let x := is.g.jset n
  let members := x.members &&& ~~~is.gd
  .commit (s.onGroup is.key (fun g =>
    completeSet (g.setJ n { members, arrived := x.arrived &&& ~~~is.gd, entry := if members == 0 then 0 else x.entry }) n)) 0 0

/-- `jwait` (R203, R179). -/
def jwaitBody (o : VOps) (is : Issue) (s : State) : Verdict :=
  if is.gd == 0 then .commit s 0 0
  else
    let n := Opnd.setNo o.a
    let x := is.g.jset n
    if !is.gd.within x.members then .trap s 11 0 0 (is.gd &&& ~~~x.members)
    else
      let g := ((s.group is.key).getD is.g).setJ n { x with arrived := x.arrived ||| is.gd }
      if x.arrived ||| is.gd == x.members then .commit (s.setGroup is.key (completeSet g n)) 0 0
      else
        let g := g.setLanes is.gd .wait
        if deadlocked g then .trap s 10 0 0 is.ex else .commit (s.setGroup is.key g) 0 0

/-- `jget` (R203). -/
def jgetValue (o : VOps) (x : JSet) : Nat :=
  match o.imm.toNat with
  | 0 => x.members.toNat
  | 1 => x.arrived.toNat
  | _ => x.entry

def jgetBody (o : VOps) (is : Issue) (s : State) : Verdict :=
  .commit (s.onGroup is.key (fun g => g.writeD o.d true false is.gd .u (fun _ => jgetValue o (is.g.jset (Opnd.setNo o.a))))) 0 0

/-- `jsave` (R203). -/
def jsaveBody (o : VOps) (is : Issue) (s : State) : Verdict :=
  let x := is.g.jset (Opnd.setNo o.a)
  let d := Opnd.scalNo o.d
  .commit (s.onGroup is.key (fun g =>
    (((g.writeS d x.members).writeS (d + 1) x.arrived).writeS (d + 2) (BitVec.ofNat 64 x.entry)).setJ (Opnd.setNo o.a) {})) 0 0

/-- R203: the image of a set that `jrest` reads does not fit the group. -/
def imageBad (g : Group) (n : Nat) (m a : Mask) (e : Nat) : Bool :=
  !a.within m || !(m ||| a).within (Mask.below g.width) || 127 < e || !a.within (g.inState .wait) ||
    (List.range 8).any (fun k => k != n && a &&& (g.jset k).arrived != 0)

/-- `jrest` (R203). -/
def jrestBody (o : VOps) (is : Issue) (s : State) : Verdict :=
  let k := Opnd.scalNo o.a
  let n := Opnd.setNo o.d
  let m := is.g.sread is.ex k
  let a := is.g.sread is.ex (k + 1)
  let e := (is.g.sread is.ex (k + 2)).toNat
  if imageBad is.g n m a e then .trap s 11 0 0 is.ex
  else
    let live := is.g.live
    .commit (s.onGroup is.key (fun g => completeSet (g.setJ n { members := m &&& live, arrived := a &&& live, entry := e }) n)) 0 0

/-- Codes of three scalars in a row. -/
def threeScalars (o : Opnd) : List RegCode :=
  let k := 128 + Opnd.scalNo o
  [k, k + 1, k + 2]

def execJenter (o : VOps) (s : State) : Host.Outcome State Fault Refusal :=
  s.run o.pred o.neg (Opnd.regs o.a false) (Opnd.regs o.a false) (jenterBody o)

def execJquit (o : VOps) (s : State) : Host.Outcome State Fault Refusal :=
  s.run o.pred o.neg (Opnd.regs o.a false) (Opnd.regs o.a false) (jquitBody o)

def execJwait (o : VOps) (s : State) : Host.Outcome State Fault Refusal :=
  s.run o.pred o.neg (Opnd.regs o.a false) (Opnd.regs o.a false) (jwaitBody o)

def execJget (o : VOps) (s : State) : Host.Outcome State Fault Refusal :=
  s.run o.pred o.neg (Opnd.regs o.a false) (Opnd.regs o.d false) (jgetBody o)

def execJsave (o : VOps) (s : State) : Host.Outcome State Fault Refusal :=
  s.run o.pred o.neg (Opnd.regs o.a false) (threeScalars o.d) (jsaveBody o)

def execJrest (o : VOps) (s : State) : Host.Outcome State Fault Refusal :=
  s.run o.pred o.neg (threeScalars o.a) (Opnd.regs o.d false) (jrestBody o)

end Sys2Proof.Machine
end

