-- ==== Sys2Proof/Machine/Lane.lean ====
section
/-! DEFINITION. Machine/Lane: major 0x03, arriving chain values and arriving long-latency results (R90, R110, R170, R183 to R185, R204, R205). -/
namespace Sys2Proof.Machine

/-- The number of a predicate an operand names. -/
def Opnd.predNo : Opnd → Nat
  | .p n => n.val
  | _ => 0

/-- The number of a vector register an operand names. -/
def Opnd.vecNo : Opnd → Nat
  | .v n => n.val
  | _ => 0

/-- R205: what `vote` finds of a predicate over the participants. -/
def voteResult (mode : Nat) (parts pred : Mask) : Bool :=
  match mode with
  | 0 => parts &&& pred != 0
  | 1 => parts.within pred
  | _ => parts.within pred || parts &&& pred == 0

/-- `vote` (R205). -/
def execVote (o : VOps) (s : State) : Host.Outcome State Fault Refusal :=
  s.run o.pred o.neg (Opnd.regs o.a false) (Opnd.regs o.d false) fun is s =>
    let r := voteResult o.imm.toNat is.gd (is.g.pred (Opnd.predNo o.a))
    .commit (s.onGroup is.key (fun g => g.writeP (Opnd.predNo o.d) is.gd (if r then BitVec.allOnes 64 else 0))) 0 0

/-- `ballot` (R205). -/
def execBallot (o : VOps) (s : State) : Host.Outcome State Fault Refusal :=
  s.run o.pred o.neg (Opnd.regs o.a false) (Opnd.regs o.d false) fun is s =>
    .commit (s.onGroup is.key (fun g => g.writeD o.d true false is.gd .u (fun _ => (is.gd &&& is.g.pred (Opnd.predNo o.a)).toNat))) 0 0

/-- R205: the lane `shfl` reads for lane `l`. -/
def shflSource (mode l x : Nat) : Option Nat :=
  match mode with
  | 0 => some x
  | 1 => if x ≤ l then some (l - x) else none
  | 2 => some (l + x)
  | _ => some (l ^^^ x)

/-- R205: the value `shfl` gives a lane. -/
def shflValue (is : Issue) (o : VOps) (l : Nat) : Nat :=
  let x := opValue is o.b false 0 l
  match shflSource o.imm.toNat l x with
  | some k => if k < is.g.width && is.gd.has k then opValue is o.a false 0 k else opValue is o.a false 0 l
  | none => opValue is o.a false 0 l

/-- `shfl` (R205): U when both sources are U (R104). -/
def execShfl (o : VOps) (s : State) : Host.Outcome State Fault Refusal :=
  s.run o.pred o.neg (Opnd.regs o.a false ++ Opnd.regs o.b false) (Opnd.regs o.d false) fun is s =>
    let shape : Shape := if (opTag is o.a false 0).isU && (opTag is o.b false 0).isU then .u else .g
    .commit (s.onGroup is.key (fun g => g.writeD o.d false false is.gd shape (shflValue is o))) 0 0

/-- `lanes` (R205). -/
def execLanes (o : VOps) (s : State) : Host.Outcome State Fault Refusal :=
  s.run o.pred o.neg [] (Opnd.regs o.d false) fun is s =>
    .commit (s.onGroup is.key (fun g => g.writeD o.d false false is.gd (.a 0 1) (fun l => l))) 0 0

/-- The progress of a `pub` over its lanes. -/
structure PubProg where
  l : Launch
  waits : List (Nat × ChainWait) := []
  deriving DecidableEq, Repr

/-- R183, R185: one lane of a `pub`. -/
def pubLane (s : State) (is : Issue) (reg c maxk : Nat) (p : PubProg) (l : Nat) : PubProg :=
  let i := is.g.item l
  let x := p.l.chainItem c i
  if 8 ≤ unconsumed s is.g.launch p.l c maxk i then { p with waits := p.waits ++ [(l, .room l c)] }
  else { p with l := p.l.setChain c i { x with pubs := x.pubs ++ [is.g.vlane reg l] } }

/-- R182, R204: the CHAIN_BAD of `pub` and `chst`, which name the register `reg`; a `pub` may not stand in a handler nor pass its count. -/
def slotAhead (reg : Nat) (publishes : Bool) : Ahead where
  first := fun is => if (chainSlot is.l reg).isNone || (publishes && is.g.handler.isSome) then some 12 else none
  second := fun is s =>
    let bad := if publishes then beyondCounts is [] (chainSlot is.l reg) is.gd else 0
    if bad == 0 then none else some (.trap s 12 0 0 bad)

/-- `pub` (R205), a release (R187). -/
def execPub (o : VOps) (s : State) : Host.Outcome State Fault Refusal :=
  let reg := Opnd.vecNo o.d
  s.run o.pred o.neg (Opnd.regs o.d false) [] (ahead := slotAhead reg true) fun is s =>
    match chainSlot is.l reg with
    | none => .trap s 12 0 0 is.ex
    | some (c, d) =>
      if is.gd != 0 && mustWait s is.key .rel true then .hold s
      else
        let p := (is.gd.lanes is.g.width).foldl (pubLane s is reg c d.maxk) { l := is.l }
        let wait := p.waits.foldl (fun m w => m.add w.1) (0 : Mask)
        .commit ((s.setLaunch is.g.launch p.l).onGroup is.key (fun g =>
          if wait == 0 then g else g.chainwait wait p.waits)) wait 0

/-- R205: what `chst` reads of a lane's item. -/
def chstValue (s : State) (is : Issue) (mode c maxk l : Nat) : Nat :=
  let i := is.g.item l
  match mode with
  | 0 => (is.l.chainItem c i).reads
  | 1 => (is.l.chainItem c i).pubs.length
  | _ => unconsumed s is.g.launch is.l c maxk i

/-- `chst` (R205). -/
def execChst (o : VOps) (s : State) : Host.Outcome State Fault Refusal :=
  s.run o.pred o.neg [] (Opnd.regs o.d false) (ahead := slotAhead (Opnd.vecNo o.a) false) fun is s =>
    match chainSlot is.l (Opnd.vecNo o.a) with
    | none => .trap s 12 0 0 is.ex
    | some (c, d) =>
      .commit (s.onGroup is.key (fun g => g.writeD o.d false false is.gd .g (chstValue s is o.imm.toNat c d.maxk))) 0 0

/-- R110: the tag committed by every earlier instruction; while a window on the register is open for an executing lane, the tag from before the pending write. -/
def tagRead (is : Issue) (n : Nat) : Nat :=
  if (is.g.vpend n).any (fun p => Group.openLanes p &&& is.ex != 0) then (is.g.regs.v.getD n (.u 0)).tag else (is.g.vlast n).tag

/-- `shape` (R110). DESIGN CHOICE (log 63): it reads the register's tag alone, and the model checks the register's words as for another reader: a failing one raises REG_PARITY. -/
def execShape (o : VOps) (s : State) : Host.Outcome State Fault Refusal :=
  s.run o.pred o.neg (Opnd.regs o.a false) (Opnd.regs o.d false) fun is s =>
    let shape : Shape := if (opTag is o.a false 0).isU then .u else .g
    .commit (s.onGroup is.key (fun g => g.writeD o.d false false is.gd shape (fun _ => tagRead is (Opnd.vecNo o.a)))) 0 0

/-- R170, R184, R185: what a lane waits for has come. -/
def chainCame (s : State) (g : Group) (l : Launch) : ChainWait → Bool
  | .read lane c k n => (chainValue s g.launch l c (g.item lane + 1) (g.item lane) k n).isSome
  | .room lane c => match l.record.chain[c]? with
    | some d => unconsumed s g.launch l c d.maxk (g.item lane) < 8
    | none => true

/-- CHAIN_VALUE_ARRIVAL (R170, R194): lanes in `chainwait` whose value or room has come go back to `run`; during a handler only its own lanes re-test. -/
def execChainValueArrival (core slot : Nat) (s : State) : Host.Outcome State Fault Refusal :=
  let key := groupKey core slot
  match s.group key with
  | none => .next s
  | some g =>
    match lookup s.launches g.launch with
    | none => .next s
    | some l =>
      let may := fun (x : Nat) => match g.handler with
        | none => true
        | some h => h.lanes.has x
      let m := Mask.of g.width (fun k => g.lane k == .chainwait && may k && g.chainWaits.all (fun w => w.1 != k || chainCame s g l w.2))
      if g.halted then .next s
      else .next (s.setGroup key { g.setLanes m .run with chainWaits := g.chainWaits.filter (fun w => !m.has w.1) })

/-- Distinct sequence numbers of results that can arrive: not yet arrived, and no peer's value missing. -/
def comingSeqs (l : List Pend) : List Nat :=
  ((l.filter (fun p => !p.arrived && p.missing == 0)).map (·.seq)).eraseDups.filter
    (fun q => l.all (fun p => p.seq != q || p.missing == 0))

/-- R40, R90: a result arrives: its flags are merged, and it settles when its windows are closed. -/
def arrive (g : Group) (seq : Nat) : Group :=
  let flags := g.pend.foldl (fun (f : Word) (p : Pend) => if p.seq == seq then f ||| p.flags else f) (0 : Word)
  let pend := g.pend.map (fun (p : Pend) => if p.seq == seq then { p with arrived := true } else p)
  settle (Group.orFlags { g with pend } flags)

/-- LONG_LATENCY_RESULT (R90): one long-latency result of a group arrives. Which of several does is the device's choice (log 2). -/
def execLongLatencyResult (core slot : Nat) (s : State) : Host.Outcome State Fault Refusal :=
  let key := groupKey core slot
  match s.group key with
  | none => .next s
  | some g =>
    let qs := comingSeqs g.pend
    if qs.isEmpty then .next s
    else
      let (k, s) := s.draw qs.length
      .next (s.onGroup key (fun g => arrive g (qs.getD k 0)))

end Sys2Proof.Machine
end

