-- ==== Sys2Proof/Machine/Registers.lean ====
section
/-! DEFINITION. Machine/Registers: writes to the registers of BAR 0 (R116, R118, R136, R380, R383, R430, R435, R447, R449, R451). -/
namespace Sys2Proof.Machine

/-- Bits of a register that a write sets, and those it leaves. -/
def masked (old value mask : Dword) : Dword := (old &&& ~~~mask) ||| (value &&& mask)

/-- A write to a command register: ignored while GO reads 1; GO starts OP, and an unknown OP ends at once with ST = 2. `rw` are the bits the write sets, `ended` the register with a final ST. -/
def writeCmd (old value rw : Dword) (ended : Dword → Nat → Dword) (ops : List Nat) : Dword :=
  if cmdGo old then old
  else
    let w := masked old value rw
    if !cmdGo w then w
    else if ops.contains (cmdOp w) then ended w 1 ||| 1
    else ended w 2

/-- R116: the writable bits of a register of CTXCMD's layout: OP, the number, GO. -/
def ctxBits : Dword := 0x00fffff000000001#64
/-- R136: QCMD's. -/
def qBits : Dword := 0x00fffff800000001#64
/-- R380: INVAL's, which has no OP. -/
def invalBits : Dword := 0x0000fff000000001#64
/-- R435: CLSCMD's. -/
def clsBits : Dword := 0x00ff0ff000000001#64
/-- R380, R383, R447: FQBASE, FQCTL, XQCTL. -/
def fqbaseBits : Dword := 0xfffffffffffff001#64
def fqctlBits : Dword := 0x000000ffff00000f#64
def xqctlBits : Dword := 0x0000fff00000000f#64
/-- R447: FABCFG: id, load bit, address. -/
def fabcfgBits : Dword := 0xffffffffffc1ffff#64

/-- A write to one of the registers that only the physical function has (R118, R447). -/
def writePhysical (f : Func) (off : Nat) (v : Dword) : Func :=
  match off with
  | 0x1070 => { f with clscmd := writeCmd f.clscmd v clsBits cmdEnd [1, 2] }
  | 0x1078 => { f with clsarg := v }
  | 0x1090 => { f with poolcmd := writeCmd f.poolcmd v ctxBits cmdEnd [1] }
  | 0x1098 => { f with poolarg := v }
  | 0x10a0 => { f with fwcmd := writeCmd f.fwcmd v ctxBits cmdEnd [1, 2, 3, 4] }
  | 0x10a8 => { f with fwarg := v }
  | 0x10b0 => { f with fabcfg := v &&& fabcfgBits }
  | 0x10c0 => { f with evlbase := v }
  | _ => f

/-- A write to a function's register. Offsets with no register, and registers that only read, ignore it. -/
def writeFunc (f : Func) (fn off : Nat) (v : Dword) : Func :=
  match off with
  | 0x1000 => { f with ctxcmd := writeCmd f.ctxcmd v ctxBits cmdEnd [1, 2, 3, 4, 5] }
  | 0x1008 => { f with ctxdesc := v }
  | 0x1010 => { f with qcmd := writeCmd f.qcmd v qBits qcmdEnd [1, 2, 3] }
  | 0x1018 => { f with qarg := v }
  | 0x1020 => { f with fqbase := v &&& fqbaseBits }
  | 0x1028 => { f with fqctl := masked f.fqctl v fqctlBits }
  | 0x1040 => { f with inval := writeCmd f.inval v invalBits cmdEnd [0] }
  | 0x1048 => { f with invarg := v }
  | 0x1050 => { f with pincmd := writeCmd f.pincmd v ctxBits cmdEnd [1, 2] }
  | 0x1058 => { f with pinarg := v }
  | 0x1068 => { f with peertab := v }
  | 0x1080 => { f with xqbase := v }
  | 0x1088 => { f with xqctl := v &&& xqctlBits }
  | _ => if fn == physical then writePhysical f off v else f

/-- R118: a write to EVLBASE opens the device error queue at it: LOG2N is read there, and TAIL starts at 0 (log 24). DESIGN CHOICE (log 24): R118 names a limit of LOG2N only for CREATE; here the byte counts as it reads. -/
def openEvq (s : State) (a : Nat) : State := { s with evq := { addr := a, log2n := hostValue s a 1 } }

/-- REGISTER_WRITE (R384, R472). -/
def execRegisterWrite (fn off : Nat) (value : Dword) (s : State) : Host.Outcome State Fault Refusal :=
  if 64 < fn then .next s
  else
    let t := s.setFunc fn (writeFunc (s.func fn) fn off value)
    if fn == physical && off == 0x10c0 then .next (openEvq t value.toNat)
    else if off == 0x1030 then .next (writeReplay s fn value)
    else if fn == physical && off == 0x10b0 then .next { t with link := { t.link with id := value.toNat % 65536 } }
    else .next t

end Sys2Proof.Machine
end

