-- ==== Sys2Proof/Machine/Riscv.lean ====
section
/-! DEFINITION. Machine/Riscv: what the words of the RISC-V cores ask for (R434, R450): RV64IMAC and RV32IMAC with the control registers, and the loads and stores of floating-point registers. PRESUMED (log 54): the manual names the extensions; their meaning is that of the public RISC-V standard. -/
namespace Sys2Proof.Machine

/-- What one word does to a core of `xl` bits. -/
inductive RvAct where
  | put (rd v : Nat)
  | jump (rd to_ : Nat)
  | load (rd addr n : Nat) (signed : Bool)
  | store (addr n v : Nat)
  | loadF (rd addr n : Nat)
  | reserve (rd addr n : Nat)
  | conditional (rd addr n v : Nat)
  | amo (f rd addr n v : Nat)
  | csr (f rd num v : Nat) (write : Bool)
  | nothing
  | ecall
  | ebreak
  | mret
  | sret
  | atLeast (priv : Nat)
  | illegal
  /-- A floating-point, vector or hypervisor instruction: the environment presents what it leaves (log 54). -/
  | outside
  deriving DecidableEq, Repr, Inhabited

/-! ### Arithmetic -/

/-- A value of `b` bits, sign-extended to `xl`. -/
def rvSext (xl b v : Nat) : Nat :=
  let v := v % 2 ^ b
  if v < 2 ^ (b - 1) then v else 2 ^ xl - 2 ^ b + v

def rvInt (xl v : Nat) : Int := if v < 2 ^ (xl - 1) then v else (v : Int) - 2 ^ xl

def rvNat (xl : Nat) (z : Int) : Nat := (z % 2 ^ xl).toNat

/-- The operations of OP and OP-IMM; `alt` picks subtraction and the arithmetic shift. -/
def rvAlu (xl f3 : Nat) (alt : Bool) (a b : Nat) : Nat :=
  match f3 with
  | 0 => (if alt then a + 2 ^ xl - b else a + b) % 2 ^ xl
  | 1 => a * 2 ^ (b % xl) % 2 ^ xl
  | 2 => if rvInt xl a < rvInt xl b then 1 else 0
  | 3 => if a < b then 1 else 0
  | 4 => a ^^^ b
  | 5 => if alt then rvNat xl (rvInt xl a / 2 ^ (b % xl)) else a / 2 ^ (b % xl)
  | 6 => a ||| b
  | _ => a &&& b

/-- The operations of M. -/
def rvMul (xl f3 a b : Nat) : Nat :=
  match f3 with
  | 0 => a * b % 2 ^ xl
  | 1 => rvNat xl (rvInt xl a * rvInt xl b / 2 ^ xl)
  | 2 => rvNat xl (rvInt xl a * b / 2 ^ xl)
  | 3 => a * b / 2 ^ xl
  | 4 => if b == 0 then 2 ^ xl - 1 else rvNat xl ((rvInt xl a).tdiv (rvInt xl b))
  | 5 => if b == 0 then 2 ^ xl - 1 else a / b
  | 6 => if b == 0 then a else rvNat xl ((rvInt xl a).tmod (rvInt xl b))
  | _ => if b == 0 then a else a % b

/-- What an AMO of `n` bytes stores, by its funct5. -/
def rvAmo (n f old v : Nat) : Nat :=
  let less := rvInt (8 * n) old < rvInt (8 * n) v
  match f with
  | 0 => (old + v) % 2 ^ (8 * n)
  | 1 => v
  | 4 => old ^^^ v
  | 8 => old ||| v
  | 12 => old &&& v
  | 16 => if less then old else v
  | 20 => if less then v else old
  | 24 => min old v
  | _ => max old v

/-- Whether a funct5 is an AMO's. -/
def rvAmoOk (f : Nat) : Bool := [0, 1, 4, 8, 12, 16, 20, 24, 28].contains f

def rvTaken (xl f3 a b : Nat) : Option Bool :=
  match f3 with
  | 0 => some (a == b)
  | 1 => some (a != b)
  | 4 => some (decide (rvInt xl a < rvInt xl b))
  | 5 => some (!decide (rvInt xl a < rvInt xl b))
  | 6 => some (decide (a < b))
  | 7 => some (!decide (a < b))
  | _ => none

/-! ### Words of 32 bits -/

def immI (xl w : Nat) : Nat := rvSext xl 12 (bits w 31 20)
def immS (xl w : Nat) : Nat := rvSext xl 12 (bits w 31 25 * 32 + bits w 11 7)
def immB (xl w : Nat) : Nat := rvSext xl 13 (bits w 31 31 * 4096 + bits w 7 7 * 2048 + bits w 30 25 * 32 + bits w 11 8 * 2)
def immU (xl w : Nat) : Nat := rvSext xl 32 (bits w 31 12 * 4096)
def immJ (xl w : Nat) : Nat := rvSext xl 21 (bits w 31 31 * 2 ^ 20 + bits w 19 12 * 4096 + bits w 20 20 * 2048 + bits w 30 21 * 2)

/-- OP-IMM: a shift's amount has 5 or 6 bits. -/
def rvImm (xl w a : Nat) : Option Nat :=
  let f3 := bits w 14 12
  let top := if xl == 64 then bits w 31 26 else bits w 31 25
  let amount := if xl == 64 then bits w 25 20 else bits w 24 20
  let high := if xl == 64 then 16 else 32
  if f3 == 1 then (if top == 0 then some (rvAlu xl 1 false a amount) else none)
  else if f3 == 5 then (if top == 0 || top == high then some (rvAlu xl 5 (top == high) a amount) else none)
  else some (rvAlu xl f3 false a (immI xl w))

/-- OP. -/
def rvReg (xl w a b : Nat) : Option Nat :=
  let f3 := bits w 14 12
  match bits w 31 25 with
  | 0 => some (rvAlu xl f3 false a b)
  | 1 => some (rvMul xl f3 a b)
  | 32 => if f3 == 0 || f3 == 5 then some (rvAlu xl f3 true a b) else none
  | _ => none

/-- OP-32: additions and shifts, or M, on the low words. -/
def rvReg32 (w a b : Nat) : Option Nat :=
  let f3 := bits w 14 12
  if (bits w 31 25 != 1 && f3 != 0 && f3 != 1 && f3 != 5) || (bits w 31 25 == 1 && 1 ≤ f3 && f3 ≤ 3) then none
  else (rvReg 32 w (a % 2 ^ 32) (b % 2 ^ 32)).map (rvSext 64 32)

/-- OP-IMM-32. -/
def rvImm32 (w a : Nat) : Option Nat :=
  let f3 := bits w 14 12
  if f3 != 0 && f3 != 1 && f3 != 5 then none else (rvImm 32 w (a % 2 ^ 32)).map (rvSext 64 32)

/-- SYSTEM. -/
def rvSystem (x : Hart) (w a : Nat) : RvAct :=
  let rs1 := bits w 19 15
  let rd := bits w 11 7
  match bits w 14 12 with
  | 0 =>
    if w == 0x73 then .ecall
    else if w == 0x100073 then .ebreak
    else if w == 0x30200073 then (if x.priv == 3 then .mret else .illegal)
    else if w == 0x10200073 then (if x.priv == 0 then .illegal else .sret)
    else if w == 0x10500073 then .nothing
    else if bits w 31 25 == 9 && rd == 0 then .atLeast 1
    else if (bits w 31 25 == 0x11 || bits w 31 25 == 0x31) && rd == 0 then .outside
    else .illegal
  | 4 => .outside
  | f3 => .csr (f3 % 4) rd (bits w 31 20) (if f3 < 4 then a else rs1) (f3 % 4 == 1 || rs1 != 0)

/-- AMO. -/
def rvAtomic (xl w a b : Nat) : RvAct :=
  let n := 2 ^ bits w 14 12
  let f := bits w 31 27
  let rd := bits w 11 7
  if n != 4 && !(n == 8 && xl == 64) then .illegal
  else if f == 2 then (if bits w 24 20 == 0 then .reserve rd a n else .illegal)
  else if f == 3 then .conditional rd a n (b % 2 ^ (8 * n))
  else if rvAmoOk f then .amo f rd a n (b % 2 ^ (8 * n))
  else .illegal

/-- A result, or an illegal instruction. -/
def rvPut (rd : Nat) : Option Nat → RvAct
  | some v => .put rd v
  | none => .illegal

/-- What a word of 32 bits does, on a core of `xl` bits at `pc`. -/
def rvWord (xl : Nat) (x : Hart) (pc w : Nat) : RvAct :=
  let rd := bits w 11 7
  let a := (x.x.getD (bits w 19 15) 0).toNat % 2 ^ xl
  let b := (x.x.getD (bits w 24 20) 0).toNat % 2 ^ xl
  let f3 := bits w 14 12
  let plus := fun (p i : Nat) => (p + i) % 2 ^ xl
  match w % 128 with
  | 0x37 => .put rd (immU xl w)
  | 0x17 => .put rd (plus pc (immU xl w))
  | 0x6f => .jump rd (plus pc (immJ xl w))
  | 0x67 => if f3 == 0 then .jump rd (plus a (immI xl w) / 2 * 2) else .illegal
  | 0x63 => match rvTaken xl f3 a b with
    | none => .illegal
    | some true => .jump 0 (plus pc (immB xl w))
    | some false => .nothing
  | 0x03 => if f3 < 3 || f3 == 4 || f3 == 5 || (xl == 64 && f3 < 7) then .load rd (plus a (immI xl w)) (2 ^ (f3 % 4)) (f3 < 4) else .illegal
  | 0x23 => if f3 < 3 || (xl == 64 && f3 == 3) then .store (plus a (immS xl w)) (2 ^ f3) (b % 2 ^ (8 * 2 ^ f3)) else .illegal
  | 0x07 => if (f3 == 2 || f3 == 3) && xl == 64 then .loadF rd (plus a (immI xl w)) (2 ^ f3) else .outside
  | 0x27 => if (f3 == 2 || f3 == 3) && xl == 64 then .store (plus a (immS xl w)) (2 ^ f3) ((x.f.getD (bits w 24 20) 0).toNat % 2 ^ (8 * 2 ^ f3)) else .outside
  | 0x13 => rvPut rd (rvImm xl w a)
  | 0x33 => rvPut rd (rvReg xl w a b)
  | 0x1b => if xl == 64 then rvPut rd (rvImm32 w a) else .illegal
  | 0x3b => if xl == 64 then rvPut rd (rvReg32 w a b) else .illegal
  | 0x2f => rvAtomic xl w a b
  | 0x0f => if f3 < 2 then .nothing else .illegal
  | 0x73 => rvSystem x w a
  | 0x57 => .outside
  | 0x43 | 0x47 | 0x4b | 0x4f | 0x53 => if xl == 64 then .outside else .illegal
  | _ => .illegal

/-! ### Words of 16 bits -/

def encI (op f3 rd rs1 imm : Nat) : Nat := imm % 4096 * 2 ^ 20 + rs1 * 2 ^ 15 + f3 * 2 ^ 12 + rd * 2 ^ 7 + op
def encR (op f3 f7 rd rs1 rs2 : Nat) : Nat := f7 * 2 ^ 25 + rs2 * 2 ^ 20 + rs1 * 2 ^ 15 + f3 * 2 ^ 12 + rd * 2 ^ 7 + op
def encS (op f3 rs1 rs2 imm : Nat) : Nat := encR op f3 (imm / 32 % 128) (imm % 32) rs1 rs2
def encB (f3 rs1 imm : Nat) : Nat := encR 0x63 f3 (imm / 4096 % 2 * 64 + imm / 32 % 64) (imm / 2 % 16 * 2 + imm / 2048 % 2) rs1 0
def encJ (rd imm : Nat) : Nat :=
  imm / 2 ^ 20 % 2 * 2 ^ 31 + imm / 2 % 1024 * 2 ^ 21 + imm / 2048 % 2 * 2 ^ 20 + imm / 4096 % 256 * 2 ^ 12 + rd * 2 ^ 7 + 0x6f

/-- The offset of `c.j` and `c.jal`. -/
def cJump (h : Nat) : Nat :=
  rvSext 64 12 (bits h 12 12 * 2048 + bits h 8 8 * 1024 + bits h 10 9 * 256 + bits h 6 6 * 128 + bits h 7 7 * 64 + bits h 2 2 * 32 + bits h 11 11 * 16 + bits h 5 3 * 2)

/-- The offset of `c.beqz` and `c.bnez`. -/
def cBranch (h : Nat) : Nat := rvSext 64 9 (bits h 12 12 * 256 + bits h 6 5 * 64 + bits h 2 2 * 32 + bits h 11 10 * 8 + bits h 4 3 * 2)

/-- Quadrant 0. -/
def expand0 (xl h : Nat) : Option Nat :=
  let rd := 8 + bits h 4 2
  let rs := 8 + bits h 9 7
  let d := bits h 12 10 * 8 + bits h 6 5 * 64
  let w := bits h 12 10 * 8 + bits h 6 6 * 4 + bits h 5 5 * 64
  let stack := bits h 12 11 * 16 + bits h 10 7 * 64 + bits h 6 6 * 4 + bits h 5 5 * 8
  match bits h 15 13 with
  | 0 => if stack == 0 then none else some (encI 0x13 0 rd 2 stack)
  | 1 => if xl == 64 then some (encI 0x07 3 rd rs d) else none
  | 2 => some (encI 0x03 2 rd rs w)
  | 3 => if xl == 64 then some (encI 0x03 3 rd rs d) else none
  | 5 => if xl == 64 then some (encS 0x27 3 rs rd d) else none
  | 6 => some (encS 0x23 2 rs rd w)
  | 7 => if xl == 64 then some (encS 0x23 3 rs rd d) else none
  | _ => none

/-- The arithmetic of quadrant 1. -/
def expandArith (xl h : Nat) : Option Nat :=
  let rs := 8 + bits h 9 7
  let r2 := 8 + bits h 4 2
  let imm := bits h 12 12 * 32 + bits h 6 2
  let shift := xl == 64 || imm < 32
  match bits h 11 10, bits h 12 12, bits h 6 5 with
  | 0, _, _ => if shift then some (encI 0x13 5 rs rs imm) else none
  | 1, _, _ => if shift then some (encI 0x13 5 rs rs (imm + 1024)) else none
  | 2, _, _ => some (encI 0x13 7 rs rs (rvSext 64 6 imm))
  | _, 0, 0 => some (encR 0x33 0 32 rs rs r2)
  | _, 0, 1 => some (encR 0x33 4 0 rs rs r2)
  | _, 0, 2 => some (encR 0x33 6 0 rs rs r2)
  | _, 0, _ => some (encR 0x33 7 0 rs rs r2)
  | _, _, 0 => if xl == 64 then some (encR 0x3b 0 32 rs rs r2) else none
  | _, _, 1 => if xl == 64 then some (encR 0x3b 0 0 rs rs r2) else none
  | _, _, _ => none

/-- Quadrant 1. -/
def expand1 (xl h : Nat) : Option Nat :=
  let rd := bits h 11 7
  let imm := rvSext 64 6 (bits h 12 12 * 32 + bits h 6 2)
  let sp := rvSext 64 10 (bits h 12 12 * 512 + bits h 6 6 * 16 + bits h 5 5 * 64 + bits h 4 3 * 128 + bits h 2 2 * 32)
  match bits h 15 13 with
  | 0 => some (encI 0x13 0 rd rd imm)
  | 1 => if xl == 32 then some (encJ 1 (cJump h)) else if rd == 0 then none else some (encI 0x1b 0 rd rd imm)
  | 2 => some (encI 0x13 0 rd 0 imm)
  | 3 => if rd == 2 then (if sp == 0 then none else some (encI 0x13 0 2 2 sp))
         else if imm == 0 then none else some (imm % 2 ^ 20 * 4096 + rd * 128 + 0x37)
  | 4 => expandArith xl h
  | 5 => some (encJ 0 (cJump h))
  | 6 => some (encB 0 (8 + bits h 9 7) (cBranch h))
  | _ => some (encB 1 (8 + bits h 9 7) (cBranch h))

/-- Quadrant 2. -/
def expand2 (xl h : Nat) : Option Nat :=
  let rd := bits h 11 7
  let r2 := bits h 6 2
  let b12 := bits h 12 12
  let ld := b12 * 32 + bits h 6 5 * 8 + bits h 4 2 * 64
  let lw := b12 * 32 + bits h 6 4 * 4 + bits h 3 2 * 64
  let sd := bits h 12 10 * 8 + bits h 9 7 * 64
  match bits h 15 13 with
  | 0 => if xl == 64 || b12 == 0 then some (encI 0x13 1 rd rd (b12 * 32 + r2)) else none
  | 1 => if xl == 64 then some (encI 0x07 3 rd 2 ld) else none
  | 2 => if rd == 0 then none else some (encI 0x03 2 rd 2 lw)
  | 3 => if xl == 64 && rd != 0 then some (encI 0x03 3 rd 2 ld) else none
  | 4 =>
    if r2 != 0 then some (encR 0x33 0 0 rd (if b12 == 0 then 0 else rd) r2)
    else if rd != 0 then some (encI 0x67 0 b12 rd 0)
    else if b12 == 1 then some 0x100073 else none
  | 5 => if xl == 64 then some (encS 0x27 3 2 r2 sd) else none
  | 6 => some (encS 0x23 2 2 r2 (bits h 12 9 * 4 + bits h 8 7 * 64))
  | _ => if xl == 64 then some (encS 0x23 3 2 r2 sd) else none

/-- The word of 32 bits that a compressed one stands for. -/
def rvExpand (xl h : Nat) : Option Nat :=
  match h % 4 with
  | 0 => expand0 xl h
  | 1 => expand1 xl h
  | 2 => expand2 xl h
  | _ => none

/-- Bytes of an instruction, by its low bits. -/
def rvLength (w : Nat) : Nat := if w % 4 == 3 then 4 else 2

/-- What an instruction does: a compressed one, what it stands for. -/
def rvAct (xl : Nat) (x : Hart) (w : Nat) : RvAct :=
  let pc := x.pc.toNat % 2 ^ xl
  if w % 4 == 3 then rvWord xl x pc w
  else match rvExpand xl (w % 2 ^ 16) with
    | some w => rvWord xl x pc w
    | none => .illegal

/-! ### Registers -/

/-- A core writes an integer register; x0 discards (R450). -/
def Hart.put (x : Hart) (n : Nat) (v : Dword) : Hart := if n == 0 then x else { x with x := x.x.set n v }

def Hart.putNat (x : Hart) (n v : Nat) : Hart := x.put n (BitVec.ofNat 64 v)

/-- The next instruction's place. -/
def Hart.past (x : Hart) (xl len : Nat) : Hart := { x with pc := BitVec.ofNat 64 ((x.pc.toNat + len) % 2 ^ xl) }

def Hart.goto (x : Hart) (pc : Nat) : Hart := { x with pc := BitVec.ofNat 64 pc }

/-! ### Control registers -/

/-- The bits of `mstatus` that `sstatus` shows. -/
def sstatusMask : Dword := 0x80000003000de762

def Hart.raw (x : Hart) (n : Nat) : Dword := (lookup x.csrs n).getD 0

/-- Reads a control register of a core with this number. -/
def Hart.csr (x : Hart) (id n : Nat) : Dword :=
  match n with
  | 0x001 => x.raw 0x003 &&& 31
  | 0x002 => (x.raw 0x003 >>> 5) &&& 7
  | 0x100 => x.raw 0x300 &&& sstatusMask
  | 0x104 => x.raw 0x304 &&& x.raw 0x303
  | 0x144 => x.raw 0x344 &&& x.raw 0x303
  | 0xf14 => BitVec.ofNat 64 id
  | _ => x.raw n

/-- Sets the bits of a mask. -/
def mergeBits (old mask v : Dword) : Dword := (old &&& ~~~mask) ||| (v &&& mask)

def Hart.setRaw (x : Hart) (n : Nat) (v : Dword) : Hart := { x with csrs := insert x.csrs n v }

/-- Writes a control register. -/
def Hart.setCsr (x : Hart) (n : Nat) (v : Dword) : Hart :=
  match n with
  | 0x001 => x.setRaw 0x003 (mergeBits (x.raw 0x003) 31 v)
  | 0x002 => x.setRaw 0x003 (mergeBits (x.raw 0x003) 0xe0 (v <<< 5))
  | 0x003 => x.setRaw 0x003 (v &&& 0xff)
  | 0x100 => x.setRaw 0x300 (mergeBits (x.raw 0x300) sstatusMask v)
  | 0x104 => x.setRaw 0x304 (mergeBits (x.raw 0x304) (x.raw 0x303) v)
  | 0x144 => x.setRaw 0x344 (mergeBits (x.raw 0x344) (x.raw 0x303 &&& 2) v)
  | _ => x.setRaw n v

/-- The privilege level a control register needs, and whether it can be written. -/
def csrLevel (n : Nat) : Nat := bits n 9 8
def csrReadOnly (n : Nat) : Bool := bits n 11 10 == 3

/-- R167: the address-space identifier the hart runs under: its `satp`'s, or `vsatp`'s when virtualised. -/
def Hart.asid (x : Hart) : Nat := bits (x.raw (if x.virt then 0x280 else 0x180)).toNat 59 44

/-! ### Exceptions -/

/-- Where a trap vector register leads for an exception. -/
def vectorBase (w : Dword) : Dword := w &&& ~~~3#64

/-- A core takes an exception: to supervisor level where it is delegated, else to machine level. -/
def Hart.trap (x : Hart) (cause tval : Nat) : Hart :=
  let m := x.raw 0x300
  let tv := BitVec.ofNat 64 tval
  let c := BitVec.ofNat 64 cause
  let p := BitVec.ofNat 64 x.priv
  if x.priv < 3 && !x.virt && (x.raw 0x302).getLsbD cause then
    let m := mergeBits m 0x122 (((m &&& 2) <<< 4) ||| (p <<< 8))
    { (((((x.setRaw 0x300 m).setRaw 0x141 x.pc).setRaw 0x142 c).setRaw 0x143 tv)) with priv := 1, pc := vectorBase (x.raw 0x105) }
  else
    let m := mergeBits m 0x8000001888 (((m &&& 8) <<< 4) ||| (p <<< 11) ||| (if x.virt then 0x8000000000 else 0))
    { (((((x.setRaw 0x300 m).setRaw 0x341 x.pc).setRaw 0x342 c).setRaw 0x343 tv)) with priv := 3, virt := false, pc := vectorBase (x.raw 0x305) }

/-- `mret`. -/
def Hart.mret (x : Hart) : Hart :=
  let m := x.raw 0x300
  let p := bits m.toNat 12 11
  let m' := mergeBits m 0x8000001888 (0x80 ||| ((m >>> 4) &&& 8))
  let m' := if p == 3 then m' else m' &&& ~~~0x20000#64
  { x.setRaw 0x300 m' with priv := p, virt := m.getLsbD 39 && p != 3, pc := x.raw 0x341 }

/-- `sret`. -/
def Hart.sret (x : Hart) : Hart :=
  let m := x.raw 0x300
  let p := bits m.toNat 8 8
  { x.setRaw 0x300 (mergeBits (m &&& ~~~0x20000#64) 0x122 (0x20 ||| ((m >>> 4) &&& 2))) with priv := p, pc := x.raw 0x141 }

/-- A control register is read and written. -/
def Hart.execCsr (x : Hart) (id xl w f rd num v : Nat) (write : Bool) : Hart :=
  if x.priv < csrLevel num || (write && csrReadOnly num) then x.trap 2 w
  else
    let old := x.csr id num
    let v := BitVec.ofNat 64 v
    let new := match f with
      | 1 => v
      | 2 => old ||| v
      | _ => old &&& ~~~v
    ((if write then x.setCsr num new else x).putNat rd (old.toNat % 2 ^ xl)).past xl 4

/-- Codes of `ecall` by level. -/
def Hart.ecall (x : Hart) : Hart := x.trap (if x.priv == 1 && x.virt then 10 else 8 + x.priv) 0

end Sys2Proof.Machine
end

