-- ==== Sys2Proof/Machine/Spawn.lean ====
section
/-! DEFINITION. Machine/Spawn: `spawn` of the application harts (R167, R450). -/
namespace Sys2Proof.Machine

/-- R167: the context whose ASID a hart runs under; a context that is FREE has none. -/
def ctxOfAsid (s : State) (asid : Nat) : Option Nat :=
  (s.ctxs.find? (fun x => x.2.state != .free && x.2.state != .killed && x.2.desc.asid == asid)).map (·.1)

/-- R167: what `spawn` answers in rd, and the machine after it. -/
def spawnLaunch (s : State) (x : Hart) (addr : Nat) : Nat × State :=
  match ctxOfAsid s x.asid with
  | none => (1, s)
  | some c =>
    if launchLimit ≤ launchesOf s c then (3, s)
    else match enterLaunch s c addr (0, 0, 0) (some ((List.range 8).map (fun k => x.x.getD (10 + k) 0))) .spawn none with
      | .ok _ s => (0, s)
      | .bad s => (2, s)
      | .fault f => (2, logDevFault s c f)

/-- `spawn` (R167). -/
def execSpawn (rd rs1 : Fin 32) (s : State) : Host.Outcome State Fault Refusal :=
  match s.env.cur with
  | .hart h =>
    let x := (lookup s.harts h).getD {}
    let (code, s) := spawnLaunch s x (x.x.getD rs1.val 0).toNat
    .next { s with harts := insert s.harts h { x.put rd.val (BitVec.ofNat 64 code) with pc := x.pc + 4 } }
  | _ => .fault .noIssuer

end Sys2Proof.Machine
end

