-- ==== Sys2Proof/Machine/Dispatch.lean ====
section
/-! DEFINITION. Machine/Dispatch: one arm per instruction. -/
namespace Sys2Proof.Machine

def exec (i : Instr) (s : State) : Host.Outcome State Fault Refusal :=
  match i with
  | .reset => Sys2Proof.Machine.execReset s
  | .stackTrainingComplete x => Sys2Proof.Machine.execStackTrainingComplete x s
  | .autoRestore ctx => Sys2Proof.Machine.execAutoRestore ctx s
  | .planeArrayIdle core => Sys2Proof.Machine.execPlaneArrayIdle core s
  | .rampStep core => Sys2Proof.Machine.execRampStep core s
  | .coreIdle core => Sys2Proof.Machine.execCoreIdle core s
  | .placementRateLimitEnd core => Sys2Proof.Machine.execPlacementRateLimitEnd core s
  | .teamPlacement launch slots => Sys2Proof.Machine.execTeamPlacement launch slots s
  | .groupRetire core slot => Sys2Proof.Machine.execGroupRetire core slot s
  | .lineRefetch core slot => Sys2Proof.Machine.execLineRefetch core slot s
  | .longLatencyResult core slot => Sys2Proof.Machine.execLongLatencyResult core slot s
  | .standpipeRotation core => Sys2Proof.Machine.execStandpipeRotation core s
  | .partitionHandover core holder taker => Sys2Proof.Machine.execPartitionHandover core holder taker s
  | .evictedGroupRestore core slot => Sys2Proof.Machine.execEvictedGroupRestore core slot s
  | .duplicateCopy core slot reg => Sys2Proof.Machine.execDuplicateCopy core slot reg s
  | .create fn ctx => Sys2Proof.Machine.execCreate fn ctx s
  | .resume fn ctx => Sys2Proof.Machine.execResume fn ctx s
  | .suspend fn ctx => Sys2Proof.Machine.execSuspend fn ctx s
  | .kill fn ctx => Sys2Proof.Machine.execKill fn ctx s
  | .killComplete ctx => Sys2Proof.Machine.execKillComplete ctx s
  | .checkpoint fn ctx => Sys2Proof.Machine.execCheckpoint fn ctx s
  | .checkpointInterval ctx => Sys2Proof.Machine.execCheckpointInterval ctx s
  | .checkpointComplete ctx => Sys2Proof.Machine.execCheckpointComplete ctx s
  | .sliceInstant ctx => Sys2Proof.Machine.execSliceInstant ctx s
  | .saveComplete ctx => Sys2Proof.Machine.execSaveComplete ctx s
  | .deadline launch => Sys2Proof.Machine.execDeadline launch s
  | .sliceTableExchange ctx gang => Sys2Proof.Machine.execSliceTableExchange ctx gang s
  | .timeSyncLost => Sys2Proof.Machine.execTimeSyncLost s
  | .errqHeadPoll ctx => Sys2Proof.Machine.execErrqHeadPoll ctx s
  | .registerWrite fn off value => Sys2Proof.Machine.execRegisterWrite fn off value s
  | .enable fn queue => Sys2Proof.Machine.execEnable fn queue s
  | .disable fn queue => Sys2Proof.Machine.execDisable fn queue s
  | .restart fn queue => Sys2Proof.Machine.execRestart fn queue s
  | .drainComplete queue => Sys2Proof.Machine.execDrainComplete queue s
  | .doorbell queue => Sys2Proof.Machine.execDoorbell queue s
  | .queuePoll queue => Sys2Proof.Machine.execQueuePoll queue s
  | .unitAssignment unit => Sys2Proof.Machine.execUnitAssignment unit s
  | .packetFetch queue => Sys2Proof.Machine.execPacketFetch queue s
  | .nopPacket queue => Sys2Proof.Machine.execNopPacket queue s
  | .launch queue => Sys2Proof.Machine.execLaunch queue s
  | .copy queue => Sys2Proof.Machine.execCopy queue s
  | .copyComplete id => Sys2Proof.Machine.execCopyComplete id s
  | .waitval queue => Sys2Proof.Machine.execWaitval queue s
  | .waitvalRecheck queue => Sys2Proof.Machine.execWaitvalRecheck queue s
  | .writeval queue => Sys2Proof.Machine.execWriteval queue s
  | .run queue => Sys2Proof.Machine.execRun queue s
  | .program queue => Sys2Proof.Machine.execProgram queue s
  | .programRerun queue => Sys2Proof.Machine.execProgramRerun queue s
  | .qli o => Sys2Proof.Machine.execQli o s
  | .qlis o => Sys2Proof.Machine.execQlis o s
  | .qadd o => Sys2Proof.Machine.execQadd o s
  | .qsub o => Sys2Proof.Machine.execQsub o s
  | .qand o => Sys2Proof.Machine.execQand o s
  | .qor o => Sys2Proof.Machine.execQor o s
  | .qxor o => Sys2Proof.Machine.execQxor o s
  | .qshl o => Sys2Proof.Machine.execQshl o s
  | .qshr o => Sys2Proof.Machine.execQshr o s
  | .qmul o => Sys2Proof.Machine.execQmul o s
  | .qminu o => Sys2Proof.Machine.execQminu o s
  | .qmaxu o => Sys2Proof.Machine.execQmaxu o s
  | .qaddi o => Sys2Proof.Machine.execQaddi o s
  | .qandi o => Sys2Proof.Machine.execQandi o s
  | .qshli o => Sys2Proof.Machine.execQshli o s
  | .qshri o => Sys2Proof.Machine.execQshri o s
  | .qld o => Sys2Proof.Machine.execQld o s
  | .qst o => Sys2Proof.Machine.execQst o s
  | .qldp o => Sys2Proof.Machine.execQldp o s
  | .qstp o => Sys2Proof.Machine.execQstp o s
  | .qbeq o => Sys2Proof.Machine.execQbeq o s
  | .qbne o => Sys2Proof.Machine.execQbne o s
  | .qbltu o => Sys2Proof.Machine.execQbltu o s
  | .qbgeu o => Sys2Proof.Machine.execQbgeu o s
  | .qjmp o => Sys2Proof.Machine.execQjmp o s
  | .qrep o => Sys2Proof.Machine.execQrep o s
  | .qbucket o => Sys2Proof.Machine.execQbucket o s
  | .qact => Sys2Proof.Machine.execQact s
  | .qnvme o => Sys2Proof.Machine.execQnvme o s
  | .qdone => Sys2Proof.Machine.execQdone s
  | .qpass => Sys2Proof.Machine.execQpass s
  | .qhold => Sys2Proof.Machine.execQhold s
  | .qfail ra => Sys2Proof.Machine.execQfail ra s
  | .spawn rd rs1 => Sys2Proof.Machine.execSpawn rd rs1 s
  | .nop o => Sys2Proof.Machine.execNop o s
  | .trap o => Sys2Proof.Machine.execTrap o s
  | .tret o => Sys2Proof.Machine.execTret o s
  | .rsp o => Sys2Proof.Machine.execRsp o s
  | .wsp o => Sys2Proof.Machine.execWsp o s
  | .rgn o => Sys2Proof.Machine.execRgn o s
  | .pause o => Sys2Proof.Machine.execPause o s
  | .pauseExpiry core slot => Sys2Proof.Machine.execPauseExpiry core slot s
  | .bra o => Sys2Proof.Machine.execBra o s
  | .brx o => Sys2Proof.Machine.execBrx o s
  | .call o => Sys2Proof.Machine.execCall o s
  | .callx o => Sys2Proof.Machine.execCallx o s
  | .ret o => Sys2Proof.Machine.execRet o s
  | .exit o => Sys2Proof.Machine.execExit o s
  | .jenter o => Sys2Proof.Machine.execJenter o s
  | .jquit o => Sys2Proof.Machine.execJquit o s
  | .jwait o => Sys2Proof.Machine.execJwait o s
  | .jget o => Sys2Proof.Machine.execJget o s
  | .jsave o => Sys2Proof.Machine.execJsave o s
  | .jrest o => Sys2Proof.Machine.execJrest o s
  | .vote o => Sys2Proof.Machine.execVote o s
  | .ballot o => Sys2Proof.Machine.execBallot o s
  | .shfl o => Sys2Proof.Machine.execShfl o s
  | .lanes o => Sys2Proof.Machine.execLanes o s
  | .pub o => Sys2Proof.Machine.execPub o s
  | .chst o => Sys2Proof.Machine.execChst o s
  | .shape o => Sys2Proof.Machine.execShape o s
  | .chainValueArrival core slot => Sys2Proof.Machine.execChainValueArrival core slot s
  | .add o => Sys2Proof.Machine.execAdd o s
  | .sub o => Sys2Proof.Machine.execSub o s
  | .mul o => Sys2Proof.Machine.execMul o s
  | .mulhi o => Sys2Proof.Machine.execMulhi o s
  | .mad o => Sys2Proof.Machine.execMad o s
  | .div o => Sys2Proof.Machine.execDiv o s
  | .rem o => Sys2Proof.Machine.execRem o s
  | .min o => Sys2Proof.Machine.execMin o s
  | .max o => Sys2Proof.Machine.execMax o s
  | .abs o => Sys2Proof.Machine.execAbs o s
  | .neg o => Sys2Proof.Machine.execNeg o s
  | .and o => Sys2Proof.Machine.execAnd o s
  | .or o => Sys2Proof.Machine.execOr o s
  | .xor o => Sys2Proof.Machine.execXor o s
  | .andn o => Sys2Proof.Machine.execAndn o s
  | .shl o => Sys2Proof.Machine.execShl o s
  | .shr o => Sys2Proof.Machine.execShr o s
  | .sar o => Sys2Proof.Machine.execSar o s
  | .rot o => Sys2Proof.Machine.execRot o s
  | .clz o => Sys2Proof.Machine.execClz o s
  | .popc o => Sys2Proof.Machine.execPopc o s
  | .brev o => Sys2Proof.Machine.execBrev o s
  | .bfe o => Sys2Proof.Machine.execBfe o s
  | .bfi o => Sys2Proof.Machine.execBfi o s
  | .cmp o => Sys2Proof.Machine.execCmp o s
  | .sel o => Sys2Proof.Machine.execSel o s
  | .mov o => Sys2Proof.Machine.execMov o s
  | .lea o => Sys2Proof.Machine.execLea o s
  | .movi o => Sys2Proof.Machine.execMovi o s
  | .fadd o => Sys2Proof.Machine.execFadd o s
  | .fsub o => Sys2Proof.Machine.execFsub o s
  | .fmul o => Sys2Proof.Machine.execFmul o s
  | .fma o => Sys2Proof.Machine.execFma o s
  | .fmin o => Sys2Proof.Machine.execFmin o s
  | .fmax o => Sys2Proof.Machine.execFmax o s
  | .fdiv o => Sys2Proof.Machine.execFdiv o s
  | .fsqrt o => Sys2Proof.Machine.execFsqrt o s
  | .frcp o => Sys2Proof.Machine.execFrcp o s
  | .frsq o => Sys2Proof.Machine.execFrsq o s
  | .fexp2 o => Sys2Proof.Machine.execFexp2 o s
  | .flog2 o => Sys2Proof.Machine.execFlog2 o s
  | .fsin o => Sys2Proof.Machine.execFsin o s
  | .fcos o => Sys2Proof.Machine.execFcos o s
  | .fround o => Sys2Proof.Machine.execFround o s
  | .fscale o => Sys2Proof.Machine.execFscale o s
  | .fclass o => Sys2Proof.Machine.execFclass o s
  | .fdot2 o => Sys2Proof.Machine.execFdot2 o s
  | .cvt o => Sys2Proof.Machine.execCvt o s
  | .cvtPlane o => Sys2Proof.Machine.execCvtPlane o s
  | .pk o => Sys2Proof.Machine.execPk o s
  | .unpk o => Sys2Proof.Machine.execUnpk o s
  | .mxun o => Sys2Proof.Machine.execMxun o s
  | .tern o => Sys2Proof.Machine.execTern o s
  | .dist o => Sys2Proof.Machine.execDist o s
  | .topk o => Sys2Proof.Machine.execTopk o s
  | .topm o => Sys2Proof.Machine.execTopm o s
  | .redadd o => Sys2Proof.Machine.execRedadd o s
  | .redmax o => Sys2Proof.Machine.execRedmax o s
  | .redmin o => Sys2Proof.Machine.execRedmin o s
  | .scan o => Sys2Proof.Machine.execScan o s
  | .ld o => Sys2Proof.Machine.execLd o s
  | .st o => Sys2Proof.Machine.execSt o s
  | .ldb o => Sys2Proof.Machine.execLdb o s
  | .stb o => Sys2Proof.Machine.execStb o s
  | .prf o => Sys2Proof.Machine.execPrf o s
  | .ctag o => Sys2Proof.Machine.execCtag o s
  | .cins o => Sys2Proof.Machine.execCins o s
  | .cinv o => Sys2Proof.Machine.execCinv o s
  | .halloc o => Sys2Proof.Machine.execHalloc o s
  | .hfree o => Sys2Proof.Machine.execHfree o s
  | .atom o => Sys2Proof.Machine.execAtom o s
  | .red o => Sys2Proof.Machine.execRed o s
  | .fence o => Sys2Proof.Machine.execFence o s
  | .ratom o => Sys2Proof.Machine.execRatom o s
  | .rpoll o => Sys2Proof.Machine.execRpoll o s
  | .ratomTimeout req => Sys2Proof.Machine.execRatomTimeout req s
  | .tcfg o => Sys2Proof.Machine.execTcfg o s
  | .tget o => Sys2Proof.Machine.execTget o s
  | .tset o => Sys2Proof.Machine.execTset o s
  | .trel o => Sys2Proof.Machine.execTrel o s
  | .tld o => Sys2Proof.Machine.execTld o s
  | .tst o => Sys2Proof.Machine.execTst o s
  | .tidw o => Sys2Proof.Machine.execTidw o s
  | .tidr o => Sys2Proof.Machine.execTidr o s
  | .tidv o => Sys2Proof.Machine.execTidv o s
  | .mma o => Sys2Proof.Machine.execMma o s
  | .mmaz o => Sys2Proof.Machine.execMmaz o s
  | .matrixOpComplete op => Sys2Proof.Machine.execMatrixOpComplete op s
  | .mbank o => Sys2Proof.Machine.execMbank o s
  | .gate o => Sys2Proof.Machine.execGate o s
  | .gateOpComplete core => Sys2Proof.Machine.execGateOpComplete core s
  | .gcfg o => Sys2Proof.Machine.execGcfg o s
  | .cpy o => Sys2Proof.Machine.execCpy o s
  | .plane o => Sys2Proof.Machine.execPlane o s
  | .ccget o => Sys2Proof.Machine.execCcget o s
  | .ccwait o => Sys2Proof.Machine.execCcwait o s
  | .ccset o => Sys2Proof.Machine.execCcset o s
  | .sexp o => Sys2Proof.Machine.execSexp o s
  | .simp o => Sys2Proof.Machine.execSimp o s
  | .srst o => Sys2Proof.Machine.execSrst o s
  | .jobStart job => Sys2Proof.Machine.execJobStart job s
  | .pumpSector job => Sys2Proof.Machine.execPumpSector job s
  | .streamJobComplete job => Sys2Proof.Machine.execStreamJobComplete job s
  | .bar o => Sys2Proof.Machine.execBar o s
  | .barv o => Sys2Proof.Machine.execBarv o s
  | .barw o => Sys2Proof.Machine.execBarw o s
  | .barp o => Sys2Proof.Machine.execBarp o s
  | .qcfg o => Sys2Proof.Machine.execQcfg o s
  | .qpush o => Sys2Proof.Machine.execQpush o s
  | .qpop o => Sys2Proof.Machine.execQpop o s
  | .inval fn ctx => Sys2Proof.Machine.execInval fn ctx s
  | .replayRetry fn ticket => Sys2Proof.Machine.execReplayRetry fn ticket s
  | .replayFail fn ticket => Sys2Proof.Machine.execReplayFail fn ticket s
  | .pin fn ctx => Sys2Proof.Machine.execPin fn ctx s
  | .unpin fn ctx => Sys2Proof.Machine.execUnpin fn ctx s
  | .faultRecordWrite fn => Sys2Proof.Machine.execFaultRecordWrite fn s
  | .placementHint ctx page => Sys2Proof.Machine.execPlacementHint ctx page s
  | .ivtab o => Sys2Proof.Machine.execIvtab o s
  | .ivopen o => Sys2Proof.Machine.execIvopen o s
  | .ivgo o => Sys2Proof.Machine.execIvgo o s
  | .ivq o => Sys2Proof.Machine.execIvq o s
  | .ivstat o => Sys2Proof.Machine.execIvstat o s
  | .ivwait o => Sys2Proof.Machine.execIvwait o s
  | .ivarg o => Sys2Proof.Machine.execIvarg o s
  | .ivclose o => Sys2Proof.Machine.execIvclose o s
  | .stageFormed run => Sys2Proof.Machine.execStageFormed run s
  | .stageLaunchDone run => Sys2Proof.Machine.execStageLaunchDone run s
  | .solveLaunchDone run => Sys2Proof.Machine.execSolveLaunchDone run s
  | .estimateFormed run => Sys2Proof.Machine.execEstimateFormed run s
  | .eventLaunchDone run => Sys2Proof.Machine.execEventLaunchDone run s
  | .dieLinkBeat link crcOk => Sys2Proof.Machine.execDieLinkBeat link crcOk s
  | .fabricPortTraining port lanes => Sys2Proof.Machine.execFabricPortTraining port lanes s
  | .flitWrite port f => Sys2Proof.Machine.execFlitWrite port f s
  | .flitReadRequest port f => Sys2Proof.Machine.execFlitReadRequest port f s
  | .flitReadReply port f => Sys2Proof.Machine.execFlitReadReply port f s
  | .flitAtomicRequest port f => Sys2Proof.Machine.execFlitAtomicRequest port f s
  | .flitAtomicReply port f => Sys2Proof.Machine.execFlitAtomicReply port f s
  | .flitContribution port f => Sys2Proof.Machine.execFlitContribution port f s
  | .flitResult port f => Sys2Proof.Machine.execFlitResult port f s
  | .flitExchangeToken port f => Sys2Proof.Machine.execFlitExchangeToken port f s
  | .flitTime port f => Sys2Proof.Machine.execFlitTime port f s
  | .flitControl port f => Sys2Proof.Machine.execFlitControl port f s
  | .collectiveTimeout gid off => Sys2Proof.Machine.execCollectiveTimeout gid off s
  | .bind fn gid => Sys2Proof.Machine.execBind fn gid s
  | .free fn gid => Sys2Proof.Machine.execFree fn gid s
  | .exchange fn => Sys2Proof.Machine.execExchange fn s
  | .assign fn target => Sys2Proof.Machine.execAssign fn target s
  | .load fn => Sys2Proof.Machine.execLoad fn s
  | .portFirmwareStart => Sys2Proof.Machine.execPortFirmwareStart s
  | .fuse fn kind => Sys2Proof.Machine.execFuse fn kind s
  | .attest fn => Sys2Proof.Machine.execAttest fn s
  | .cert fn => Sys2Proof.Machine.execCert fn s
  | .fabcfgInboundLoad fn => Sys2Proof.Machine.execFabcfgInboundLoad fn s
  | .cxlCacheDown linkUp => Sys2Proof.Machine.execCxlCacheDown linkUp s
  | .hostWrite t bytes => Sys2Proof.Machine.execHostWrite t bytes s
  | .cxlCacheUp => Sys2Proof.Machine.execCxlCacheUp s
  | .peerRequestTimeout req => Sys2Proof.Machine.execPeerRequestTimeout req s

end Sys2Proof.Machine
end

