-- ==== Sys2Proof/Machine/Harts.lean ====
section
/-! DEFINITION. Machine/Harts: the application harts and the port processors execute (R19, R434, R450). PRESUMED (log 54): translation and exceptions are those of the public RISC-V standard. -/
namespace Sys2Proof.Machine

/-! ### Addresses of a hart (R450) -/

/-- What an access is, for its permission and its codes. -/
inductive RvUse where
  | load | store
  deriving DecidableEq, Repr

def RvUse.misaligned : RvUse → Nat
  | .load => 4
  | .store => 6

def RvUse.accessFault : RvUse → Nat
  | .load => 5
  | .store => 7

def RvUse.pageFault : RvUse → Nat
  | .load => 13
  | .store => 15

/-- The level of a hart's data accesses: with MPRV, that of MPP. -/
def Hart.dataPriv (x : Hart) : Nat := if (x.raw 0x300).getLsbD 17 then bits (x.raw 0x300).toNat 12 11 else x.priv

/-- Walks a table of a hart from a level down: the leaf entry and its level. -/
def svWalk (m : List Host.Cell) (va : Nat) : Nat → Nat → Option (Nat × Nat)
  | 0, _ => none
  | k + 1, table =>
    let a := table + 8 * (va / 2 ^ (12 + 9 * k) % 512)
    let e := Memory.value m a 8
    if !paOk a || e % 2 == 0 || bits e 2 1 == 2 then none
    else if bits e 3 1 == 0 then svWalk m va k (bits e 53 10 * 4096)
    else if bits e 53 10 % 2 ^ (9 * k) == 0 then some (e, k) else none

/-- Levels of a mode of `satp`: Sv39, Sv48 and Sv57. -/
def svLevels (mode : Nat) : Nat := if 8 ≤ mode && mode ≤ 10 then mode - 5 else 0

/-- A leaf entry allows an access; the bits A and D must be set by software. -/
def svAllows (x : Hart) (u : RvUse) (e : Nat) : Bool :=
  let user := e.testBit 4
  let mode := if x.dataPriv == 0 then user else !user || (x.raw 0x300).getLsbD 18
  mode && e.testBit 6 && (match u with
    | .load => e.testBit 1 || ((x.raw 0x300).getLsbD 19 && e.testBit 3)
    | .store => e.testBit 2 && e.testBit 7)

/-- R450: the physical address of a hart's access of `n` aligned bytes, or the code of its exception. DESIGN CHOICE (log 54): a hart's physical addresses are the device's (R370). -/
def hartAddr (s : State) (x : Hart) (u : RvUse) (va n : Nat) : Except Nat Nat :=
  let reach := fun (pa : Nat) => if paOk pa then Except.ok pa else .error u.accessFault
  let satp := (x.raw 0x180).toNat
  let k := svLevels (bits satp 63 60)
  if va % n != 0 then .error u.misaligned
  else if x.dataPriv == 3 || bits satp 63 60 == 0 then reach va
  else if rvSext 64 (12 + 9 * k) va != va then .error u.pageFault
  else match svWalk s.mem va k (bits satp 43 0 * 4096) with
    | none => .error u.pageFault
    | some (e, l) => if svAllows x u e then reach (bits e 53 10 * 4096 / 2 ^ (12 + 9 * l) * 2 ^ (12 + 9 * l) + va % 2 ^ (12 + 9 * l)) else .error u.pageFault

/-! ### One instruction, over a memory -/

/-- A memory that a core reaches: an address's place or the code of its exception, a place's bytes, a write. -/
structure RvMem (σ : Type) where
  find : σ → RvUse → Nat → Nat → Except Nat Nat
  read : σ → Nat → Nat → Nat
  write : σ → Nat → Nat → Nat → σ

/-- What an instruction does to its core and to memory. A reservation is on a place's 64 bytes. -/
def RvMem.run {σ : Type} (m : RvMem σ) (xl id w : Nat) (x : Hart) (s : σ) : Hart × σ :=
  let len := rvLength w
  let past := fun (x : Hart) => x.past xl len
  let at_ := fun (u : RvUse) (a n : Nat) (k : Nat → Hart × σ) => match m.find s u a n with
    | .error c => (x.trap c a, s)
    | .ok p => k p
  let value := fun (n p : Nat) (signed : Bool) => if signed then rvSext xl (8 * n) (m.read s p n) else m.read s p n
  match rvAct xl x w with
  | .put rd v => (past (x.putNat rd v), s)
  | .jump rd a => ((x.putNat rd ((x.pc.toNat + len) % 2 ^ xl)).goto a, s)
  | .load rd a n signed => at_ .load a n (fun p => (past (x.putNat rd (value n p signed)), s))
  | .store a n v => at_ .store a n (fun p => (past x, m.write s p n v))
  | .loadF rd a n => at_ .load a n (fun p => (past { x with f := x.f.set rd (BitVec.ofNat 64 (m.read s p n + (2 ^ 64 - 2 ^ (8 * n)))) }, s))
  | .reserve rd a n => at_ .load a n (fun p => (past { x.putNat rd (value n p true) with reserved := some (p / 64 * 64) }, s))
  | .conditional rd a n v => at_ .store a n (fun p =>
      if x.reserved == some (p / 64 * 64) then (past { x.putNat rd 0 with reserved := none }, m.write s p n v)
      else (past { x.putNat rd 1 with reserved := none }, s))
  | .amo f rd a n v => at_ .store a n (fun p => (past (x.putNat rd (value n p true)), m.write s p n (rvAmo n f (m.read s p n) v)))
  | .csr f rd num v write => (x.execCsr id xl w f rd num v write, s)
  | .nothing => (past x, s)
  | .ecall => (x.ecall, s)
  | .ebreak => (x.trap 3 x.pc.toNat, s)
  | .mret => (x.mret, s)
  | .sret => (x.sret, s)
  | .atLeast p => (if x.priv < p then x.trap 2 w else past x, s)
  | .illegal => (x.trap 2 w, s)
  | .outside => (past x, s)

/-! ### Harts (R450) -/

/-- A hart of the machine. -/
def State.hart (s : State) (h : Nat) : Hart := (lookup s.harts h).getD {}

def State.setHart (s : State) (h : Nat) (x : Hart) : State := { s with harts := insert s.harts h x }

/-- R450: device memory at the lines' homes. -/
def hartMemory (x : Hart) : RvMem State where
  find s u a n := hartAddr s x u a n
  read s p n := Memory.value s.mem p n
  write s p n v := s.devStore p (leBytes n v)

/-- An instruction of a virtualised hart that addresses memory goes through two tables: what it does is presented (log 54). -/
def RvAct.memory : RvAct → Bool
  | .load .. | .store .. | .loadF .. | .reserve .. | .conditional .. | .amo .. => true
  | _ => false

/-- R19, R167, R450: a hart executes a word that is no `spawn`; one of custom-0 is illegal. -/
def hartWord (h : Nat) (w : Word) (s : State) : State :=
  let x := s.hart h
  let n := w.toNat
  if n % 128 == 0x0b then s.setHart h (x.trap 2 n)
  else if x.virt && (rvAct 64 x n).memory then s.setHart h (x.past 64 (rvLength n))
  else
    let (y, s) := (hartMemory x).run 64 h n x s
    s.setHart h y

/-- Writes end the reservations of their 64 bytes. -/
def endReservations (keys : List Nat) (s : State) : State :=
  { s with harts := s.harts.map (fun x => if keys.any (fun k => x.2.reserved == some (k / 64 * 64)) then (x.1, { x.2 with reserved := none }) else x) }

/-! ### Port processors (R434) -/

/-- R434: a port processor's private memory. It reaches nothing else by its own loads and stores. -/
def portMemory : RvMem (List Host.Cell) where
  find _ u a n := if a % n != 0 then .error u.misaligned else if a + n ≤ portBytes then .ok a else .error u.accessFault
  read m p n := Memory.value m p n
  write m p n v := Memory.store m p (leBytes n v)

/-- R434: a port processor executes the word at its pc, once it runs a schedule image. -/
def runPortCore (p : Nat) (s : State) : State :=
  match lookup s.link.portCores p with
  | none => s
  | some c =>
    let pc := c.cpu.pc.toNat
    let (x, m) := if pc % 2 != 0 || portBytes < pc + 2 then (c.cpu.trap 1 pc, c.mem) else portMemory.run 32 p (Memory.value c.mem pc 4) c.cpu c.mem
    { s with link := { s.link with portCores := insert s.link.portCores p { cpu := x, mem := m } } }

/-- What the environment leaves in a port processor. -/
def setPortCore (p : Nat) (x : Hart) (s : State) : State :=
  match lookup s.link.portCores p with
  | none => s
  | some c => { s with link := { s.link with portCores := insert s.link.portCores p { c with cpu := x } } }

end Sys2Proof.Machine
end

