-- ==== Sys2Proof/Machine/Schedule.lean ====
section
/-! DEFINITION. Machine/Schedule: which group issues next, how it fetches, and the machine's moves (R73, R75, R91, R114, R147, R174). -/
namespace Sys2Proof.Machine

/-! ### The line a group issues from (R73 to R75) -/

/-- What the fetch of an issue comes to. -/
inductive Fetched where
  | slot (s : State) (w : Nat)
  | trap (s : State) (code faddr : Nat)
  | wait (s : State)
  | parked (s : State)
  deriving DecidableEq, Repr

/-- R73: the slot of a line that has been checked, or BAD_LINE. -/
def lineIssue (s : State) (b : List Byte) (pc : Nat) : Fetched :=
  if !wordZeros (lineWord b) || !wordParity (lineWord b) || !slotParity b (slotOf pc) then .trap s 4 0
  else .slot s (lineSlot b (slotOf pc))

/-- R73: an issue at an address that is no slot's: the line's own checks, then no instruction stands there. DESIGN CHOICE (log 67): ILLEGAL_OP, for R88's checks do not apply to trap entry and `tret`; at a launch's entry point they do. -/
def noSlot (s : State) (is : Issue) (b : List Byte) : Fetched :=
  if !wordZeros (lineWord b) || !wordParity (lineWord b) then .trap s 4 0 else .trap s (if is.g.entering then 3 else 1) 0

/-- R73: the slot at the issue address, from a line of the group's. -/
def slotIssue (s : State) (is : Issue) (b : List Byte) : Fetched :=
  if pcOk is.pc then lineIssue s b is.pc else noSlot s is b

/-- R73: a line just fetched: with a parity mismatch it is discarded and fetched again. One whose bits 31 to 15 are not zero raises BAD_LINE at once, be there a mismatch as well (log 76). -/
def lineArrives (s : State) (is : Issue) (addr : Nat) (b : List Byte) : Fetched :=
  let keep := fun (x : Option Line) (refetch : Bool) => s.onGroup is.key (fun g => { g with line := x, refetch })
  if wordZeros (lineWord b) && !lineParity b then
    .wait ((keep none true).onGroup is.key (fun g => { g with inbox := g.inbox.filter (fun x => x.1 != inboxKey addr 64) }))
  else slotIssue (keep (some { addr, bytes := b }) false) is b

/-- R75: the fetch of the slot at the issue address. -/
def fetchSlot (s : State) (is : Issue) : Fetched :=
  let addr := lineOf is.pc
  if is.g.refetch then .wait s
  else match is.g.line.filter (fun x => x.addr == addr) with
    | some x => slotIssue s is x.bytes
    | none =>
      match fetchLine s is.g addr with
      | .away w _ at_ => .wait (askOnce s is.key is.g.ctx addr w at_ 64)
      | .ok b w pa => lineArrives (s.used is.g.ctx addr .fetch w pa) is addr b
      | .prot => .trap s 7 addr
      | .malformed va => .trap (logMalformed s is.g.ctx is.core va) 7 addr
      | .xlate va r =>
        if (s.ctx is.g.ctx).replayable then
          match parkLanes s is .fetch true ((is.ex.lanes is.g.width).map (fun l => (l, va, r))) with
          | none => .wait s
          | some s => .parked s
        else .trap s 6 addr

/-! ### The issue of one group -/

/-- Sets whose instruction runs. -/
def State.as (s : State) (a : Agent) : State := { s with env := { s.env with cur := a, held := false } }

/-- R82, R182: a slot of a vector format uses a chain register that its launch does not declare, or a distance beyond its MAXK. -/
def chainBadSlot (l : Launch) (w : Nat) : Bool :=
  match VOps.decode 0 (w % 2 ^ 78), w / 2 ^ 88, bits w 83 78 with
  | some o, 0x03, 4 => (chainSlot l (Opnd.vecNo o.d)).isNone
  | some o, 0x03, 5 => (chainSlot l (Opnd.vecNo o.a)).isNone
  | some o, m, _ => [0x10, 0x20, 0x30, 0x38].contains m &&
      ((chainReads l [(o.a, o.ka), (o.b, o.kb), (o.c, o.kc)]).isNone || (o.pub && (chainSlot l (Opnd.vecNo o.d)).isNone))
  | none, _, _ => false

/-- R88: the line of a group lets its issue address be entered. -/
def entryMarked (s : State) (key pc : Nat) : Bool :=
  match (s.group key).bind (·.line) with
  | some x => lineTgt (lineWord x.bytes) (slotOf pc)
  | none => true

/-- R195, R198, R337: what is ILLEGAL_OP by the group's state or its team's kind, whatever its fields hold. -/
def illegalHere (is : Issue) (w : Nat) : Bool :=
  match w / 2 ^ 88, bits w 83 78 with
  | 0x00, 2 => is.g.handler.isNone
  | 0x01, 5 => is.g.handler.isSome
  | 0x68, 3 => !is.l.record.pair
  | 0x68, n => n < 3 && is.l.record.pair
  | _, _ => false

/-- R206, R234: a place field of `cvt` that the group's width does not allow is ILLEGAL_OPERAND. -/
def wideHere (is : Issue) : Instr → Bool
  | .cvtPlane o => is.g.width == 16 && 14 < cvtP o
  | _ => false

/-- R88, R95: at a group's first issue its entry point is checked as a target; ILLEGAL_OP, ILLEGAL_OPERAND and CHAIN_BAD go before BAD_TARGET. -/
def enterInstr (s : State) (is : Issue) (w : Nat) (i : Instr) : Host.Outcome State Fault Refusal :=
  if entryMarked s is.key is.pc then exec i (s.onGroup is.key (fun g => { g with entering := false }))
  else is.conclude s (.trap s (if wideHere is i then 2 else if chainBadSlot is.l w then 12 else 3) 0 0 is.ex)

/-- R81, R95: one slot's instruction. -/
def issueSlot (s : State) (is : Issue) (w : Nat) : Host.Outcome State Fault Refusal :=
  if illegalHere is w then is.conclude s (.trap s 1 0 0 is.ex)
  else match decode96 w with
  | .bad .illegalOp => is.conclude s (.trap s 1 0 0 is.ex)
  | .bad .illegalOperand => is.conclude s (.trap s 2 0 0 is.ex)
  | .instr i => if is.g.entering then enterInstr s is w i else exec i s

/-- One instruction of a group: its fetch, its decoding, its meaning. -/
def issueGroup (s : State) (key : Nat) : Host.Outcome State Fault Refusal :=
  let s := s.as (.group (key / 64) (key % 64))
  match s.issue 0 false with
  | none => .fault .noIssuer
  | some is =>
    match fetchSlot s is with
    | .wait s => is.finish (.hold s)
    | .parked s => is.finish (.commit s is.ex 0)
    | .trap s' code faddr => is.conclude s (.trap s' code 0 faddr is.ex)
    | .slot s w => issueSlot s is w

/-! ### What stores do beside what they write (R153, R271, R294) -/

/-- The keys of written bytes. -/
def wroteKeys (l : List (Nat × Nat)) : List Nat := l.flatMap (fun w => (List.range w.2).map (w.1 + ·))

/-- Who made the accesses of a move: the pump, the plane array or the gate pipeline, or any other agent. -/
inductive Writer where
  | pump | array | gates | other
  deriving DecidableEq, Repr

/-- The engine whose own accesses a move performs. -/
def Turn.writer : Turn → Writer
  | .event (.pumpSector _) => .pump
  | .event (.streamJobComplete _) => .pump
  | .event (.matrixOpComplete _) => .array
  | .event (.gateOpComplete _) => .gates
  | _ => .other

/-- Operations that were in flight before bytes were stored to have had them stored to. -/
def raceOps {α : Type} (mark : α → α) (before l : List (Nat × α)) : List (Nat × α) :=
  l.map (fun x => if (lookup before x.1).isSome then (x.1, mark x.2) else x)

/-- R271: a store that is no engine's races with the jobs in flight. -/
def raceJobs (w : Writer) (s : State) (keys : List Nat) (s' : State) : State :=
  if w == .other then { s' with jobs := raceOps (fun j => { j with raced := (j.raced ++ keys).eraseDups }) s.jobs s'.jobs } else s'

/-- R294: a store by any agent races with the operations of the plane array, but those of the array itself have an order of their own (R292). -/
def raceMatops (w : Writer) (s : State) (keys : List Nat) (s' : State) : State :=
  if w == .array then s' else { s' with matops := raceOps (fun o => { o with raced := (o.raced ++ keys).eraseDups }) s.matops s'.matops }

/-- R294, R306: a store by any agent races with the gate operations in flight. -/
def raceGates (s : State) (keys : List Nat) (s' : State) : State :=
  { s' with gateops := raceOps (fun o => { o with raced := (o.raced ++ keys).eraseDups }) s.gateops s'.gateops }

/-- A hart holds a reservation (R450). -/
def anyReserved (s : State) : Bool := s.harts.any (fun x => x.2.reserved.isSome)

/-- A program is held at its windows (R153). -/
def anyHeld (s : State) : Bool := s.queues.any (fun x => x.2.state == .blocked && x.2.hold)

/-- What the bytes written from `s` to `s'` do beside: they race with operations that were in flight (R271, R294, R306), wake programs held at windows (R153), and end reservations of harts (R450). -/
def noteStores (w : Writer) (s s' : State) : State :=
  let t := { s' with env := { s'.env with wrote := [] } }
  if s'.env.wrote.isEmpty || (s.jobs.isEmpty && s.matops.isEmpty && s.gateops.isEmpty && !anyHeld s && !anyReserved s) then t
  else
    let keys := wroteKeys s'.env.wrote
    endReservations keys (wakeQueues (raceGates s keys (raceMatops w s keys (raceJobs w s keys t))) keys)

/-- R91: the first slot's instruction lets its pair issue: both of majors beyond 0x03. -/
def pairMajors (b : List Byte) (k : Nat) : Bool := 3 < lineSlot b k / 2 ^ 88 && 3 < lineSlot b (k + 1) / 2 ^ 88

/-- R91: the pair bit of the slot at a group's issue address is set and counts. -/
def pairs (g : Group) (pc : Nat) : Bool :=
  match g.line with
  | none => false
  | some x => x.addr == lineOf pc && slotOf pc < 4 && linePair (lineWord x.bytes) (slotOf pc) && pairMajors x.bytes (slotOf pc)

/-- R91: after the first slot of a pair, the second issues in the same clk, reading the registers as they stood before. -/
def issueSecond (before after : State) (key : Nat) : Host.Outcome State Fault Refusal :=
  match before.group key, after.group key with
  | some g, some g' =>
    match g.issuePc with
    | none => .next after
    | some pc =>
      if pairs g' pc && g'.issuePc == some (pc + 12) && g'.handler.isSome == g.handler.isSome && !g'.halted && g'.barrier.isNone &&
          g'.inState .parked == g.inState .parked then
        match issueGroup { after with env := { after.env with before := some g } } key with
        | .next s => .next (noteStores .other after { s with env := { s.env with held := false, before := none } })
        | x => x
      else .next after
  | _, _ => .next after

/-- A group's issue with its pair, and the words it needs. -/
def issueWith (pair : Bool) (s : State) (key : Nat) : Host.Outcome State Fault Refusal :=
  match issueGroup s key with
  | .next s' =>
    if s'.env.held then .next s'
    else match (if pair then issueSecond s (noteStores .other s s') key else .next s') with
      | .next s'' => .next (fitWords s s'' (key / 64) key)
      | x => x
  | x => x

/-! ### The issue selector (R174) -/

/-- R174: a group the selector considers; after a restart no group of the context issues before its jobs have opened their missing pages (R133). -/
def mayIssue (s : State) (g : Group) : Bool :=
  !s.jobs.any (fun x => x.2.ctx == g.ctx && !x.2.opening.isEmpty) && g.partition.isSome && !g.halted && !g.evicted && g.barrier.isNone && (s.ctx g.ctx).state == .active && g.issuePc.isSome &&
    (lookup s.teams g.team).isSome && (lookup s.launches g.launch).isSome

/-- R174: whether one group goes before another: priority class, then not paused, then the rotation by dispatch age from the one that issued last. -/
def goesBefore (s : State) (last : Nat) (a b : Group) : Bool :=
  let pa := (s.ctx a.ctx).desc.prio
  let pb := (s.ctx b.ctx).desc.prio
  let za := s.clk < a.pausedUntil
  let zb := s.clk < b.pausedUntil
  if pa != pb then pb < pa
  else if za != zb then zb
  else if (last < a.age) != (last < b.age) then last < a.age
  else a.age < b.age

/-- Puts a group into the order of selection. -/
def place (s : State) (last : Nat) (x : Nat × Group) : List (Nat × Group) → List (Nat × Group)
  | [] => [x]
  | y :: r => if goesBefore s last x.2 y.2 then x :: y :: r else y :: place s last x r

/-- R174: the groups of a core in the order of selection. -/
def candidates (s : State) (core : Nat) : List Nat :=
  ((s.groups.filter (fun x => x.1 / 64 == core && mayIssue s x.2)).foldr (place s (s.core core).lastAge) []).map (·.1)

/-- Issues the first of a list of groups that does not hold. -/
def issueFirst (pair : Bool) : List Nat → State → Host.Outcome State Fault Refusal
  | [], s => .next s
  | k :: r, s =>
    match issueWith pair s k with
    | .next s' => if s'.env.held then issueFirst pair r { s' with env := { s'.env with held := false } } else .next s'
    | x => x

/-- The issue selector of a core. -/
def issueCore (pair : Bool) (core : Nat) (s : State) : Host.Outcome State Fault Refusal := issueFirst pair (candidates s core) s

/-- R107: a group that the selector looks at, and whether it waits; since when it has done so, or has not. -/
def look (s : State) (x : Nat × Group) : Nat × Group :=
  let stalled := !able s x.2 || (match issueGroup s x.1 with
    | .next s' => s'.env.held
    | _ => false)
  if stalled == x.2.stalled then x else (x.1, { x.2 with stalled, since := s.clk })

/-- R107: the groups as they stand, for the standpipe. -/
def lookAll (s : State) : State := { s with groups := s.groups.map (look s) }

/-! ### Interpreter units and harts -/

/-- The queue a unit runs (R147). -/
def unitQueue (s : State) (u : Nat) : Option (Nat × Queue) := s.queues.find? (fun x => x.2.unit == some u)

/-- R147, R150: one Busoron instruction of the queue a unit holds; past the last one the program acts as `qpass`. -/
def interp (u : Nat) (s : State) : Host.Outcome State Fault Refusal :=
  match unitQueue s u with
  | none => .next s
  | some (n, q) =>
    if q.state != .active then .next s
    else match q.word with
      | some w => match decodeQ w.toNat with
        | some i => exec i (s.as (.queue n))
        | none => .next s
      | none => if q.run.isSome then exec .qpass (s.as (.queue n)) else .next s

/-- R167, R450, R451: a hart of a cluster that an image has started executes the word its fetch has brought: `spawn`, or another of its instructions. -/
def runHart (h : Nat) (s : State) : Host.Outcome State Fault Refusal :=
  if (lookup s.sec.running 2).isNone || 16 ≤ h then .next s
  else match (s.hart h).word with
  | none => .next s
  | some w =>
    let s := s.setHart h { s.hart h with word := none }
    match decodeSpawn w.toNat with
    | some i => exec i (s.as (.hart h))
    | none => .next (hartWord h w s)

/-! ### Moves -/

/-- `n` clk pass (R4): the fused sets of the clk are complete (R298), and resident clk of ACTIVE contexts and of their launches that have begun (R118, R130). -/
def passTime (n : Nat) (s : State) : State :=
  settleFused { s with
    clk := s.clk + n
    ctxs := s.ctxs.map (fun x => if x.2.state == .active then (x.1, { x.2 with resident := x.2.resident + n }) else x)
    launches := s.launches.map (fun x =>
      if x.2.started && (s.ctx x.2.ctx).state == .active then (x.1, { x.2 with count := x.2.count + n }) else x) }

/-- Changes a group's integrity. -/
def onIntegrity (s : State) (core slot : Nat) (f : Integrity → Integrity) : State :=
  s.onGroup (groupKey core slot) (fun g => { g with integrity := f g.integrity })

/-- R103, R106: a result that has arrived stands when the words its tag takes fit; else duplicates go, or the youngest other group leaves and the result waits. -/
def fitEvent (i : Instr) (before after : State) : State :=
  match i with
  | .longLatencyResult core slot => let s := fitWords before after core (groupKey core slot); { s with env := { s.env with held := before.env.held } }
  | _ => after

/-- R107: the standpipe's own steps find the groups as they stand. -/
def forEvent (i : Instr) (s : State) : State :=
  match i with
  | .partitionHandover .. => lookAll s
  | .standpipeRotation _ => lookAll s
  | _ => s

/-- One move, by itself. DESIGN CHOICE (log 56): an upset marks a word as failing and changes no value: where its value is used after all (R115's save), that is the one from before. -/
def turnStep (t : Turn) (s : State) : Host.Outcome State Fault Refusal :=
  match t with
  | .issue core => issueCore false core s
  | .issuePair core => issueCore true core s
  | .interp u => interp u s
  | .hart h => runHart h s
  | .portCore p => .next (runPortCore p s)
  | .event i =>
    if (encode i).isNone then
      (match exec i ((forEvent i s).as .none) with
      | .next t => .next (fitEvent i s t)
      | x => x)
    else .next s
  | .pass n => .next (passTime n (lookAll s))
  | .upset core slot reg word => .next (s.onGroup (groupKey core slot) (fun g =>
      if g.evicted || g.integrity.bad.contains { reg, word } || regWords g reg ≤ word then g
      else { g with integrity := { g.integrity with bad := g.integrity.bad ++ [{ reg, word }] } }))
  | .upsetTable core slot reg => .next (onIntegrity s core slot (fun x => if x.tables.contains reg then x else { x with tables := x.tables ++ [reg] }))
  | .upsetStaged core slot reg word => .next (s.onGroup (groupKey core slot) (fun g =>
      { g with staged := g.staged.map (fun x => if x.reg == reg && !x.bad.contains word && word < regWords g reg then { x with bad := x.bad ++ [word] } else x) }))
  | .correctTable core slot reg =>
    match s.group (groupKey core slot) with
    | some g => .next (logEvent s g.ctx true 3 core slot reg 0 0)
    | none => .next s
  | .upsetShadow core slot lane value => .next (onIntegrity s core slot (fun x => { x with shadow := insert x.shadow lane value }))
  | .upsetLine core slot => .next (s.onGroup (groupKey core slot) (fun g =>
      match g.issuePc, g.line with
      | some pc, some x => if x.addr == lineOf pc then g else { g with line := none, refetch := true }
      | some _, none => { g with refetch := true }
      | none, _ => g))
  | .memoryError line bad => .next { s with badLines := if bad then (if s.badLines.contains line then s.badLines else s.badLines ++ [line])
                                                       else s.badLines.filter (· != line) }
  | .dropLine core slot => .next (s.onGroup (groupKey core slot) (fun g => { g with line := none }))
  | .dropLeaf ctx page => .next { s with tlb := s.tlb.filter (fun e => !(e.ctx == ctx && e.page == page)) }
  | .lineFill ctx page quadrant n => .next (countFills s ctx page quadrant n)
  | .mapBar base len pa => .next (mapBar base len pa s)
  | .atomicEngine die => .next (runAtomics die s)
  | .hostAtomic pa op size v c => .next (hostAtomic pa op size v c s)
  | .hostLink io mem width => .next (hostLink io mem width s)
  | .fetchHart h word => .next (s.setHart h { s.hart h with word := some word })
  | .setHart h x => .next (s.setHart h { x with x := (x.x ++ List.replicate 32 0).take 32 |>.set 0 0 })
  | .setPortCore p x => .next (setPortCore p { x with x := (x.x ++ List.replicate 32 0).take 32 |>.set 0 0 } s)

/-- One move of the machine or its environment. -/
def move (t : Turn) (s : State) : Host.Outcome State Fault Refusal :=
  match turnStep t s with
  | .next s' => .next (noteStores t.writer s s')
  | x => x

/-- The next move: the first that State names, else the schedule's (log 1). -/
def nextMove (s : State) : Turn × State :=
  match s.env.turns with
  | t :: r => (t, { s with env := { s.env with turns := r } })
  | [] => (Config.turn s.env.tick, { s with env := { s.env with tick := s.env.tick + 1 } })

/-! ### An instruction placed where the next step fetches it -/

/-- The parity bits of a line with one slot in use (R72). -/
def oneSlotLine (w : Nat) : Nat :=
  let x := 31 + (if parity w 96 then 2 ^ 9 else 0)
  x + (if parity x 14 then 2 ^ 14 else 0)

/-- The bytes of a line whose slot 0 is `w`; every slot may be entered. -/
def lineBytes (w : Nat) : List Byte := leBytes 12 w ++ leBytes 48 0 ++ leBytes 4 (oneSlotLine w)

/-- A leaf of a readable, writable and executable device page. -/
def openLeaf (frame : Nat) : Dword := BitVec.ofNat 64 (2 ^ 63 + 15 * 2 ^ 56 + frame)

/-- Maps page 0 of context 1 to a device frame, by a cached translation. -/
def mapFirst (s : State) : State :=
  { s with tlb := { ctx := 1, page := 0, leaf := openLeaf 65536, leafAddr := 0 } :: s.tlb
           ctxs := insert s.ctxs 1 { s.ctx 1 with state := .active } }

/-- One group of 16 lanes alone in its team and launch, about to issue at address 0. -/
def oneGroup : Group :=
  { ctx := 1, launch := 0, team := 0, index := 0, width := 16, age := 0, partition := some 0
    lanes := List.replicate 16 .run
    regs := { v := List.replicate 128 (.u 0), s := List.replicate 64 0, p := List.replicate 8 0, j := List.replicate 8 {},
              cc := List.replicate 16 0, lpc := List.replicate 16 0, lsp := .u 0, gs := 0 } }

def oneTeam : Team :=
  { ctx := 1, launch := 0, index := 0, cores := [0], groups := [0], live := 1, cistern := [0], sump := [0], bars := [] }

def oneLaunch : Launch :=
  { ctx := 1, order := 0, addr := 0, args := [], seeds := [], liveX := 16, liveY := 1, liveZ := 1, origin := .spawn, teamsLeft := 0, started := true
    record := { entry := 0, x := 16, y := 1, z := 1, width := 16, team := 1, pair := false, deadline := 0, data := 0, privBase := 0, privSz := 0,
                cistern := 0, sump := 0, bars := 0, affBase := 0, affStride := 0, chain := [], seeds := 0, args := 0, join := 0 } }

/-- A Lumlia slot in memory at the first line of a group that issues next. -/
def withSlot (s : State) (w : Nat) : State :=
  let s := mapFirst s
  { s with
    env := { s.env with turns := [.issue 0] }
    mem := Memory.store s.mem 65536 (lineBytes w)
    groups := insert s.groups 0 oneGroup
    teams := insert s.teams 0 oneTeam
    launches := insert s.launches 0 oneLaunch }

/-- A Busoron word as the program of a queue that unit 0 runs next. -/
def withProgram (s : State) (w : Nat) : State :=
  let s := mapFirst s
  let q : Queue := {
    state := .active
    desc := { ctx := 1 }
    packet := List.replicate 64 0
    slots := [(0, { windows := [{ base := 0, len := 4096, read := true, write := true, nvme := false }], code := [BitVec.ofNat 32 w] })]
    run := some { prog := 0 }
    unit := some 0 }
  { s with env := { s.env with turns := [.interp 0] }, queues := insert s.queues 0 q }

/-- A word that hart 0 executes next. -/
def withHart (s : State) (w : Nat) : State :=
  { s with env := { s.env with turns := [.hart 0] }, sec := { s.sec with running := [(2, { version := 0, digest := [] })] }, harts := insert s.harts 0 { s.hart 0 with word := some (BitVec.ofNat 32 w) } }

/-- The instruction of `nbits` bits placed so that the next step runs it (log 11). -/
def placeWord (s : State) (nbits w : Nat) : State :=
  if nbits == 96 then withSlot s w
  else if w / 2 ^ 26 % 64 == 0 then withHart s w
  else withProgram s w

end Sys2Proof.Machine
end

