-- ==== Sys2Proof/Machine/Step.lean ====
section
/-! DEFINITION. Machine/Step: the step. -/
namespace Sys2Proof.Machine

/-- One step: the next move of the machine. -/
def step (s : State) : Host.Outcome State Fault Refusal := move (nextMove s).1 (nextMove s).2

/-- `s` with an instruction placed where the next step fetches it (log 11). -/
def State.withFetchWord (s : State) (nbits w : Nat) : State := placeWord s nbits w

end Sys2Proof.Machine
end

