-- ==== Sys2Proof/Certificates/Slice0/Terms.lean ====
section
/-! DEFINITION. Certificates/Slice0/Terms: the terms the statements are written in: when a group's issue has nothing in its way, and the state an issue leaves. -/
namespace Sys2Proof.Claims
open Sys2Proof.Machine

/-- `is` is the issue at `s` of an instruction with this guard, and nothing stands in its way: it is no second slot of a pair (R91), the group has no long-latency result pending (R90), no yielded lane (R173), no register word, table or staged register that fails its parity (R114), and no shadow lane in error (R190). -/
structure Issues (s : State) (pred : Fin 8) (neg : Bool) (is : Issue) : Prop where
  issue : s.issue pred neg = some is
  single : s.env.before = none
  pend : is.g.pend = []
  yields : is.g.yields = []
  words : is.g.integrity.bad = []
  tables : is.g.integrity.tables = []
  resume : is.g.integrity.resume = false
  staged : is.g.staged.all (fun x => x.bad.isEmpty) = true
  shadow : is.g.integrity.shadow = []

/-- `s` once the issuing group has become `g`: the core remembers who issued last (R174), and nothing else of the machine has changed. -/
def became (s : State) (is : Issue) (g : Group) : State :=
  { s with groups := insert s.groups is.key g, cores := insert s.cores is.core { s.core is.core with lastAge := is.g.age } }

/-- `lpc` of the lanes of `m` at the next slot, DEPTH kept (R70, R171). -/
def stepped (is : Issue) (m : Mask) : List Dword := onLanes m (fun l => is.g.withPc l (nextPc is.pc)) is.g.regs.lpc

/-- No operand of the instruction is a chain read, and it publishes nothing (R181). -/
def unchained (o : VOps) : Prop := o.pub = false ∧ o.ka = 0 ∧ o.kb = 0 ∧ o.kc = 0

/-- The OR over the lanes whose guard is true (R38). -/
def orLanes (is : Issue) (f : Nat → Word) : Word := (is.gd.lanes is.g.width).foldl (fun x l => x ||| f l) 0

/-- A vector register `x` that was `old` holds `val` in the lanes of `m` and what it held in the other live lanes. -/
def holds (is : Issue) (m : Mask) (old x : VReg) (val : Nat → Word) : Prop :=
  ∀ l, l < is.g.width → if m.has l then x.get l = val l else (is.g.live.has l = true → x.get l = old.get l)

/-- A scalar register holds a 32-bit result extended by its type (R29), or a 64-bit result. -/
def scalarOf (wide signed : Bool) (x : Nat) : Dword :=
  if wide then BitVec.ofNat 64 x else if signed then (BitVec.ofNat 32 x).signExtend 64 else (BitVec.ofNat 32 x).zeroExtend 64

/-- The three register files once `d` has been written with `val` in the lanes of `m` (R29, R97, R98, R208): nothing else of them has changed. -/
def filesWritten (is : Issue) (d : Opnd) (wide signed : Bool) (m : Mask) (val : Nat → Nat) (v : List VReg) (sc : List Dword) (p : List Mask) : Prop :=
  match d with
  | .v n =>
    sc = is.g.regs.s ∧ p = is.g.regs.p ∧ ∃ x, holds is m (is.g.regs.v.getD n.val (.u 0)) x (fun l => BitVec.ofNat 32 (val l)) ∧
      if wide then ∃ y, holds is m ((is.g.regs.v.set n.val x).getD (n.val + 1) (.u 0)) y (fun l => BitVec.ofNat 32 (val l / 2 ^ 32)) ∧
        v = (is.g.regs.v.set n.val x).set (n.val + 1) y
      else v = is.g.regs.v.set n.val x
  | .s n =>
    v = is.g.regs.v ∧ p = is.g.regs.p ∧ sc = (match m.lanes is.g.width with
      | [] => is.g.regs.s
      | l :: _ => is.g.regs.s.set n.val (scalarOf wide signed (val l)))
  | .p n =>
    v = is.g.regs.v ∧ sc = is.g.regs.s ∧ p = (if n.val = 0 ∨ m = 0 then is.g.regs.p
      else is.g.regs.p.set n.val ((is.g.pred n.val &&& ~~~m) ||| (Mask.of is.g.width (fun l => val l != 0) &&& m)))
  | _ => v = is.g.regs.v ∧ sc = is.g.regs.s ∧ p = is.g.regs.p

/-- `exec i s` answers a next state in which `d` holds `val` in the lanes of `m`, `flags` are ORed into `gs`, and every executing lane stands at the next slot. Of the group only the standpipe's staging, the duplicates of the register written and bytes peers sent for an earlier instruction may change besides, and of the machine nothing. -/
def GivesIn (m : Mask) (i : Instr) (s : State) (is : Issue) (d : Opnd) (wide signed : Bool) (val : Nat → Nat) (flags : Word) : Prop :=
  ∃ v sc p staged dups, filesWritten is d wide signed m val v sc p ∧
    exec i s = .next (became s is { is.g with
      regs := { is.g.regs with v := v, s := sc, p := p, gs := is.g.regs.gs ||| flags.zeroExtend 64, lpc := stepped is is.ex }
      inbox := [], staged := staged, integrity := { is.g.integrity with dups := dups } })

/-- The same in the lanes whose guard is true (R208). -/
def Gives (i : Instr) (s : State) (is : Issue) (d : Opnd) (wide signed : Bool) (val : Nat → Nat) (flags : Word) : Prop :=
  GivesIn is.gd i s is d wide signed val flags

/-- A long-latency result on its way (R90): `look` instructions of each covered lane see the register as it was. -/
def onItsWay (is : Issue) (scalar : Bool) (reg : Nat) (vec : VReg) (sca : Dword) (look : Nat) (flags : Word) : Pend :=
  { seq := is.g.nextSeq, scalar, reg, vec, sca, part := is.gd
    left := (List.range is.g.width).map (fun l => if is.gd.has l then look else 0), arrived := false, flags, missing := 0 }

/-- The results on their way to `d`, in order. -/
def resultsFor (is : Issue) (d : Opnd) (wide signed : Bool) (look : Nat) (val : Nat → Nat) (flags : Word) (p : List Pend) : Prop :=
  match d with
  | .v n => ∃ x, holds is is.gd (is.g.regs.v.getD n.val (.u 0)) x (fun l => BitVec.ofNat 32 (val l)) ∧
      if wide then ∃ y, holds is is.gd (is.g.regs.v.getD (n.val + 1) (.u 0)) y (fun l => BitVec.ofNat 32 (val l / 2 ^ 32)) ∧
        p = [onItsWay is false n.val x 0 look flags, onItsWay is false (n.val + 1) y 0 look 0]
      else p = [onItsWay is false n.val x 0 look flags]
  | .s n => ∃ l r, is.gd.lanes is.g.width = l :: r ∧ p = [onItsWay is true n.val (.u 0) (scalarOf wide signed (val l)) look flags]
  | _ => p = []

/-- `exec i s` answers a next state in which a long-latency result is on its way to `d` (R90), no register has changed yet, and every executing lane stands at the next slot. Without a lane whose guard is true nothing is on its way. -/
def Starts (i : Instr) (s : State) (is : Issue) (d : Opnd) (wide signed : Bool) (look : Nat) (val : Nat → Nat) (flags : Word) : Prop :=
  ∃ pend seq dups, (if is.gd = 0 then pend = [] else resultsFor is d wide signed look val flags pend) ∧
    exec i s = .next (became s is { is.g with
      regs := { is.g.regs with lpc := stepped is is.ex }, pend := pend, nextSeq := seq
      inbox := [], integrity := { is.g.integrity with dups := dups } })

/-! ### Chain registers (R181 to R186) -/

/-- The reads and the publications of a lane's item at a chain slot. -/
def readsOf (is : Issue) (c l : Nat) : Nat := (is.l.chainItem c (is.g.item l)).reads
def pubsOf (is : Issue) (c l : Nat) : List Word := (is.l.chainItem c (is.g.item l)).pubs

/-- The launch `la` is the issue's with the chain items of slot `c` that lanes of `m` hold advanced: their reads by `r`, their publications by what `p` gives; no other count changes. -/
def advanced (is : Issue) (c : Nat) (m : Mask) (r : Nat) (p : Nat → List Word) (la : Launch) : Prop :=
  (∀ l < is.g.width, m.has l = true → la.chainItem c (is.g.item l) = { reads := readsOf is c l + r, pubs := pubsOf is c l ++ p l }) ∧
  (∀ key, (∀ l < is.g.width, m.has l = true → key ≠ chainKey c (is.g.item l)) → lookup la.chain key = lookup is.l.chain key) ∧
  { la with chain := [] } = { is.l with chain := [] }

/-- `exec i s` answers a next state in which register `n` holds `val` in the guarded lanes that do not wait, those of `wait` are in `chainwait` at this slot, each for what `for_` names, the launch has become `la`, and the other executing lanes have gone on. -/
def Chains (i : Instr) (s : State) (is : Issue) (n : Nat) (wait : Mask) (for_ : Nat → ChainWait) (val : Nat → Word) (la : Launch) : Prop :=
  ∃ x staged dups, holds is (is.gd &&& ~~~wait) (is.g.regs.v.getD n (.u 0)) x val ∧
    exec i s = .next { became s is { is.g with
      regs := { is.g.regs with v := is.g.regs.v.set n x, lpc := stepped is (is.ex &&& ~~~wait) }
      lanes := onLanes wait (fun _ => .chainwait) is.g.lanes
      chainWaits := is.g.chainWaits.filter (fun w => !wait.has w.1) ++ (wait.lanes is.g.width).map (fun l => (l, for_ l))
      inbox := [], staged := staged, integrity := { is.g.integrity with dups := dups } } with launches := insert s.launches is.g.launch la }

/-! ### Values -/

/-- Element `k` of an operand of a type, as bits (R30). -/
def elemBits (t : Ty) (x k : Nat) : BitVec (tyBits t) := BitVec.ofNat (tyBits t) (x / 2 ^ (tyBits t * k))

/-- The number an element stands for (R29). -/
def elemNumber (t : Ty) (x k : Nat) : Int := if tySigned t then (elemBits t x k).toInt else ((elemBits t x k).toNat : Int)

/-- The least and the greatest number of a type's element (R36). -/
def leastOf (t : Ty) : Int := if tySigned t then -(2 ^ (tyBits t - 1) : Int) else 0
def greatestOf (t : Ty) : Int := if tySigned t then (2 ^ (tyBits t - 1) : Int) - 1 else (2 ^ tyBits t : Int) - 1

/-- R213: the exact number `e` as an element: clamped to the type's range with `sat`, else modulo 2^w. -/
def elemOf (t : Ty) (sat : Bool) (e : Int) : BitVec (tyBits t) :=
  BitVec.ofInt (tyBits t) (if sat then max (leastOf t) (min (greatestOf t) e) else e)

/-- R213: whether the clamp changes the number. -/
def clamps (t : Ty) (sat : Bool) (e : Int) : Prop := sat = true ∧ (e < leastOf t ∨ greatestOf t < e)

/-- The value of an operand of an instruction's own type in a lane. -/
def opA (is : Issue) (o : VOps) (l : Nat) : Nat := opValue is o.a o.ty.wide (immValue o.ty o.imm) l
def opB (is : Issue) (o : VOps) (l : Nat) : Nat := opValue is o.b o.ty.wide (immValue o.ty o.imm) l
def opC (is : Issue) (o : VOps) (l : Nat) : Nat := opValue is o.c o.ty.wide (immValue o.ty o.imm) l

/-- R220: an integer condition by its code. -/
def condHolds (c : Nat) (x y : Int) : Prop :=
  match c with
  | 0 => x = y
  | 1 => x ≠ y
  | 2 => x < y
  | 3 => x ≤ y
  | 4 => y < x
  | _ => y ≤ x

/-- R220: a binary32 condition by its code, of data that are no NaN: `lt` and `gt` are the order with −0 equal to +0. -/
def condOrdered (c : Nat) (lt gt : Prop) : Prop :=
  match c with
  | 0 => ¬ lt ∧ ¬ gt
  | 1 => lt ∨ gt
  | 2 => lt
  | 3 => ¬ gt
  | 4 => gt
  | 5 => ¬ lt
  | 6 => True
  | _ => False

/-- Element `k` of an operand as a floating-point datum (R26, R30). -/
def elemDatum (t : Ty) (x k : Nat) : FVal := (tyFmt t).decode (elemBits t x k).toNat

/-- A lane whose guard is true. -/
def acts (is : Issue) (l : Nat) : Prop := l < is.g.width ∧ is.gd.has l = true

/-- The group `g` with every executing lane at the next slot. -/
def moved (is : Issue) (g : Group) : Group := { g with regs := { g.regs with lpc := stepped is is.ex }, inbox := [] }

/-- `exec i s` answers a next state in which the issuing group has become `g` with every executing lane at the next slot, and nothing else has changed. -/
def Leaves (i : Instr) (s : State) (is : Issue) (g : Group) : Prop := exec i s = .next (became s is (moved is g))

/-- The group `g` with its executing lanes gone on: those of `go` to the `lpc` that `f` gives, the others to the next slot. -/
def gone (is : Issue) (go : Mask) (f : Nat → Dword) (g : Group) : Group :=
  { g with regs := { g.regs with lpc := onLanes is.ex (fun l => if go.has l then f l else is.g.withPc l (nextPc is.pc)) is.g.regs.lpc }, inbox := [] }

/-- `s` once the issuing group has become `g`, but for the translations a core keeps (R378). -/
def becameBut (s : State) (is : Issue) (g : Group) (tlb : List Cached) : State := { became s is g with tlb := tlb }

/-- The group once an operation that names a counter, or none, has issued (R323). -/
def counted (g : Group) (n : Option Nat) : Group :=
  match n with
  | some k => { g with regs := { g.regs with cc := g.regs.cc.set k (g.regs.cc.getD k 0 + 1) } }
  | none => g

/-- A list with values put in a row from a place on. -/
def setFrom {α : Type} (l : List α) : Nat → List α → List α
  | _, [] => l
  | n, x :: r => setFrom (l.set n x) (n + 1) r

/-- `exec i s` answers the state `s'` but for the issuing group, whose scalars from the one that `b` names on hold `words`, and which has gone to the next slot. -/
def GivesScalars (i : Instr) (s s' : State) (is : Issue) (b : Byte) (words : List Dword) : Prop :=
  ∃ dups, exec i s = .next (became s' is { moved is { is.g with regs := { is.g.regs with s := setFrom is.g.regs.s (byteScalar b) words } } with
    integrity := { is.g.integrity with dups := dups } })

/-- No other context than `c` holds its tables on the device. -/
def alone (s : State) (c : Nat) : Prop := ∀ x ∈ s.ctxs, x.2.state ≠ .free → x.1 = c

/-- `s` once a context has come to write at a place: the leaves by which other contexts map its page have D set (R131). -/
def shared (s : State) (c : Nat) (p : Place) : State :=
  match p with
  | .sram _ => s
  | .page _ w _ => s.shareDirty c w

/-- A place whose bytes lie in this device's or the host's memory at `key`, under a leaf that has D set and reduces nothing. -/
def plainAt (p : Place) (key : Nat) : Prop :=
  match p with
  | .sram k => k = key
  | .page va w _ => leafLoc w va = .here key ∧ leafD w = true ∧ leafRed w = false

/-- `s` once the issuing group has become `g`, but for the translations a core keeps (R378) and the host lines held dirty over CXL.cache (R448). -/
def becameHeld (s : State) (is : Issue) (g : Group) (tlb : List Cached) (held : List DirtyLine) : State :=
  { becameBut s is g tlb with link := { s.link with dirtyHost := held } }

/-- A place whose bytes lie in this device's or the host's memory at `key`, in a line without an uncorrectable error. -/
def readAt (s : State) (p : Place) (key : Nat) : Prop :=
  s.badLine key = false ∧ match p with
  | .sram k => k = key
  | .page va w _ => leafLoc w va = .here key

/-- `s` once each lane of `m` has stored `n` bytes at its place, whose bytes lie at its key, in ascending lane order (R254). -/
def stored (s : State) (is : Issue) (m : Mask) (n : Nat) (p : Nat → Place) (key val : Nat → Nat) : State :=
  (m.lanes is.g.width).foldl (fun s l => (shared s is.g.ctx (p l)).poke (key l) (leBytes n (val l))) s

/-- The loaded values of `n` bytes on their way to the registers of `d` (R90, R249), `val` for the lanes of `m`; `missing` names lanes a peer has still to send. -/
def loadFor (is : Issue) (d : Opnd) (n look : Nat) (m missing : Mask) (val : Nat → Nat) (pend : List Pend) : Prop :=
  match d with
  | .v r =>
    pend.length = max 1 (n / 4) ∧ ∀ k < max 1 (n / 4), ∃ x, holds is m (is.g.regs.v.getD (r.val + k) (.u 0)) x (fun l => BitVec.ofNat 32 (val l / 2 ^ (32 * k))) ∧
      pend[k]? = some { onItsWay is false (r.val + k) x 0 look 0 with
        part := m, left := (List.range is.g.width).map (fun l => if m.has l then look else 0), missing }
  | .s r => ∃ l t, m.lanes is.g.width = l :: t ∧ pend = [{ onItsWay is true r.val (.u 0) (BitVec.ofNat 64 (val l)) look 0 with
      part := m, left := (List.range is.g.width).map (fun l => if m.has l then look else 0), missing := missing &&& Mask.bit l }]
  | _ => pend = []

/-- What a trap entry leaves of a group: the trap lanes run at s62, the others are as they were, the sets are empty, and the handler holds what entry saved (R192, R194). -/
def entered (g : Group) (lanes : Mask) (code saved : Nat) (g' : Group) : Prop :=
  (∃ h, g'.handler = some h ∧ h.lanes = lanes ∧ h.cause = code ∧ h.sets = g.regs.j ∧ h.tret = 0 ∧
    h.lpcs = onLanes lanes (fun l => g.withPc l saved) g.regs.lpc) ∧
  g'.regs.lpc = onLanes lanes (fun _ => BitVec.ofNat 64 ((g.sreg 62).toNat % 2 ^ 57)) g.regs.lpc ∧
  g'.lanes = onLanes lanes (fun _ => LaneState.run) g.lanes ∧ g'.regs.j = List.replicate 8 {} ∧
  g'.regs.v = g.regs.v ∧ g'.regs.s = g.regs.s ∧ g'.regs.p = g.regs.p ∧ g'.regs.cc = g.regs.cc ∧ g'.regs.lsp = g.regs.lsp ∧ g'.regs.gs = g.regs.gs ∧
  g'.halted = g.halted

/-- What a lane's atomic finds at its key, after the atomics of lower lanes have left `s` (R264). -/
def foundAt (s : State) (is : Issue) (n : Nat) (p : Nat → Place) (key : Nat → Nat) (l : Nat) : Nat :=
  Memory.value (shared s is.g.ctx (p l)).mem (key l) n

/-- `s` once the atomics of these lanes, one after another, have been performed at their places (R264). -/
def afterAtomics (s : State) (is : Issue) (o : MOps) (p : Nat → Place) (key : Nat → Nat) (lanes : List Nat) : State :=
  lanes.foldl (fun s l => (shared s is.g.ctx (p l)).poke (key l) (leBytes (Size.bytes o.size)
    (atomOp o.aop.toNat (Size.bytes o.size) (foundAt s is (Size.bytes o.size) p key l) (atomArgs is o l).1 (atomArgs is o l).2))) s

/-- `s` once these lanes, one after another, have polled the ring entries at their places: an entry that is done or failed becomes free (R270). -/
def afterPolls (s : State) (is : Issue) (p : Nat → Place) (key : Nat → Nat) (lanes : List Nat) : State :=
  lanes.foldl (fun s l =>
    let s := shared s is.g.ctx (p l)
    if Memory.read s.mem (key l + 8) = 2 ∨ Memory.read s.mem (key l + 8) = 3 then s.poke (key l + 8) [0] else s) s

/-- A heap once the lanes of a list, one after another, have received their blocks: `got` names the page and the offset of each, `size` its bytes (R259). -/
def heapWith (heap : List HeapPage) (size : Nat → Nat) (got : Nat → Option (Nat × Nat)) (lanes : List Nat) : List HeapPage :=
  lanes.foldl (fun h l => match got l with
    | some b => h.map (fun p => if p.va = b.1 then { p with blocks := (b.2, size l) :: p.blocks } else p)
    | none => h) heap

/-! ### Reductions, from the manual's words (R239) -/

/-- The first term of a reduction: a binary32 code as it is, but a NaN canonical, with NV where it signals (R28, R38). -/
def soleTerm (x : Nat) : Nat × Word :=
  if (binary32.decode x).isNan then (0x7fc00000, if (binary32.decode x).isSig then fNV else 0) else (x, 0)

/-- The binary32 sum of a list, one rounding an addition, the first term unrounded. -/
def floatSum (rnd : Rnd) : List Nat → Nat × Word
  | [] => (0, 0)
  | x :: r => r.foldl (fun acc y => ((binary32.add rnd (binary32.decode acc.1) (binary32.decode y)).1,
      acc.2 ||| (binary32.add rnd (binary32.decode acc.1) (binary32.decode y)).2)) (soleTerm x)

/-- The sum that ROOT forms of the terms present, in ascending rank: the first unrounded, a NaN canonical, and then one rounding an addition, of the halves in bf16, or the greatest (R438, R28). -/
def roundSum (op : Nat) : List Word → Word
  | [] => 0
  | x :: r =>
    let canonical := fun (f : Fmt) (a : Nat) => if (f.decode a).isNan then f.nan else a
    let halves := fun (f : Nat → Nat) => BitVec.ofNat 32 (f 0 + 2 ^ 16 * f 1)
    let half := fun (y : Word) (k : Nat) => y.toNat / 2 ^ (16 * k) % 2 ^ 16
    match op with
    | 0 => r.foldl (fun acc y => BitVec.ofNat 32 (binary32.add .rn (binary32.decode acc.toNat) (binary32.decode y.toNat)).1) (BitVec.ofNat 32 (canonical binary32 x.toNat))
    | 1 => r.foldl (fun acc y => halves (fun k => (bf16.add .rn (bf16.decode (half acc k)) (bf16.decode (half y k))).1)) (halves (fun k => canonical bf16 (half x k)))
    | _ => r.foldl (fun acc y => BitVec.ofNat 32 (binary32.minmax false acc.toNat y.toNat).1) (BitVec.ofNat 32 (canonical binary32 x.toNat))

/-- `t` is `s` after ROOT has ended a round with the terms it has got: its word's next round is open, every other member device is sent the result with the mask of the ranks missing, and a rank of this device finds it in its frame (R438, R439). -/
def roundEnded (s t : State) (gid : Nat) (r : Round) : Prop :=
  let c := s.coll gid
  let sum := roundSum c.op ((List.range c.nrank).filterMap (lookup r.got))
  let devs := c.members.map (·.dev)
  (∀ y ∈ (t.coll gid).rounds, y.off ≠ r.off) ∧ lookup (t.coll gid).closed r.off = some (r.number + 1) ∧
  (∀ d ∈ devs, d ≠ s.link.id → ∀ p, wordPort s r.off = some p →
    (p, Flit.sealed { flitTo s 7 d (BitVec.ofNat 32 r.number) (leBytes 8 r.off ++ leBytes 4 sum.toNat ++ leBytes 32 (missingMask r.got c.nrank)) with
      gid := BitVec.ofNat 8 gid, inc := BitVec.ofNat 8 c.inc }) ∈ t.link.sent) ∧
  ∀ m key w pa, s.link.bars = [] → Memory.wf s.mem = true → c.members.filter (fun y => y.dev == s.link.id) = [m] → ((∀ d ∈ devs, d = s.link.id) ∨ wordPort s r.off ≠ none) →
    translate s m.ctx (m.base + r.off) .write = .to w pa → leafLoc w (m.base + r.off) = .here key → leafMem w = 0 → leafD w = true → Memory.value t.mem key 4 = sum.toNat

/-- The participants of an issue before lane `l`, ascending. -/
def before (is : Issue) (l : Nat) : List Nat := (is.gd.lanes is.g.width).filter (fun k => k < l)

/-! ### Gates (R305) -/

/-- The element a column carries after `row` rows: `run` is the program on a row, `reset` the element that a mark puts in at a row. -/
def carried (run : Nat → Nat → GElem) (reset : Nat → Option Nat) (first : Nat) : Nat → Nat
  | 0 => first
  | row + 1 => (run row ((reset row).getD (carried run reset first row))).h

/-! ### Jobs (R317, R318) -/

/-- Where byte `o` of a copy comes from and goes to: a plain copy, or a transpose of elements of `xp` bytes (R317). -/
def copyByte (src dst xp cols spitch dpitch o : Nat) : Nat × Nat :=
  if xp = 0 then (src + o, dst + o)
  else
    let r := o / (cols * xp)
    let k := o % (cols * xp) / xp
    ((src + r * spitch + k * xp) % 2 ^ 64 + o % xp, (dst + k * dpitch + r * xp) % 2 ^ 64 + o % xp)

/-- `s` once a job of context `c` has come to write `n` bytes at a place: the leaves that map the page have D set (R131), those of the frames that a handle names (R386) too. -/
def jobMarks (s : State) (c : Nat) (p : Place) (n : Nat) : State :=
  match p with
  | .sram k => if k < 2 ^ 64 then s.dirtyFrame k n else s
  | .page _ _ _ => shared s c p

/-- `s` once a job has moved a sector: the bytes of each piece from their key to theirs, all read before any is written (R318). -/
def sectorMoved (s : State) (j : Job) (u : Nat) (to_ : Nat → Place) (fromKey toKey : Nat → Nat) : State :=
  (sectorPieces j u).foldl (fun s' x => (jobMarks s' j.ctx (to_ x.2.1) x.2.2).poke (toKey x.2.1) (Memory.bytes s.mem (fromKey x.1) x.2.2)) s

/-- The bytes of a team's window from offset `off` on lie from `key` on. -/
def windowRun (t : Team) (l : Launch) (off n key : Nat) : Prop := ∀ i < n, directKey t l (off + i) = some (key + i)

/-- Element `j` of row 0 of an identifier lies at `key j` of the team's window, for each of its first `n` elements (R285). -/
def rowRun (t : Team) (l : Launch) (r : List Dword) (n : Nat) (key : Nat → Nat) : Prop :=
  ∀ j < n, windowRun t l (tidElem r j 0 0 0 % 2 ^ 57) 4 (key j)

/-! ### Queue programs (R147, R150, R152) -/

/-- Queue `n`, which is `q`, executes an instruction of its program, whose run stands at `r`: its context is served, FENCE holds nothing back before the first instruction, and the packet's budget of 512 instructions is not spent. -/
structure Runs (s : State) (n : Nat) (q : Queue) (r : ProgRun) : Prop where
  cur : s.env.cur = .queue n
  queue : s.queue n = q
  run : q.run = some r
  serves : servesCtx s q.desc.ctx = true
  begun : r.started = true ∨ q.fence = false ∨ ∀ y ∈ q.work, y.1 = q.serial
  left : r.count < 512

/-- The run with one more instruction counted. -/
def countedRun (r : ProgRun) : ProgRun := { r with started := true, count := r.count + 1 }

/-- The queue while its instruction runs. -/
def during (q : Queue) (r : ProgRun) : Queue := { q with run := some (countedRun r) }

/-- The queue `q` once its instruction has been executed with the following one next: at the end of a `qrep` body the body is repeated or left (R150). -/
def following (q : Queue) (r : ProgRun) : Queue :=
  { q with run := some { countedRun r with reps := (fallTo r.reps (r.pc + 1)).1, pc := (fallTo r.reps (r.pc + 1)).2 } }

/-- The queue `q` once its instruction has branched by `d`: the `qrep` bodies that do not hold the target are left (R151). -/
def branched (q : Queue) (r : ProgRun) (d : Int) : Queue :=
  { q with run := some { countedRun r with reps := r.reps.filter (fun f => f.first ≤ (r.pc + d).toNat && (r.pc + d).toNat < f.stop), pc := (r.pc + d).toNat } }

/-- The value of a queue's register. -/
def regOf (q : Queue) (k : Fin 16) : Nat := (q.regs.getD k.val 0).toNat

/-- The queue `q` with a register written. -/
def withReg (q : Queue) (k : Fin 16) (x : Nat) : Queue := { q with regs := q.regs.set k.val (BitVec.ofNat 64 x) }

/-- The window an instruction of the run names. -/
def windowOfRun (q : Queue) (r : ProgRun) (k : Fin 8) : Option Window := (lookup q.slots r.prog).bind (fun p => p.windows[k.val]?)

/-- R150: an access of `size` bytes at `off` of a window lies inside it and is aligned. -/
def windowFits (w : Window) (off size align : Nat) : Prop := off + size ≤ w.len ∧ (w.base + off) % align = 0

/-- The instructions of queue programs, with these operands (R150). -/
def busoronOf (a : QA) (k : QK) (m : QM) (j : QJ) (x : Fin 16) : List Instr :=
  [.qli k, .qlis k, .qadd a, .qsub a, .qand a, .qor a, .qxor a, .qshl a, .qshr a, .qmul a, .qminu a, .qmaxu a, .qaddi k, .qandi k, .qshli k, .qshri k,
   .qld m, .qst m, .qldp m, .qstp m, .qbeq j, .qbne j, .qbltu j, .qbgeu j, .qjmp j, .qrep k, .qbucket a, .qact, .qnvme m, .qdone, .qpass, .qhold, .qfail x]

end Sys2Proof.Claims
end

