-- ==== Sys2Proof/Certificates/Slice0/Obligations.lean ====
section
/-! DEFINITION. Certificates/Slice0/Obligations: the statements about the model. -/

open Sys2Proof Sys2Proof.Machine Sys2Proof.Claims

/-! ### Integer instructions -/

/-- R213: `add`, `sub`, `mul`, `mad`, `abs` and `neg` compute per element, exactly, and then wrap, or clamp with SAT. -/
def Obligations.ElementArithmetic : Prop :=
  ∀ (s : State) (is : Issue) (o : VOps), Issues s o.pred o.neg is → unchained o →
    ∀ p ∈ [(Instr.add o, fun x y (_ : Int) => x + y), (.sub o, fun x y _ => x - y), (.mul o, fun x y _ => x * y), (.mad o, fun x y z => x * y + z),
        (.abs o, fun x _ _ => (x.natAbs : Int)), (.neg o, fun x _ _ => -x)],
      WellFormed p.1 = true →
        let exact := fun l k => p.2 (elemNumber o.ty (opA is o l) k) (elemNumber o.ty (opB is o l) k) (elemNumber o.ty (opC is o l) k)
        ∃ val flags, Gives p.1 s is o.d o.ty.wide (o.ty == .i32) val flags ∧
          (∀ l, acts is l → ∀ k < o.ty.elems, elemBits o.ty (val l) k = elemOf o.ty o.sat (exact l k)) ∧
          ((∃ l, acts is l ∧ ∃ k < o.ty.elems, clamps o.ty o.sat (exact l k)) → flags = fSAT) ∧
          (¬ (∃ l, acts is l ∧ ∃ k < o.ty.elems, clamps o.ty o.sat (exact l k)) → flags = 0)

/-- R214, R215: `mulhi` gives the upper half of the exact product; `div` and `rem` start a long-latency result: quotient truncated toward zero and remainder, with the corners of R215. -/
def Obligations.HighProductAndDivision : Prop :=
  ∀ (s : State) (is : Issue) (o : VOps), Issues s o.pred o.neg is → unchained o →
    let x := fun l => elemNumber o.ty (opA is o l) 0
    let y := fun l => elemNumber o.ty (opB is o l) 0
    let w := tyBits o.ty
    (WellFormed (.mulhi o) = true → ∃ val, Gives (.mulhi o) s is o.d o.ty.wide (o.ty == .i32) val 0 ∧
      ∀ l, acts is l → elemBits o.ty (val l) 0 = BitVec.ofInt w (x l * y l / (2 ^ w : Int))) ∧
    (WellFormed (.div o) = true → ∃ val flag, Starts (.div o) s is o.d o.ty.wide (o.ty == .i32) o.look.toNat val (orLanes is flag) ∧
      ∀ l, acts is l →
        (y l = 0 → elemBits o.ty (val l) 0 = BitVec.allOnes w ∧ flag l = fDZ) ∧
        (y l ≠ 0 → (x l).tdiv (y l) ≤ greatestOf o.ty → elemBits o.ty (val l) 0 = BitVec.ofInt w ((x l).tdiv (y l)) ∧ flag l = 0) ∧
        (y l ≠ 0 → greatestOf o.ty < (x l).tdiv (y l) → elemBits o.ty (val l) 0 = BitVec.ofInt w (if o.sat then greatestOf o.ty else leastOf o.ty) ∧
          flag l = if o.sat then fSAT else 0)) ∧
    (WellFormed (.rem o) = true → ∃ val flag, Starts (.rem o) s is o.d o.ty.wide (o.ty == .i32) o.look.toNat val (orLanes is flag) ∧
      ∀ l, acts is l →
        (y l = 0 → elemBits o.ty (val l) 0 = BitVec.ofInt w (x l) ∧ flag l = fDZ) ∧
        (y l ≠ 0 → (x l).tdiv (y l) ≤ greatestOf o.ty → elemBits o.ty (val l) 0 = BitVec.ofInt w (x l - (x l).tdiv (y l) * y l) ∧ flag l = 0) ∧
        (y l ≠ 0 → greatestOf o.ty < (x l).tdiv (y l) → elemBits o.ty (val l) 0 = 0 ∧ flag l = 0))

/-- R216, R217: `min` and `max` per element; the logic and shift instructions on the operand's bits, a shift by the width or more giving 0 or copies of the top bit. None sets a flag. -/
def Obligations.MinMaxLogicAndShifts : Prop :=
  ∀ (s : State) (is : Issue) (o : VOps), Issues s o.pred o.neg is → unchained o →
    let w := tyBits o.ty
    let a := fun l => BitVec.ofNat w (opA is o l)
    let b := fun l => BitVec.ofNat w (opB is o l)
    let amt := fun l => opValue is o.b false (immValue o.ty o.imm) l
    (∀ p ∈ [(Instr.min o, fun x y : Int => min x y), (.max o, fun x y => max x y)],
      WellFormed p.1 = true → ∃ val, Gives p.1 s is o.d o.ty.wide (o.ty == .i32) val 0 ∧
        ∀ l, acts is l → ∀ k < o.ty.elems,
          elemNumber o.ty (val l) k = p.2 (elemNumber o.ty (opA is o l) k) (elemNumber o.ty (opB is o l) k)) ∧
    (∀ p ∈ [(Instr.and o, fun l => a l &&& b l), (.or o, fun l => a l ||| b l), (.xor o, fun l => a l ^^^ b l), (.andn o, fun l => a l &&& ~~~(b l)),
        (.shl o, fun l => a l <<< amt l), (.shr o, fun l => a l >>> amt l), (.sar o, fun l => (a l).sshiftRight (amt l)),
        (.rot o, fun l => (a l).rotateLeft (amt l))],
      WellFormed p.1 = true → ∃ val, Gives p.1 s is o.d o.ty.wide (o.ty == .i32) val 0 ∧ ∀ l, acts is l → BitVec.ofNat w (val l) = p.2 l)

/-- R218, R219: counts, reversal and bit fields. -/
def Obligations.CountsAndBitFields : Prop :=
  ∀ (s : State) (is : Issue) (o : VOps), Issues s o.pred o.neg is → unchained o →
    let w := tyBits o.ty
    let a := fun l => BitVec.ofNat w (opA is o l)
    let pos := fun x : Nat => x % 32
    let len := fun x : Nat => min (x / 256 % 64) (32 - x % 32)
    let mask := fun x : Nat => ((1#32 <<< len x) - 1) <<< pos x
    (WellFormed (.clz o) = true → ∃ val, Gives (.clz o) s is o.d false false val 0 ∧
      ∀ l, acts is l → val l ≤ w ∧ (∀ k, w - val l ≤ k → (a l).getLsbD k = false) ∧ (val l < w → (a l).getLsbD (w - 1 - val l) = true)) ∧
    (WellFormed (.popc o) = true → ∃ val, Gives (.popc o) s is o.d false false val 0 ∧
      ∀ l, acts is l → val l = ((List.range w).filter (fun k => (a l).getLsbD k)).length) ∧
    (WellFormed (.brev o) = true → ∃ val, Gives (.brev o) s is o.d o.ty.wide false val 0 ∧
      ∀ l, acts is l → BitVec.ofNat w (val l) = (a l).reverse) ∧
    (WellFormed (.bfe o) = true → ∃ val, Gives (.bfe o) s is o.d false (o.ty == .i32) val 0 ∧
      ∀ l, acts is l →
        let c := opB is o l
        let f := (BitVec.ofNat 32 (opA is o l) &&& mask c) >>> pos c
        BitVec.ofNat 32 (val l) = if 0 < len c ∧ o.ty = .i32 then (f.setWidth (len c)).signExtend 32 else f) ∧
    (WellFormed (.bfi o) = true → ∃ val, Gives (.bfi o) s is o.d false false val 0 ∧
      ∀ l, acts is l →
        let c := opC is o l
        BitVec.ofNat 32 (val l) = (BitVec.ofNat 32 (opA is o l) &&& ~~~(mask c)) ||| ((BitVec.ofNat 32 (opB is o l) <<< pos c) &&& mask c))

/-- R220 (integer conditions) to R223, R99 and R100: `cmp`, `sel`, `mov` (to `lsp` and `gs` too, to the latter once nothing that merges flags is in flight), `lea` and `movi`. -/
def Obligations.CompareSelectAndMove : Prop :=
  ∀ (s : State) (is : Issue),
    (∀ o : VOps, Issues s o.pred o.neg is → unchained o → WellFormed (.cmp o) = true → o.ty ≠ .f32 →
      let x := fun l => elemNumber o.ty (opA is o l) 0
      let y := fun l => elemNumber o.ty (opB is o l) 0
      ∃ val, Gives (.cmp o) s is o.d false false val 0 ∧
        ∀ l, acts is l → (val l ≠ 0 ↔ condHolds o.cond (x l) (y l))) ∧
    (∀ o : VOps, Issues s o.pred o.neg is → unchained o → WellFormed (.sel o) = true → ∀ n, o.c = .p n →
      ∃ val, Gives (.sel o) s is o.d o.ty.wide false val 0 ∧
        ∀ l, acts is l → val l = if (is.g.pred n.val).has l then opA is o l else opB is o l) ∧
    (∀ o : VOps, Issues s o.pred o.neg is → unchained o → WellFormed (.mov o) = true → o.d.isV || o.d.isS →
      Gives (.mov o) s is o.d o.ty.wide false (opA is o) 0) ∧
    (∀ o : VOps, Issues s o.pred o.neg is → unchained o → WellFormed (.mov o) = true → o.d = .lsp →
      ∃ x, Leaves (.mov o) s is { is.g with regs := { is.g.regs with lsp := x } } ∧ ∀ l < is.g.width,
        if is.gd.has l then x.get l = BitVec.ofNat 64 (opA is o l) else (is.g.live.has l = true → x.get l = is.g.regs.lsp.get l)) ∧
    (∀ o : VOps, Issues s o.pred o.neg is → unchained o → WellFormed (.mov o) = true → o.d = .gs → ∀ n, o.a = .s n →
      (∀ x ∈ s.matops, x.2.group ≠ is.key) → (∀ x ∈ s.gateops, x.2.group ≠ is.key) → (∀ x ∈ s.jobs, x.2.group ≠ is.key) →
      Leaves (.mov o) s is { is.g with regs := { is.g.regs with
        gs := if is.gd = 0 then is.g.regs.gs else ((is.g.sreg n.val).extractLsb' 0 10).zeroExtend 64 } }) ∧
    (∀ o : VOps, Issues s o.pred o.neg is → unchained o → WellFormed (.lea o) = true →
      ∃ val, Gives (.lea o) s is o.d true false val 0 ∧
        ∀ l, acts is l → BitVec.ofNat 64 (val l) = BitVec.ofNat 64 (opValue is o.a true 0 l) +
          ((BitVec.ofNat 32 (opValue is o.b false 0 l)).signExtend 64 <<< o.imm.toNat)) ∧
    (∀ o : IOps, Issues s o.pred o.neg is → WellFormed (.movi o) = true →
      ∃ val, Gives (.movi o) s is o.d o.ty.wide (o.ty == .i32) val 0 ∧
        ∀ l, acts is l → if o.ty = .i64 then BitVec.ofNat 64 (val l) = o.imm.signExtend 64
          else if o.ty = .n64 then BitVec.ofNat 64 (val l) = o.imm.zeroExtend 64 else BitVec.ofNat 32 (val l) = o.imm.setWidth 32)

/-! ### Floating-point instructions -/

/-- R224 to R226, R229, R230: the short floating-point instructions give, per element, the correctly rounded result of their operation and its flags. -/
def Obligations.FloatElements : Prop :=
  ∀ (s : State) (is : Issue) (o : VOps), Issues s o.pred o.neg is → unchained o →
    let m := tyFmt o.ty
    let x := fun l k => elemDatum o.ty (opA is o l) k
    let y := fun l k => elemDatum o.ty (opB is o l) k
    let z := fun l k => elemDatum o.ty (opC is o l) k
    let a := fun l k => (elemBits o.ty (opA is o l) k).toNat
    let b := fun l k => (elemBits o.ty (opB is o l) k).toNat
    (∀ p ∈ [(Instr.fadd o, fun l k => m.add o.rnd (x l k) (y l k)), (.fsub o, fun l k => m.sub o.rnd (x l k) (y l k)),
        (.fmul o, fun l k => m.mul o.rnd (x l k) (y l k)), (.fma o, fun l k => m.fma o.rnd (x l k) (y l k) (z l k)),
        (.fmin o, fun l k => m.minmax true (a l k) (b l k)), (.fmax o, fun l k => m.minmax false (a l k) (b l k)),
        (.fround o, fun l k => m.integral o.rnd (a l k))],
      WellFormed p.1 = true → ∃ val, Gives p.1 s is o.d false false val
          (orLanes is (fun l => (List.range o.ty.elems).foldl (fun f k => f ||| (p.2 l k).2) 0)) ∧
        ∀ l, acts is l → ∀ k < o.ty.elems, (elemBits o.ty (val l) k).toNat = (p.2 l k).1 % 2 ^ tyBits o.ty) ∧
    (WellFormed (.fscale o) = true → ∃ val flag, Gives (.fscale o) s is o.d false false val (orLanes is flag) ∧
      ∀ l, acts is l → (val l, flag l) = binary32.scale o.rnd (binary32.decode (opA is o l))
        (if o.b = .none then o.imm.toInt else (BitVec.ofNat 32 (opB is o l)).toInt)) ∧
    (WellFormed (.fclass o) = true → Gives (.fclass o) s is o.d false false (fun l => (classMask (binary32.decode (opA is o l))).toNat) 0) ∧
    (WellFormed (.fdot2 o) = true → ∃ val flag, Gives (.fdot2 o) s is o.d false false val (orLanes is flag) ∧
      ∀ l, acts is l →
        let c := opValue is o.c false (if o.c = .none then immValue .f32 o.imm else 0) l
        (val l, flag l) = binary32.dot2 o.rnd (x l 0) (y l 0) (x l 1) (y l 1) (binary32.decode c))

/-- R227, R228: the long floating-point instructions start a long-latency result: the correctly rounded function of their operand. -/
def Obligations.FloatFunctions : Prop :=
  ∀ (s : State) (is : Issue) (o : VOps), Issues s o.pred o.neg is → unchained o →
    let x := fun l => binary32.decode (opA is o l)
    let y := fun l => binary32.decode (opB is o l)
    ∀ p ∈ [(Instr.fdiv o, fun l => binary32.div o.rnd (x l) (y l)), (.fsqrt o, fun l => binary32.sqrt o.rnd (x l)),
        (.frcp o, fun l => binary32.recip o.rnd (x l)), (.frsq o, fun l => binary32.rsqrt o.rnd (x l)), (.fexp2 o, fun l => binary32.exp2 o.rnd (x l)),
        (.flog2 o, fun l => binary32.log2 o.rnd (x l)), (.fsin o, fun l => binary32.sinPi o.rnd (x l)), (.fcos o, fun l => binary32.cosPi o.rnd (x l))],
      WellFormed p.1 = true → ∃ val, Starts p.1 s is o.d false false o.look.toNat val (orLanes is (fun l => (p.2 l).2)) ∧
        ∀ l, acts is l → val l % 2 ^ 32 = (p.2 l).1 % 2 ^ 32

/-- R225, R227, R228: a sum of zeros of one sign is that zero, and an exact zero sum of addends of opposite signs is +0, or −0 in mode rd; invalid operations give the canonical NaN and set NV; division of a finite nonzero number by zero gives an infinity and sets DZ. -/
def Obligations.ZerosAndInvalidOperations : Prop :=
  ∀ (m : Fmt) (rnd : Rnd) (neg neg' : Bool) (n : Nat) (e e' : Int),
    m.add rnd (.fin neg 0 e) (.fin neg 0 e) = (m.signBit neg, 0) ∧
    m.add rnd (.fin neg n e) (.fin (!neg) n e) = (m.signBit (rnd == .rd), 0) ∧
    m.add rnd (.inf neg) (.inf (!neg)) = (m.nan, fNV) ∧
    m.mul rnd (.fin neg 0 e) (.inf neg') = (m.nan, fNV) ∧
    m.fma rnd (.fin neg 0 e) (.inf neg') (.fin neg n e') = (m.nan, fNV) ∧
    m.div rnd (.fin neg 0 e) (.fin neg' 0 e') = (m.nan, fNV) ∧
    m.div rnd (.inf neg) (.inf neg') = (m.nan, fNV) ∧
    m.div rnd (.fin neg (n + 1) e) (.fin neg' 0 e') = (m.signBit (neg != neg') + m.infCode, fDZ) ∧
    m.sqrt rnd (.fin true (n + 1) e) = (m.nan, fNV) ∧
    m.rsqrt rnd (.fin neg 0 e) = (m.signBit neg + m.infCode, fDZ) ∧
    m.log2 rnd (.fin neg 0 e) = (m.signBit true + m.infCode, fDZ) ∧
    m.sinPi rnd (.inf neg) = (m.nan, fNV) ∧
    (∀ x, m.add rnd (.nan true) x = (m.nan, fNV)) ∧ m.add rnd (.nan false) (.fin neg n e) = (m.nan, 0)

/-- R220: `cmp` on binary32: a NaN makes every condition false but `.ne` and `.uno`; NV is set by a signalling NaN, and by any NaN where the condition orders. -/
def Obligations.FloatCompare : Prop :=
  ∀ (s : State) (is : Issue) (o : VOps), Issues s o.pred o.neg is → unchained o → WellFormed (.cmp o) = true → o.ty = .f32 →
    let x := fun l => binary32.decode (opA is o l)
    let y := fun l => binary32.decode (opB is o l)
    let nan := fun l => (x l).isNan || (y l).isNan
    ∃ val flag, Gives (.cmp o) s is o.d false false val (orLanes is flag) ∧ ∀ l, acts is l →
      (nan l = true → (val l ≠ 0 ↔ o.cond = 1 ∨ o.cond = 7)) ∧
      (nan l = false → (val l ≠ 0 ↔ condOrdered o.cond ((x l).cmp (y l) = .lt) ((y l).cmp (x l) = .lt))) ∧
      flag l = if (x l).isSig || (y l).isSig || (nan l && 2 ≤ o.cond && o.cond ≤ 5) then fNV else 0

/-! ### Conversion and packing -/

/-- R231 to R237: `cvt`, its plane form, `pk`, `unpk`, `mxun` and `tern`. -/
def Obligations.ConversionAndPacking : Prop :=
  ∀ (s : State) (is : Issue) (o : VOps), Issues s o.pred o.neg is → unchained o →
    (∀ src, cvtST o = some src → WellFormed (.cvt o) = true →
      let a := fun l => opValue is o.a src.wide 0 l
      let b := fun l => opValue is o.b src.wide 0 l
      let conv := fun x k => convertElem o src o.ty (elemBits src x k).toNat
      -- R232: which source element goes to destination element k, if any
      let from_ := fun (l k : Nat) => (if src.elems = 1 then
          (if o.ty.elems = 1 then some (conv (a l) 0)
           else if k = 2 * cvtSEL o then some (conv (a l) 0) else if k = 2 * cvtSEL o + 1 then some (conv (b l) 0) else none)
        else if o.ty.elems = 1 then some (conv (a l) (cvtSEL o))
        else if src.elems = o.ty.elems then some (conv (a l) k)
        else if src.elems = 2 then (if k = 2 * cvtSEL o then some (conv (a l) 0) else if k = 2 * cvtSEL o + 1 then some (conv (a l) 1) else none)
        else some (conv (a l) (2 * cvtSEL o + k)))
      ∃ val, Gives (.cvt o) s is o.d o.ty.wide (o.ty == .i32) val
          (orLanes is (fun l => (List.range o.ty.elems).foldl (fun f k => f ||| ((from_ l k).map (·.2)).getD 0) 0)) ∧
        ∀ l, acts is l → ∀ k < o.ty.elems, elemBits o.ty (val l) k = match from_ l k with
          | some r => BitVec.ofNat (tyBits o.ty) r.1
          | none => elemBits o.ty (opValue is o.d o.ty.wide 0 l) k) ∧
    (∀ n, o.d = .v n → WellFormed (.cvtPlane o) = true → (is.g.width = 16 → cvtP o ≤ 14) →
      let block := fun j => planeBlock o (fun l => opValue is o.a false 0 l) is.gd j
      ∃ val, GivesIn is.ex (.cvtPlane o) s is o.d false false val ((block 0).2 ||| if 32 < is.g.width then (block 1).2 else 0) ∧
        ∀ l < is.g.width, is.ex.has l = true → BitVec.ofNat 32 (val l) = if l < 32 then BitVec.ofNat 32 ((block 0).1.word l) else BitVec.ofNat 32 ((block 1).1.word (l - 32))) ∧
    (WellFormed (.pk o) = true → ∃ val, Gives (.pk o) s is o.d false false val 0 ∧
      ∀ l, acts is l → ∀ k < o.ty.elems, elemBits o.ty (val l) k =
        elemBits o.ty (if k % 2 = 0 then opA is o l else opB is o l) (k / 2 * 2)) ∧
    (WellFormed (.unpk o) = true → ∃ val, Gives (.unpk o) s is o.d false false val 0 ∧
      ∀ l, acts is l →
        let e := elemBits o.ty (opValue is o.a false 0 l) (opValue is o.b false o.imm.toNat l % 2 ^ 32 % o.ty.elems)
        BitVec.ofNat 32 (val l) = if tyFloat o.ty then e.zeroExtend 32 else e.signExtend 32) ∧
    (WellFormed (.mxun o) = true →
      let scale := fun l => opValue is o.b false 0 l % 256
      let nibble := fun l k => e2m1 (opValue is o.a false 0 l / 2 ^ (4 * (o.imm.toNat * o.ty.elems + k)) % 16)
      let rounded := fun l k => (tyFmt o.ty).round o.rnd (nibble l k).1 (nibble l k).2 ((scale l : Int) - 128)
      ∃ val, Gives (.mxun o) s is o.d false false val
          (orLanes is (fun l => if scale l = 255 then 0 else (List.range o.ty.elems).foldl (fun f k => f ||| (rounded l k).2) 0)) ∧
        ∀ l, acts is l → ∀ k < o.ty.elems,
          (elemBits o.ty (val l) k).toNat = (if scale l = 255 then (tyFmt o.ty).nan else (rounded l k).1) % 2 ^ tyBits o.ty) ∧
    (WellFormed (.tern o) = true → ∃ val flag, Gives (.tern o) s is o.d true false val (orLanes is flag) ∧
      ∀ l, acts is l → (∀ k < 8, 5 ≤ k → val l / 2 ^ (8 * k) % 256 = 0) ∧
        let x := opValue is o.a false 0 l / 2 ^ (8 * o.imm.toNat) % 256
        (243 ≤ x → flag l = fRC ∧ ∀ k < 5, val l / 2 ^ (8 * k) % 256 = (tyFmt o.ty).nan) ∧
        (x < 243 → flag l = 0 ∧ ∀ k < 5, val l / 2 ^ (8 * k) % 256 = ternDigit o.ty (x / 3 ^ k % 3)))

/-! ### Instructions that combine lanes -/

/-- R239: reductions and scans in ascending lane order; float sums round once an addition, with its flags, integer sums are exact and wrap, or clamp once with SAT. -/
def Obligations.ReductionsAndScans : Prop :=
  ∀ (s : State) (is : Issue) (o : VOps), Issues s o.pred o.neg is → unchained o →
    let lanes := is.gd.lanes is.g.width
    let a := fun l => opValue is o.a o.ty.wide 0 l
    let x := fun l => elemNumber o.ty (a l) 0
    let least := fun (f : Nat → Nat → FRes) (xs : List Nat) => match xs with
      | [] => (0, (0 : Word))
      | y :: r => r.foldl (fun acc z => ((f acc.1 z).1, acc.2 ||| (f acc.1 z).2)) (soleTerm y)
    (o.ty = .f32 →
      (WellFormed (.redadd o) = true → Gives (.redadd o) s is o.d false false (fun _ => (floatSum o.rnd (lanes.map a)).1) (floatSum o.rnd (lanes.map a)).2) ∧
      (WellFormed (.redmax o) = true → Gives (.redmax o) s is o.d false false (fun _ => (least (binary32.minmax false) (lanes.map a)).1)
        (least (binary32.minmax false) (lanes.map a)).2) ∧
      (WellFormed (.redmin o) = true → Gives (.redmin o) s is o.d false false (fun _ => (least (binary32.minmax true) (lanes.map a)).1)
        (least (binary32.minmax true) (lanes.map a)).2) ∧
      (WellFormed (.scan o) = true → ∃ val, Gives (.scan o) s is o.d false false val (floatSum o.rnd (if o.imm = 1 then 0 :: lanes.map a else lanes.map a)).2 ∧
        ∀ l, acts is l →
        val l = if o.imm = 1 then (floatSum o.rnd (0 :: (before is l).map a)).1 else (floatSum o.rnd ((before is l).map a ++ [a l])).1)) ∧
    (o.ty ≠ .f32 →
      (WellFormed (.redadd o) = true → ∃ val flags, Gives (.redadd o) s is o.d o.ty.wide (tySigned o.ty) val flags ∧
        (∀ l, acts is l → elemBits o.ty (val l) 0 = elemOf o.ty o.sat (lanes.map x).sum) ∧
        (clamps o.ty o.sat (lanes.map x).sum → flags = fSAT) ∧ (¬ clamps o.ty o.sat (lanes.map x).sum → flags = 0)) ∧
      (WellFormed (.redmax o) = true → ∃ val, Gives (.redmax o) s is o.d o.ty.wide (tySigned o.ty) val 0 ∧
        ∀ l, acts is l → (∃ k ∈ lanes, val l = a k) ∧ ∀ k ∈ lanes, x k ≤ elemNumber o.ty (val l) 0) ∧
      (WellFormed (.redmin o) = true → ∃ val, Gives (.redmin o) s is o.d o.ty.wide (tySigned o.ty) val 0 ∧
        ∀ l, acts is l → (∃ k ∈ lanes, val l = a k) ∧ ∀ k ∈ lanes, elemNumber o.ty (val l) 0 ≤ x k) ∧
      (WellFormed (.scan o) = true →
        let sum := fun l => ((before is l).map x).sum + if o.imm = 1 then 0 else x l
        ∃ val flags, Gives (.scan o) s is o.d false (tySigned o.ty) val flags ∧ (∀ l, acts is l → elemBits o.ty (val l) 0 = elemOf o.ty o.sat (sum l)) ∧
          ((∃ l, acts is l ∧ clamps o.ty o.sat (sum l)) → flags = fSAT) ∧ (¬ (∃ l, acts is l ∧ clamps o.ty o.sat (sum l)) → flags = 0)))

/-- R241, R242: `topk` inserts its participants' entries, ascending, into the list at c; `topm` merges the list at b into the list at a; NV tells of a NaN score. No register changes. -/
def Obligations.TopListsTakeEntries : Prop :=
  ∀ (s : State) (is : Issue) (o : VOps) (k : Nat) (list : List Scored), Issues s o.pred o.neg is → unchained o → is.gd ≠ 0 →
    let updates := fun (i : Instr) (at_ : Nat) (x : List Scored × Bool) => exec i s =
      .next (became (writeList s is at_ x.1) is (moved is { is.g with regs := { is.g.regs with gs := is.g.regs.gs ||| (if x.2 then fNV else 0).zeroExtend 64 } }))
    mustWait s is.key .ar true = false →
    (WellFormed (.topk o) = true → checkList s is (opValue is o.c false 0 0) = .ok k list →
      updates (.topk o) (opValue is o.c false 0 0)
        (insertAll k list ((is.gd.lanes is.g.width).map (fun l => (opValue is o.a false 0 l, opValue is o.b false 0 l))))) ∧
    (WellFormed (.topm o) = true → checkList s is (opValue is o.a false 0 0) = .ok k list → ∀ k' src, checkList s is (opValue is o.b false 0 0) = .ok k' src →
      updates (.topm o) (opValue is o.a false 0 0) (insertAll k list src))

/-- R241, R242: inserting keeps a list within its capacity, sorted ascending by score with ties broken by the lower id, and free of NaN scores. -/
def Obligations.TopListsStaySorted : Prop :=
  ∀ (k : Nat) (list xs : List Scored),
    let sorted := fun (l : List Scored) => l.Pairwise (fun x y => ¬ precedes y x) ∧ l.length ≤ k ∧ ∀ x ∈ l, (binary32.decode x.1).isNan = false
    sorted list → sorted (insertAll k list xs).1 ∧ ((insertAll k list xs).2 = true ↔ ∃ x ∈ xs, (binary32.decode x.1).isNan = true)

/-- R240: `dist` starts a long-latency result: for each participant the distance of its row and its query, where both identifiers are valid and fit and every element it reads lies in memory. -/
def Obligations.DistancesOfRows : Prop :=
  ∀ (s : State) (is : Issue) (o : VOps), Issues s o.pred o.neg is → unchained o → WellFormed (.dist o) = true →
    let r := s.tid is.g.ctx (o.imm.extractLsb' 0 8).toNat
    let q := s.tid is.g.ctx (o.imm.extractLsb' 8 8).toNat
    let row := fun l => opValue is o.a false 0 l
    let query := fun l => opValue is o.b false 0 l
    let past := fun l => tidExtent r 1 ≤ row l ∨ tidExtent q 1 ≤ query l
    let elems := fun (t : List Dword) l i => (rowElems t i).map (elemValue s is l (fmtBytes (tidFmt t)) (tidFmt t))
    tidCode r false = 0 → tidCode q false = 0 → distFits r q = true →
    mustWait s is.key .plain false = false →
    (∀ l, acts is l → ¬ past l → ∀ x ∈ [(r, row l), (q, query l)], ∀ a ∈ rowElems x.1 x.2, ∃ p key,
      elemAccess s is l (fmtBytes (tidFmt x.1)) a = .ok p ∧ readAt s p key) →
    ∃ pend seq dups tlb val flag, (if is.gd = 0 then pend = [] else resultsFor is o.d false false o.look.toNat val (orLanes is flag) pend) ∧
      exec (.dist o) s = .next (becameBut s is { moved is is.g with pend := pend, nextSeq := seq, integrity := { is.g.integrity with dups := dups } } tlb) ∧
      ∀ l, acts is l → (past l → val l = binary32.nan ∧ flag l = fNV) ∧
        (¬ past l →
          let d := distance (o.imm.getLsbD 16) ((elems r l (row l)).zip (elems q l (query l))) 0 0
          (val l, flag l) = (if o.imm.getLsbD 16 then negCode d.1 else d.1, d.2))

/-! ### Lanes and chains -/

/-- R205, R110: `vote`, `ballot`, `shfl`, `lanes`, `chst` and `shape` over the participants of an issue. R239: a reduction and a scan with no chain operand complete in one issue, with nothing left on its way. -/
def Obligations.LaneInstructions : Prop :=
  ∀ (s : State) (is : Issue) (o : VOps), Issues s o.pred o.neg is →
    (∀ n, o.a = .p n → WellFormed (.vote o) = true → ∃ val, Gives (.vote o) s is o.d false false val 0 ∧ ∀ l, acts is l →
      (val l ≠ 0 ↔
        (o.imm = 0 ∧ ∃ k, acts is k ∧ (is.g.pred n.val).has k = true) ∨ (o.imm = 1 ∧ ∀ k, acts is k → (is.g.pred n.val).has k = true) ∨
        (o.imm = 2 ∧ ((∀ k, acts is k → (is.g.pred n.val).has k = true) ∨ ∀ k, acts is k → (is.g.pred n.val).has k = false)))) ∧
    (∀ n, o.a = .p n → WellFormed (.ballot o) = true → Gives (.ballot o) s is o.d true false (fun _ => (is.gd &&& is.g.pred n.val).toNat) 0) ∧
    (WellFormed (.shfl o) = true → ∃ val, Gives (.shfl o) s is o.d false false val 0 ∧ ∀ l, acts is l →
      let x := opValue is o.b false 0 l
      let k := if o.imm = 0 then x else if o.imm = 1 then (if x ≤ l then l - x else 64) else if o.imm = 2 then l + x else l ^^^ x
      val l = if k < is.g.width ∧ is.gd.has k = true then opValue is o.a false 0 k else opValue is o.a false 0 l) ∧
    (WellFormed (.lanes o) = true → Gives (.lanes o) s is o.d false false (fun l => l) 0) ∧
    (∀ n c d, o.a = .v n → chainSlot is.l n.val = some (c, d) → WellFormed (.chst o) = true →
      Gives (.chst o) s is o.d false false (fun l => if o.imm = 0 then (is.l.chainItem c (is.g.item l)).reads
        else if o.imm = 1 then (is.l.chainItem c (is.g.item l)).pubs.length else unconsumed s is.g.launch is.l c d.maxk (is.g.item l)) 0) ∧
    (∀ n, o.a = .v n → WellFormed (.shape o) = true →
      Gives (.shape o) s is o.d false false (fun _ => match is.g.regs.v.getD n.val (.u 0) with
        | .u _ => 0
        | .a _ _ => 1
        | .g _ => 2) 0) ∧
    (∀ i ∈ [Instr.redadd o, .redmax o, .redmin o, .scan o], unchained o → WellFormed i = true →
      ∃ g, exec i s = .next (became s is g) ∧ g.pend = [] ∧ g.lanes = is.g.lanes ∧ g.regs.lpc = stepped is is.ex)

/-- R181 to R186, on `add`: a chain operand gives each guarded lane its item's next read of the chain register, and that read is made; a lane whose value has not come waits, and nothing of it commits. With `!` each lane's result becomes its item's next publication, where there is room; an instruction that reads what it publishes takes its lanes in ascending order, each reading what the lanes below have published. CHAIN_BAD where no slot declares the register, the distance is beyond the slot's, a handler runs or a count would pass 65,535; a publication waits for its items' accesses to peers. `pub` appends each participant's register to its item's publications; a lane in `chainwait` whose value or room has come runs again. R90: a long-latency result that arrives is written at once where its windows are closed, and its flags are merged; while a window is open the register keeps its old value. That CHAIN_BAD comes whatever the guard, with every executing lane as trap lane, is the model's choice (logs 30 and 32), as is the hold of a publication for its peers (log 5). -/
def Obligations.ArrivingValues : Prop :=
  (∀ (s : State) (is : Issue) (o : VOps) (n : Fin 128) (c : Nat) (d : ChainDecl), Issues s o.pred o.neg is → WellFormed (.add o) = true →
    (o.ty = .i32 ∨ o.ty = .n32) → o.sat = false → o.kb = 0 → o.kc = 0 → (o.ka ≠ 0 → o.a = .v n) → chainSlot is.l n.val = some (c, d) →
    let k := o.ka.toNat
    let ks := if k = 0 then 0 else 1
    -- the value that a lane's next read gives, of a launch
    let got := fun (la : Launch) l => if k = 0 then some (BitVec.ofNat 32 (opA is o l))
      else chainValue s is.g.launch la c (is.g.item l + 1) (is.g.item l) k (readsOf is c l + 1)
    let val := fun la l => (got la l).getD 0 + BitVec.ofNat 32 (opB is o l)
    let blocked := is.g.handler = none ∧ k ≤ d.maxk
    (blocked → o.pub = false → k ≠ 0 → (∀ l, acts is l → readsOf is c l < 65535) → ∀ nd, o.d = .v nd →
      ∃ la wait, (∀ l, wait.has l = true ↔ acts is l ∧ got is.l l = none) ∧ advanced is c (is.gd &&& ~~~wait) 1 (fun _ => []) la ∧
        Chains (.add o) s is nd.val wait (fun l => .read l c k (readsOf is c l + 1)) (val is.l) la) ∧
    (blocked → o.pub = true → o.d = .v n → (is.gd = 0 ∨ mustWait s is.key .rel true = false) →
      (∀ l, acts is l → readsOf is c l + ks ≤ 65535 ∧ (pubsOf is c l).length < 65535) →
      ∃ la wait, (∀ l, wait.has l = true ↔ acts is l ∧ (got la l = none ∨ 8 ≤ unconsumed s is.g.launch is.l c d.maxk (is.g.item l))) ∧
        advanced is c (is.gd &&& ~~~wait) ks (fun l => [val la l]) la ∧
        Chains (.add o) s is n.val wait (fun l => if got la l = none then .read l c k (readsOf is c l + 1) else .room l c) (val la) la) ∧
    (o.pub = true → o.d = .v n → blocked → (∀ l, acts is l → readsOf is c l + ks ≤ 65535 ∧ (pubsOf is c l).length < 65535) → is.gd ≠ 0 →
      mustWait s is.key .rel true = true → exec (.add o) s = is.finish (.hold s)) ∧
    (o.ka ≠ 0 → (d.maxk < k ∨ is.g.handler.isSome = true) → exec (.add o) s = is.conclude s (.trap s 12 0 0 is.ex)) ∧
    (blocked → o.pub = false → o.ka ≠ 0 → ∀ l, acts is l → 65535 ≤ readsOf is c l →
      ∃ lanes, exec (.add o) s = is.conclude s (.trap s 12 0 0 lanes) ∧ ∀ j, lanes.has j = true ↔ acts is j ∧ 65535 ≤ readsOf is c j)) ∧
  (∀ (s : State) (is : Issue) (o : VOps) (n : Fin 128), Issues s o.pred o.neg is → WellFormed (.add o) = true → chainSlot is.l n.val = none →
    (o.ka ≠ 0 ∧ o.a = .v n ∨ o.kb ≠ 0 ∧ o.b = .v n ∨ o.pub = true ∧ o.d = .v n) → exec (.add o) s = is.conclude s (.trap s 12 0 0 is.ex)) ∧
  (
    (∀ (s : State) (is : Issue) (o : VOps) (n : Fin 128) (c : Nat) (d : ChainDecl), Issues s o.pred o.neg is → WellFormed (.pub o) = true → o.d = .v n →
      chainSlot is.l n.val = some (c, d) → is.g.handler = none →
      (∀ l, acts is l → (is.l.chainItem c (is.g.item l)).pubs.length < 65535 ∧ unconsumed s is.g.launch is.l c d.maxk (is.g.item l) < 8) →
      ∃ la, exec (.pub o) s = .next { became s is (moved is is.g) with launches := insert s.launches is.g.launch la } ∧
        (∀ l, acts is l → la.chainItem c (is.g.item l) =
          { is.l.chainItem c (is.g.item l) with pubs := (is.l.chainItem c (is.g.item l)).pubs ++ [is.g.vlane n.val l] }) ∧
        (∀ key, (∀ l, acts is l → key ≠ chainKey c (is.g.item l)) → lookup la.chain key = lookup is.l.chain key) ∧
        { la with chain := [] } = { is.l with chain := [] }) ∧
    (∀ (s : State) (core slot : Nat) (g : Group) (l : Launch), s.group (groupKey core slot) = some g → lookup s.launches g.launch = some l → g.halted = false →
      ∃ g', exec (.chainValueArrival core slot) s = .next (s.setGroup (groupKey core slot) g') ∧
        ∀ k < 64, k < g.width → g'.lane k = if g.lane k = .chainwait ∧ (∀ h, g.handler = some h → h.lanes.has k = true) ∧
          (∀ w ∈ g.chainWaits, w.1 = k → chainCame s g l w.2 = true) then .run else g.lane k)) ∧
  (∀ (s : State) (core slot : Nat) (g : Group) (p : Pend), s.group (groupKey core slot) = some g → g.pend = [p] → p.arrived = false → p.missing = 0 →
      g.integrity.bad = [] → g.staged = [] →
      ∃ env, exec (.longLatencyResult core slot) s = .next { s.setGroup (groupKey core slot)
          { g with
            pend := if p.left.all (· == 0) then [] else [{ p with arrived := true }]
            regs := { g.regs with
              v := if p.left.all (· == 0) ∧ p.scalar = false then g.regs.v.set p.reg p.vec else g.regs.v
              s := if p.left.all (· == 0) ∧ p.scalar = true then g.regs.s.set p.reg p.sca else g.regs.s
              gs := g.regs.gs ||| p.flags.zeroExtend 64 } } with env := env })

/-! ### Rejoin sets -/

/-- R203, R176: `jenter`, `jquit`, `jwait`, `jget`, `jsave` and `jrest` change one rejoin set, its lanes and nothing else; when every member of a set has arrived its waiting lanes run again. -/
def Obligations.RejoinSets : Prop :=
  (∀ (s : State) (is : Issue) (o : VOps) (n : Fin 8), Issues s o.pred o.neg is →
    let x := is.g.jset n.val
    let setTo := fun (y : JSet) (g : Group) => { g with regs := { g.regs with j := g.regs.j.set n.val y } }
    (o.a = .j n → WellFormed (.jenter o) = true → ∀ d, (∀ l, acts is l → is.g.depth l = d) → x.members = 0 ∨ x.entry = d → is.gd ≠ 0 →
      Leaves (.jenter o) s is (setTo { x with members := x.members ||| is.gd, entry := d } is.g)) ∧
    (o.a = .j n → WellFormed (.jquit o) = true →
      Leaves (.jquit o) s is (completeSet (setTo ⟨x.members &&& ~~~is.gd, x.arrived &&& ~~~is.gd,
        if x.members &&& ~~~is.gd = 0 then 0 else x.entry⟩ is.g) n.val)) ∧
    (o.a = .j n → WellFormed (.jwait o) = true → is.gd ≠ 0 → is.gd.within x.members = true →
      let there := setTo { x with arrived := x.arrived ||| is.gd } is.g
      (x.arrived ||| is.gd = x.members → Leaves (.jwait o) s is (completeSet there n.val)) ∧
      (x.arrived ||| is.gd ≠ x.members → deadlocked (there.setLanes is.gd .wait) = false → Leaves (.jwait o) s is (there.setLanes is.gd .wait))) ∧
    (o.a = .j n → WellFormed (.jget o) = true → Gives (.jget o) s is o.d true false
      (fun _ => if o.imm = 0 then x.members.toNat else if o.imm = 1 then x.arrived.toNat else x.entry) 0) ∧
    (o.a = .j n → WellFormed (.jsave o) = true → ∀ k, o.d = .s k → ∃ dups,
      Leaves (.jsave o) s is (setTo {} { is.g with
        regs := { is.g.regs with s := setFrom is.g.regs.s k.val [x.members, x.arrived, BitVec.ofNat 64 x.entry] }, integrity := { is.g.integrity with dups := dups } })) ∧
    (o.d = .j n → WellFormed (.jrest o) = true → ∀ k, o.a = .s k →
      let m := is.g.sreg k.val
      let a := is.g.sreg (k.val + 1)
      let e := (is.g.sreg (k.val + 2)).toNat
      imageBad is.g n.val m a e = false →
      Leaves (.jrest o) s is (completeSet (setTo { members := m &&& is.g.live, arrived := a &&& is.g.live, entry := e } is.g) n.val)) ∧
    (is.gd = 0 → ∀ i ∈ [Instr.jenter o, .jwait o], WellFormed i = true → Leaves i s is is.g)) ∧
  (∀ (g : Group) (n : Nat),
    let x := g.regs.j.getD n {}
    (x.members ≠ 0 → x.arrived = x.members →
      (completeSet g n).regs.j = g.regs.j.set n { x with arrived := 0 } ∧
      ∀ l < 64, l < g.width → (completeSet g n).lane l = if x.members.has l ∧ g.lane l = .wait then .run else g.lane l) ∧
    ((x.members = 0 ∨ x.arrived ≠ x.members) → completeSet g n = g))

/-! ### System instructions -/

/-- R108, R173, R199: `nop`, `rsp`, `wsp`, `rgn`, `pause` and the end of a pause. Which lanes count as others of a `pause` is the model's choice (log 62), as is the end of a pause as an instant (log 39). -/
def Obligations.SystemInstructions : Prop :=
  (∀ (s : State) (is : Issue) (o : SOps), Issues s o.pred o.neg is →
    (WellFormed (.nop o) = true → Leaves (.nop o) s is is.g) ∧
    (WellFormed (.rsp o) = true → Gives (.rsp o) s is o.d true false (fun l => (is.g.regs.lsp.get l + o.imm.signExtend 64).toNat) 0) ∧
    (WellFormed (.wsp o) = true → (∀ l, acts is l → stackOk is.l (is.g.regs.lsp.get l + o.imm.signExtend 64) 0 = true) →
      ∃ x, Leaves (.wsp o) s is { is.g with regs := { is.g.regs with lsp := x } } ∧ ∀ l < is.g.width,
        if is.gd.has l then x.get l = is.g.regs.lsp.get l + o.imm.signExtend 64 else (is.g.live.has l = true → x.get l = is.g.regs.lsp.get l)) ∧
    (WellFormed (.rgn o) = true → is.gd ≠ 0 → ∃ staged, Leaves (.rgn o) s is { is.g with staged := staged } ∧
      (o.d = .none → staged = []) ∧
      ∀ b, o.d = .v b →
        let cost := fun r => (is.g.regs.v.getD r (.u 0)).cost is.g.width
        let named := ((List.range 48).filter (fun k => o.imm.getLsbD k)).map (b.val + ·)
        (∀ x ∈ staged, x.reg ∈ named ∧ x.dirty = false) ∧ (staged.map (fun x => cost x.reg)).sum ≤ 512 ∧
        ((named.map cost).sum ≤ 512 → staged.map (·.reg) = named)) ∧
    (WellFormed (.pause o) = true → is.gd ≠ 0 →
      let others := ∃ l < is.g.width, is.g.lane l = .run ∧ (∀ h, is.g.handler = some h → h.lanes.has l = true ∧ h.tret.has l = false) ∧
        is.gd.has l = false ∧ l < 64
      let waiting := (is.gd.lanes is.g.width).map (fun l => ({ lane := l, issued := 0 } : Yield))
      (others → Leaves (.pause o) s is { is.g with yields := waiting, pausedUntil := s.clk + o.imm.toNat % 4096 }) ∧
      (¬ others → Leaves (.pause o) s is { is.g with yields := [], pausedUntil := s.clk + o.imm.toNat % 4096 })) ∧
    (is.gd = 0 → ∀ i ∈ [Instr.rgn o, .pause o, .trap o], WellFormed i = true → Leaves i s is is.g)) ∧
  (∀ (s : State) (core slot : Nat) (g : Group), s.group (groupKey core slot) = some g → g.pausedUntil ≤ s.clk →
    exec (.pauseExpiry core slot) s = .next (s.setGroup (groupKey core slot) { g with pausedUntil := 0 }))

/-! ### Traps -/

/-- R192, R193, R196: taking a fault outside a handler, with s62 an entry point and s63 an aligned area that can be written, saves the group in the area and runs the trap lanes at s62; a fault inside a handler halts the group, whose registers stay. While a plain store of the group would wait for its accesses to peers (R351), the issue holds; that a fault inside a handler waits too is the model's choice (log 64). -/
def Obligations.TrapEntry : Prop :=
  ∀ (s : State) (is : Issue) (code detail faddr : Nat) (lanes : Mask), Issues s 0 false is →
    let g := { is.g with staged := is.g.staged.map (fun x => { x with dirty := false }), inbox := [] }
    (mustWait s is.key .plain true = true → is.conclude s (.trap s code detail faddr lanes) = is.finish (.hold s)) ∧
    (∀ s2 g2, mustWait s is.key .plain true = false → is.g.handler = none → is.g.sreg 62 ≠ 0 → (is.g.sreg 63).toNat % 64 = 0 → (is.g.sreg 63).toNat / 2 ^ 57 = 0 →
      (s.setGroup is.key g).storeVA is.key is.g.ctx (is.g.sreg 63).toNat (trapArea g is.l code detail is.pc faddr lanes is.pc) = .ok s2 →
      s2.group is.key = some g2 →
      ∃ g', is.conclude s (.trap s code detail faddr lanes) = .next { s2 with
          groups := insert s2.groups is.key g', cores := insert s2.cores is.core { s2.core is.core with lastAge := is.g.age } } ∧
        entered g2 lanes code is.pc g') ∧
    (∀ h, mustWait s is.key .plain true = false → is.g.handler = some h →
      ∃ t g', is.conclude s (.trap s code detail faddr lanes) = .next t ∧ t.group is.key = some g' ∧ g'.halted = true ∧ g'.handler = some h ∧ g'.regs = is.g.regs ∧
        g'.lanes = is.g.lanes)

/-- R199, R195: `trap` with a guard that is true takes USER_TRAP, code 32, with its imm16 in DETAIL, on the guarded lanes; they resume at the next slot. `tret` takes its lanes out of the issue; when the last lane of the handler reaches it, the group goes back to what the trap save area holds and the handler ends. Outside a handler it is ILLEGAL_OP. -/
def Obligations.TrapAndReturn : Prop :=
  (∀ (s : State) (is : Issue) (o : SOps) (s2 : State) (g2 : Group), Issues s o.pred o.neg is → WellFormed (.trap o) = true → is.gd ≠ 0 → is.g.handler = none →
      mustWait s is.key .plain true = false →
      is.g.sreg 62 ≠ 0 → (is.g.sreg 63).toNat % 64 = 0 → (is.g.sreg 63).toNat / 2 ^ 57 = 0 →
      let g := { moved is is.g with staged := is.g.staged.map (fun x => { x with dirty := false }) }
      (s.setGroup is.key g).storeVA is.key is.g.ctx (is.g.sreg 63).toNat (trapArea g is.l 32 (o.imm.toNat % 65536) is.pc 0 is.gd (nextPc is.pc)) = .ok s2 →
      s2.group is.key = some g2 →
      ∃ g', exec (.trap o) s = .next { s2 with groups := insert s2.groups is.key g', cores := insert s2.cores is.core { s2.core is.core with lastAge := is.g.age } } ∧
        entered g2 is.gd 32 (nextPc is.pc) g') ∧
  (∀ (s : State) (is : Issue) (o : SOps), Issues s o.pred o.neg is → WellFormed (.tret o) = true →
      (is.g.handler = none → exec (.tret o) s = is.conclude s (.trap s 1 0 0 is.ex)) ∧
      (∀ h, is.g.handler = some h → is.gd ≠ 0 →
        let h' := { h with tret := h.tret ||| is.gd }
        let g := { is.g with handler := some h' }
        (h.lanes.within h'.tret = false → deadlocked g = false →
          exec (.tret o) s = .next (became s is (gone is is.gd (fun l => is.g.regs.lpc.getD l 0) g))) ∧
        (h.lanes.within h'.tret = true → ∀ b s2, areaLines is.key is.g 28 (is.g.sreg 63).toNat s = .got b s2 → areaOk g h' b = true →
          let back := restoreGroup g h' b
          ∃ g' tlb, exec (.tret o) s = .next (becameBut s is g' tlb) ∧ g'.handler = none ∧ g'.lanes = back.lanes ∧ g'.regs.v = is.g.regs.v ∧
            g'.regs.s = is.g.regs.s ∧ g'.regs.p = is.g.regs.p ∧ g'.regs.j = back.regs.j ∧ g'.regs.gs = is.g.regs.gs ∧ g'.regs.lsp = is.g.regs.lsp ∧
            ∀ l < is.g.width, g'.regs.lpc[l]? = some (areaLpc b l))))

/-! ### Branches -/

/-- R201, R88, R95: `bra` and `brx` send the guarded lanes to their targets where each is a slot that may be entered, DEPTH kept; one that is not is BAD_TARGET for the whole instruction, and one in a line whose word fails is BAD_LINE, ahead of it. `call` and `callx` push the next slot's address on each guarded lane's stack, raise DEPTH by one and go to the target; at DEPTH 127 they are STACK faults. -/
def Obligations.JumpsAndCalls : Prop :=
  (∀ (s : State) (is : Issue) (o : BOps), Issues s o.pred o.neg is → ∀ i ∈ [Instr.bra o, .brx o], WellFormed i = true →
      ((∀ l, acts is l → checkTarget s is.g (BOps.target is o l) = .ok) →
        exec i s = .next (became s is (gone is is.gd (fun l => is.g.withPc l (BOps.target is o l)) is.g))) ∧
      (∀ x ∈ [(Target.bad, 3, [Target.ok]), (.badLine, 4, [.ok, .bad])], (∃ l, acts is l ∧ checkTarget s is.g (BOps.target is o l) = x.1) →
        (∀ l, acts is l → checkTarget s is.g (BOps.target is o l) ∈ x.1 :: x.2.2) →
        ∃ lanes : Mask, exec i s = is.conclude s (.trap s x.2.1 0 0 lanes) ∧
          ∀ l < 64, lanes.has l = true ↔ acts is l ∧ checkTarget s is.g (BOps.target is o l) = x.1)) ∧
  (∀ (s : State) (is : Issue) (o : BOps) (p : Nat → Place) (key : Nat → Nat), Issues s o.pred o.neg is → ∀ i ∈ [Instr.call o, .callx o], WellFormed i = true →
      (∀ l, acts is l → checkTarget s is.g (BOps.target is o l) = .ok) →
      (mustWait s is.key .plain true = false → (∀ l, acts is l → is.g.depth l ≠ 127 ∧ stackOk is.l (is.g.regs.lsp.get l) 8 = true ∧
          stackAccess s is .write l (is.g.regs.lsp.get l - 8) = .ok (p l) ∧ plainAt (p l) (key l)) →
        ∃ x tlb held, exec i s = .next { becameHeld s is (gone is is.gd
              (fun l => BitVec.ofNat 64 ((is.g.depth l + 1) * 2 ^ 57 + BOps.target is o l % 2 ^ 57)) { is.g with regs := { is.g.regs with lsp := x } }) tlb held with
            mem := (stored s is is.gd 8 p key (fun _ => nextPc is.pc)).mem, env := (stored s is is.gd 8 p key (fun _ => nextPc is.pc)).env } ∧
          ∀ l < is.g.width, if is.gd.has l then x.get l = is.g.regs.lsp.get l - 8 else (is.g.live.has l = true → x.get l = is.g.regs.lsp.get l)) ∧
      ((∃ l, acts is l ∧ is.g.depth l = 127) →
        ∃ lanes : Mask, exec i s = is.conclude s (.trap s 16 0 0 lanes) ∧ ∀ l, acts is l → is.g.depth l = 127 → lanes.has l = true))

/-- R201, R178, R194: `ret` pops the return address of each guarded lane, lowers DEPTH by one and goes there; at DEPTH 0 it is a STACK fault. `exit` makes the guarded lanes done and takes them out of every set; inside a handler it is ILLEGAL_OP. -/
def Obligations.ReturnsAndExits : Prop :=
  (∀ (s : State) (is : Issue) (o : BOps) (p : Nat → Place) (key : Nat → Nat), Issues s o.pred o.neg is → WellFormed (.ret o) = true →
      let sp := fun l => is.g.regs.lsp.get l
      let back := fun l => Memory.value s.mem (key l) 8
      (mustWait s is.key .plain false = false → (∀ l, acts is l → is.g.depth l ≠ 0 ∧ stackOk is.l (sp l) 0 = true ∧ (sp l).toNat % 2 ^ 57 + 8 ≤ is.l.record.privSz ∧ orphans is.g l = false ∧
          stackAccess s is .read l (sp l) = .ok (p l) ∧ readAt s (p l) (key l) ∧ checkTarget s is.g (back l) = .ok) →
        ∃ x tlb, exec (.ret o) s = .next (becameBut s is (gone is is.gd
              (fun l => BitVec.ofNat 64 ((is.g.depth l - 1) * 2 ^ 57 + back l)) { is.g with regs := { is.g.regs with lsp := x } }) tlb) ∧
          ∀ l < is.g.width, if is.gd.has l then x.get l = sp l + 8 else (is.g.live.has l = true → x.get l = sp l)) ∧
      ((∃ l, acts is l ∧ is.g.depth l = 0) →
        ∃ lanes : Mask, exec (.ret o) s = is.conclude s (.trap s 16 0 0 lanes) ∧ ∀ l, acts is l → is.g.depth l = 0 → lanes.has l = true)) ∧
  (∀ (s : State) (is : Issue) (o : BOps), Issues s o.pred o.neg is → WellFormed (.exit o) = true →
      (is.g.handler.isSome = true → exec (.exit o) s = is.conclude s (.trap s 1 0 0 is.ex)) ∧
      (is.g.handler = none → is.gd = 0 → Leaves (.exit o) s is is.g) ∧
      (is.g.handler = none → is.gd ≠ 0 →
        let g := quitSets (is.g.setLanes is.gd .done) is.gd
        deadlocked g = false →
          exec (.exit o) s = .next (became s is (gone is is.gd (fun l => is.g.regs.lpc.getD l 0) g)) ∧
          ∀ l, acts is l → g.lane l = .done ∧ ∀ x ∈ g.regs.j, x.members.has l = false ∧ x.arrived.has l = false))

/-! ### Memory instructions -/

/-- R249, R254, R255: `ld` and `ldb` start a long-latency result: for each guarded lane the bytes at its address, little-endian, where each address is aligned and resolves to readable memory of this device or the host. -/
def Obligations.Loads : Prop :=
  ∀ (s : State) (is : Issue) (o : MOps) (p : Nat → Place) (key : Nat → Nat), Issues s o.pred o.neg is →
    let n := Size.bytes o.size
    ∀ x ∈ [(Instr.ld o, MOps.address is o), (.ldb o, fun l => MOps.address is o 0 + l * n)], WellFormed x.1 = true →
      (x.1 = .ldb o → blockFits is o.space (MOps.address is o 0) n = true ∧ MOps.address is o 0 % n = 0) →
      (∀ l, acts is l → x.2 l % n = 0 ∧ resolve s is o.space .read (Scope.wide o.scope) l (x.2 l) = .ok (p l) ∧ readAt s (p l) (key l)) →
      mustWait s is.key o.cls false = false →
      (is.gd = 0 → Leaves x.1 s is is.g) ∧
      (is.gd ≠ 0 → ∃ pend dups tlb, loadFor is o.d n o.look.toNat is.gd 0 (fun l => Memory.value s.mem (key l) n) pend ∧
        exec x.1 s = .next (becameBut s is { moved is is.g with
          pend := pend, nextSeq := is.g.nextSeq + 1, integrity := { is.g.integrity with dups := dups } } tlb))

/-- R249, R254, R255: `st` and `stb` store each guarded lane's value, little-endian, in ascending lane order, where each address is aligned and resolves to writable memory; no register changes, and where no other context is on the device no other byte of memory (the D bits of its leaves change under R131). -/
def Obligations.Stores : Prop :=
  ∀ (s : State) (is : Issue) (o : MOps) (p : Nat → Place) (key : Nat → Nat), Issues s o.pred o.neg is →
    let n := Size.bytes o.size
    ∀ x ∈ [(Instr.st o, MOps.address is o), (.stb o, fun l => MOps.address is o 0 + l * n)], WellFormed x.1 = true →
      (x.1 = .stb o → blockFits is o.space (MOps.address is o 0) n = true ∧ MOps.address is o 0 % n = 0) →
      (∀ l, acts is l → x.2 l % n = 0 ∧ resolve s is o.space .write (Scope.wide o.scope) l (x.2 l) = .ok (p l) ∧ plainAt (p l) (key l)) →
      mustWait s is.key o.cls true = false →
      let t := stored s is is.gd n p key (dataOf is o.d n)
      (∃ tlb held, exec x.1 s = .next (becameHeld t is (moved is is.g) tlb held)) ∧
      (∀ a, alone s is.g.ctx → Memory.wf s.mem = true → (∀ l, acts is l → a < key l ∨ key l + n ≤ a) → Memory.read t.mem a = Memory.read s.mem a) ∧
      (∀ l, alone s is.g.ctx → Memory.wf s.mem = true → acts is l → (∀ k, acts is k → l < k → key k + n ≤ key l ∨ key l + n ≤ key k) →
        Memory.value t.mem (key l) n = dataOf is o.d n l % 2 ^ (8 * n))

/-- R252: a memory instruction of which a guarded lane's address is no multiple of the access size is ALIGN for the whole instruction, with the lowest such lane's address in FADDR. -/
def Obligations.MisalignedAccess : Prop :=
  ∀ (s : State) (is : Issue) (o : MOps), Issues s o.pred o.neg is → mustWait s is.key o.cls true = false →
    ∀ i ∈ [Instr.ld o, .st o, .atom o, .red o], WellFormed i = true →
      ∀ l, acts is l → MOps.address is o l % Size.bytes o.size ≠ 0 → (∀ k < l, acts is k → MOps.address is o k % Size.bytes o.size = 0) →
        ∃ lanes : Mask, exec i s = is.conclude s (.trap s 5 0 (MOps.address is o l) lanes) ∧
          ∀ k < 64, lanes.has k = true ↔ acts is k ∧ MOps.address is o k % Size.bytes o.size ≠ 0

/-- R256, R257, R267: `prf` changes nothing; `ctag` gives the slot bound to an address's key, `cins` binds and `cinv` unbinds; `fence` with no access to a peer outstanding only advances. R259, R260: `halloc` completes with a result on its way for its guarded lanes; `hfree` of allocated blocks completes, and they are free. -/
def Obligations.TagsAndFences : Prop :=
  ∀ (s : State) (is : Issue) (o : MOps), Issues s o.pred o.neg is →
    let a := MOps.address is o
    let tags := (s.core is.core).tags
    let leaves := fun (i : Instr) (t : List (Nat × Nat)) => exec i s =
      .next { became s is (moved is is.g) with cores := insert s.cores is.core { s.core is.core with tags := t, lastAge := is.g.age } }
    (WellFormed (.prf o) = true → Leaves (.prf o) s is is.g) ∧
    (WellFormed (.fence o) = true → mustWait s is.key o.cls (o.cls == .acq || o.cls == .ar) = false → Leaves (.fence o) s is is.g) ∧
    (is.gd = 0 → ∀ i ∈ [Instr.ctag o, .cins o, .cinv o], WellFormed i = true → Leaves i s is is.g) ∧
    (is.gd ≠ 0 → (∀ l, acts is l → a l < 2 ^ 57) →
      (WellFormed (.ctag o) = true → mustWait s is.key .plain false = false → ∃ pend dups val, loadFor is o.d 4 o.look.toNat is.gd 0 val pend ∧
        exec (.ctag o) s = .next (became s is { moved is is.g with pend := pend, nextSeq := is.g.nextSeq + 1, integrity := { is.g.integrity with dups := dups } }) ∧
        ∀ l, acts is l → (val l, tagKey (a l)) ∈ tags ∨ (val l = 0xffff ∧ ∀ k, (k, tagKey (a l)) ∉ tags)) ∧
      (WellFormed (.cins o) = true → mustWait s is.key .rel true = false → (∀ l, acts is l → dataOf is o.d 4 l % 2 ^ 32 ≤ 4095) →
        let slot := fun l => dataOf is o.d 4 l % 2 ^ 32
        ∃ t, leaves (.cins o) t ∧
          (∀ l, acts is l → (∀ k, acts is k → l < k → slot k ≠ slot l ∧ tagKey (a k) ≠ tagKey (a l)) →
            lookup t (slot l) = some (tagKey (a l)) ∧ ∀ k ≠ slot l, lookup t k ≠ some (tagKey (a l))) ∧
          (∀ k key, lookup tags k = some key → (∀ l, acts is l → slot l ≠ k ∧ tagKey (a l) ≠ key) → lookup t k = some key)) ∧
      (WellFormed (.cinv o) = true → mustWait s is.key .rel true = false → ∃ t, leaves (.cinv o) t ∧ ∀ x, x ∈ t ↔ x ∈ tags ∧ ∀ l, acts is l → tagKey (a l) ≠ x.2)) ∧
    (WellFormed (.halloc o) = true → mustWait s is.key .plain false = false →
      ∃ t g, exec (.halloc o) s = .next t ∧ t.mem = s.mem ∧ t.group is.key = some g ∧ g.regs = (moved is is.g).regs ∧ (is.gd ≠ 0 → g.pend ≠ [])) ∧
    (WellFormed (.hfree o) = true → mustWait s is.key .rel true = false →
      (∀ l, acts is l → a l = 0 ∨ (blockAt (s.ctx is.g.ctx).heap (a l) = true ∧ ∀ k, acts is k → k ≠ l → a k ≠ a l)) →
      ∃ t, exec (.hfree o) s = .next t ∧ t.mem = s.mem ∧ t.group is.key = some (moved is is.g) ∧
        ∀ l, acts is l → a l ≠ 0 → blockAt (t.ctx is.g.ctx).heap (a l) = false)

/-- R259, R260: `halloc` gives each guarded lane, ascending, a block of the heap of its core's quadrant that meets no block of the heap and none of the lanes below, wherever one is free, and 0 and AF where none is or more than 64 KiB are asked for; the heap becomes the old one with exactly those blocks added. `hfree` frees blocks, and an address that starts no block is PROT. -/
def Obligations.Heap : Prop :=
  ∀ (s : State) (is : Issue) (o : MOps), Issues s o.pred o.neg is →
    let a := MOps.address is o
    let x := s.ctx is.g.ctx
    let size := fun l => powerAtLeast (a l) 11 64
    -- the block of `b` bytes at `off` meets one of the page
    let meets := fun (p : HeapPage) off b => ∃ c ∈ p.blocks, off < c.1 + c.2 ∧ c.1 < off + b
    (is.gd = 0 → ∀ i ∈ [Instr.halloc o, .hfree o], WellFormed i = true → Leaves i s is is.g) ∧
    (WellFormed (.halloc o) = true → is.gd ≠ 0 → mustWait s is.key .plain false = false → ∃ pend dups got ctxs env,
      let val := fun l => match got l with
        | some b => b.1 + b.2
        | none => 0
      let heapBefore := fun l => heapWith x.heap size got (before is l)
      let flags := if (is.gd.lanes is.g.width).any (fun l => a l != 0 && got l == none) then fAF else 0
      exec (.halloc o) s = .next { became s is { moved is is.g with
        pend := pend, nextSeq := is.g.nextSeq + 1, integrity := { is.g.integrity with dups := dups } } with ctxs := ctxs, env := env } ∧
      ((∃ l, acts is l ∧ got l ≠ none) → ctxs = insert s.ctxs is.g.ctx { x with heap := heapWith x.heap size got (is.gd.lanes is.g.width) }) ∧
      ((∀ l, acts is l → got l = none) → ctxs = s.ctxs) ∧
      loadFor is o.d 8 o.look.toNat is.gd 0 val (pend.map (fun p => { p with flags := 0 })) ∧ (∀ p ∈ pend, p.flags = flags) ∧
      (∀ l, acts is l →
        (a l = 0 ∨ 65536 < a l → got l = none) ∧
        (a l ≠ 0 → a l ≤ 65536 →
          (∀ v off, got l = some (v, off) → ∃ p ∈ heapBefore l, p.va = v ∧ paStack p.pa = coreStack is.core ∧
            off % size l = 0 ∧ off + size l ≤ 65536 ∧ ¬ meets p off (size l)) ∧
          (got l = none → ∀ p ∈ heapBefore l, paStack p.pa = coreStack is.core → ∀ off, off % size l = 0 → off + size l ≤ 65536 → meets p off (size l)))) ∧
      ∀ k l, acts is k → acts is l → k < l → ∀ v off off', got k = some (v, off) → got l = some (v, off') → off + size k ≤ off' ∨ off' + size l ≤ off) ∧
    (WellFormed (.hfree o) = true → is.gd ≠ 0 → mustWait s is.key .rel true = false →
      (∀ l, acts is l → a l = 0 ∨ (blockAt x.heap (a l) = true ∧ ∀ k, acts is k → k ≠ l → a k ≠ a l)) →
      exec (.hfree o) s = .next { became s is (moved is is.g) with ctxs := insert s.ctxs is.g.ctx { x with
        heap := x.heap.map (fun p => { p with blocks := p.blocks.filter (fun b =>
          !(is.gd.lanes is.g.width).any (fun l => a l != 0 && p.va ≤ a l && a l < p.va + 65536 && p.va + b.1 == a l)) }) } }) ∧
    (WellFormed (.hfree o) = true → mustWait s is.key .rel true = false → ∀ l, acts is l → a l ≠ 0 → blockAt x.heap (a l) = false →
      ∃ addr lanes, exec (.hfree o) s = is.conclude s (.trap s 7 0 addr lanes) ∧ Mask.has lanes l = true)

/-- R262 to R264: `atom` and `red` perform their lanes' operations one after another, ascending; `atom` gives each lane the value its operation found. R269, R270: `ratom` and `rpoll` complete where their ring and their targets pass, `ratom` with a result on its way. -/
def Obligations.Atomics : Prop :=
  (∀ (s : State) (is : Issue) (o : MOps) (p : Nat → Place) (key : Nat → Nat), Issues s o.pred o.neg is →
    let n := Size.bytes o.size
    let after := fun lanes => afterAtomics s is o p key lanes
    mustWait s is.key o.cls true = false → is.gd ≠ 0 →
    (∀ l, acts is l → atomAccess s is o l = .ok (p l) ∧ plainAt (p l) (key l) ∧ s.badLine (key l) = false ∧
      ((p l).inHost = true → s.link.lnkCache = true ∨ o.aop.toNat ≤ 2)) →
    (WellFormed (.red o) = true → ∃ tlb held, exec (.red o) s = .next (becameHeld (after (is.gd.lanes is.g.width)) is (moved is is.g) tlb held)) ∧
    (WellFormed (.atom o) = true → ∃ tlb held pend dups,
      loadFor is o.d n o.look.toNat is.gd 0 (fun l => foundAt (after (before is l)) is n p key l) pend ∧
      exec (.atom o) s = .next (becameHeld (after (is.gd.lanes is.g.width)) is { moved is is.g with
          pend := pend, nextSeq := is.g.nextSeq + 1, integrity := { is.g.integrity with dups := dups } } tlb held))) ∧
  ∀ (s : State) (is : Issue) (o : MOps) (p : Nat → Place) (key : Nat → Nat) (va : Nat) (w : Dword) (pa ring : Nat), Issues s o.pred o.neg is →
    mustWait s is.key o.cls true = false → ringAccess s is = .ok (.page va w pa) → leafLoc w va = .here ring → leafD w = true →
    (WellFormed (.ratom o) = true → (∀ l, acts is l → ratomAccess s is o l = .ok (p l)) →
      ∃ t g, exec (.ratom o) s = .next t ∧ t.group is.key = some g ∧ g.regs = (moved is is.g).regs ∧ (is.gd ≠ 0 → g.pend ≠ [])) ∧
    (WellFormed (.rpoll o) = true → (∀ l, acts is l → rpollAccess s is o l = .ok (p l) ∧ plainAt (p l) (key l)) →
      ∃ t g, exec (.rpoll o) s = .next t ∧ t.group is.key = some g ∧ g.pend = [] ∧ g.regs.lpc = stepped is is.ex)

/-- R268 to R270: `ratom` takes the lowest free entries of the completion ring, one a lane, and 0xffffffff where none is free; `rpoll` reads entries and frees those done or failed; a request with no reply in 2^24 clk fails. The VALUE of 0 that the entry of a failed request holds is the model's choice (log 78). -/
def Obligations.RemoteAtomics : Prop :=
  (∀ (s : State) (is : Issue) (o : MOps) (p : Nat → Place) (va : Nat) (w : Dword) (pa key : Nat), Issues s o.pred o.neg is →
    mustWait s is.key o.cls true = false → is.gd ≠ 0 →
    ringAccess s is = .ok (.page va w pa) → leafLoc w va = .here key → leafD w = true →
    (WellFormed (.ratom o) = true → Memory.wf s.mem = true → (∀ l, acts is l → ratomAccess s is o l = .ok (p l) ∧ ∃ at_ leaf leafPa, p l = .page at_ leaf leafPa ∧ leafD leaf = true) →
      let free := (List.range 64).filter (fun k => Memory.read (s.shareDirty is.g.ctx w).mem (key + 16 * k + 8) = 0)
      ∃ t pend dups, exec (.ratom o) s = .next t ∧
        t.group is.key = some { moved is is.g with pend := pend, nextSeq := is.g.nextSeq + 1, integrity := { is.g.integrity with dups := dups } } ∧
        loadFor is o.d (Size.bytes o.size) o.look.toNat is.gd 0 (fun l => free.getD (before is l).length 0xffffffff) pend ∧
        (alone s is.g.ctx → ∀ l, acts is l → (before is l).length < free.length → Memory.read t.mem (key + 16 * free.getD (before is l).length 0 + 8) = 1) ∧
        (alone s is.g.ctx → ∀ a, (∀ k < 64, a < key + 16 * k + 8 ∨ key + 16 * k + 16 ≤ a) → Memory.read t.mem a = Memory.read s.mem a)) ∧
    (∀ ekey : Nat → Nat, WellFormed (.rpoll o) = true → (∀ l, acts is l → rpollAccess s is o l = .ok (p l) ∧ plainAt (p l) (ekey l)) →
      ∀ r, o.d = .v r → ∃ xs tlb staged dups, xs.length = 4 ∧
        (∀ k < 4, ∃ x, xs[k]? = some x ∧ holds is is.gd (is.g.regs.v.getD (r.val + k) (.u 0)) x
          (fun l => BitVec.ofNat 32 (foundAt (afterPolls s is p ekey (before is l)) is 16 p ekey l / 2 ^ (32 * k)))) ∧
        exec (.rpoll o) s = .next (becameBut (afterPolls s is p ekey (is.gd.lanes is.g.width)) is { moved is { is.g with regs := { is.g.regs with v := setFrom is.g.regs.v r.val xs } } with
            staged := staged, integrity := { is.g.integrity with dups := dups } } tlb))) ∧
  (∀ (s : State) (req : Nat) (r : PeerReq) (ctx addr : Nat), lookup s.link.reqs req = some r → r.for_ = .ring ctx addr →
    (r.sentAt + 2 ^ 24 ≤ s.clk → ∃ t, exec (.ratomTimeout req) s = .next t ∧ lookup t.link.reqs req = none ∧
      (∀ key w pa, alone s ctx → Memory.wf s.mem = true → addr % 16 = 0 → addr + 16 ≤ 2 ^ 57 → translate s ctx addr .write = .to w pa → leafLoc w addr = .here key → leafD w = true → leafRed w = false →
        s.badLine key = false → Memory.value t.mem key 8 = 0 ∧ Memory.read t.mem (key + 8) = 3 ∧ Memory.value t.mem (key + 12) 2 = 4)) ∧
    (s.clk < r.sentAt + 2 ^ 24 → exec (.ratomTimeout req) s = .next s))

/-! ### Tiles and tensor identifiers -/

/-- R275, R279, R280: `tcfg`, `tget`, `tset` and `trel` on one tile entry; no other entry, register or byte changes. R276, R282: `tld` completes on a ready tile with a result on its way, and `tst` on a filling one, where every guarded lane lies in the tile. That TILE_STATE takes every executing lane whatever the guard is the model's choice (log 30). -/
def Obligations.TileEntries : Prop :=
  ∀ (s : State) (is : Issue) (o : EOps), Issues s o.pred o.neg is → is.gd ≠ 0 →
    let tile := fun (n : Byte) => is.t.tile (tileKey is n.toNat)
    let sets := fun (i : Instr) (x : Tile) => exec i s =
      .next { became s is (moved is is.g) with teams := insert s.teams is.g.team (is.t.setTile (tileKey is o.d.toNat) x) }
    let w := is.g.sreg (byteScalar o.a)
    let base := (is.g.sreg (byteScalar o.b)).toNat % 2 ^ 32
    let fresh : Tile := {
      state := .filling, prec := (w.extractLsb' 48 5).toNat, fmt := (w.extractLsb' 44 4).toNat, space := (w.extractLsb' 40 1).toNat
      rows := (w.extractLsb' 32 8).toNat + 1, rb := 64 * ((w.extractLsb' 20 6).toNat + 1), base, phys := true }
    (WellFormed (.tcfg o) = true →
      ((tile o.d).state = .empty → (tile o.d).rd = 0 → (tile o.d).wr = 0 → tilesUsed s is.core < 256 → tileWordOk w.toNat base = true → tileFits is.l fresh = true →
        sets (.tcfg o) fresh) ∧
      ((tile o.d).state = .filling ∨ (tile o.d).state = .ready → exec (.tcfg o) s = is.conclude s (.trap s 8 1 0 is.ex))) ∧
    (WellFormed (.tget o) = true → ∃ dups, exec (.tget o) s = .next (became s is { moved is { is.g with
        regs := { is.g.regs with s := setFrom is.g.regs.s (byteScalar o.d) (tileWords (tile o.a)) } } with integrity := { is.g.integrity with dups := dups } })) ∧
    (WellFormed (.tset o) = true →
      ((tile o.d).state = .filling → o.bit 0 = false → (tile o.d).wr = 0 → mustWait s is.key .rel true = false → sets (.tset o) { tile o.d with state := .ready }) ∧
      ((tile o.d).state = .ready → o.bit 0 = true → (tile o.d).rd = 0 → sets (.tset o) { tile o.d with state := .filling }) ∧
      ((tile o.d).state = .filling ∧ o.bit 0 = true ∨ (tile o.d).state = .ready ∧ o.bit 0 = false → Leaves (.tset o) s is is.g) ∧
      ((tile o.d).state = .empty ∨ (tile o.d).state = .draining → exec (.tset o) s = is.conclude s (.trap s 8 1 0 is.ex))) ∧
    (WellFormed (.trel o) = true →
      ((tile o.d).state = .ready → (tile o.d).rd ≠ 0 → sets (.trel o) { tile o.d with state := .draining }) ∧
      ((tile o.d).state = .ready → (tile o.d).rd = 0 → sets (.trel o) { wr := (tile o.d).wr }) ∧
      ((tile o.d).state = .filling → sets (.trel o) { rd := (tile o.d).rd, wr := (tile o.d).wr, phys := (tile o.d).wr != 0 }) ∧
      ((tile o.d).state = .empty ∨ (tile o.d).state = .draining → sets (.trel o) (tile o.d))) ∧
    (∀ x ∈ [(Instr.tld o, Tile.forRead (tile o.a)), (.tst o, Tile.forWrite (tile o.a))], WellFormed x.1 = true → x.2 = .go → mustWait s is.key .plain true = false →
      (∀ l, acts is l → tileFault (tile o.a) (tileSize o) (tileAt is o (tile o.a) l) = 0) →
      ∃ t g, exec x.1 s = .next t ∧ t.group is.key = some g ∧ g.regs = (moved is is.g).regs ∧ t.teams = s.teams ∧ (x.1 = .tld o → g.pend ≠ [] ∧ t.mem = s.mem))

/-- R282: `tld` starts a load from a ready tile, `tst` stores into a filling one, at row × RB + column; a lane that is misaligned, or outside the tile, faults the whole instruction: ALIGN or PROT, with the lowest such lane's offset in FADDR. That TILE_STATE takes every executing lane whatever the guard is the model's choice (log 30). -/
def Obligations.TileAccesses : Prop :=
  ∀ (s : State) (is : Issue) (o : EOps), Issues s o.pred o.neg is → is.gd ≠ 0 →
    let t := is.t.tile (tileKey is o.a.toNat)
    let n := tileSize o
    let d := Opnd.ofByte o.d
    let row := fun l => opValue is (Opnd.ofByte o.b) false 0 l
    let col := fun l => (if isNone o.c then 0 else opValue is (Opnd.ofByte o.c) false 0 l) + (o.ctl.extractLsb' 0 12).toNat
    let off := fun l => row l * t.rb + col l
    let key := fun l => tileByte is t (off l)
    let fits := fun l => off l % n = 0 ∧ row l < t.rows ∧ col l + n ≤ t.rb
    (WellFormed (.tld o) = true → t.state = .ready → t.rd < 65535 → mustWait s is.key .plain false = false → (∀ l, acts is l → fits l) →
      ∃ pend dups, loadFor is d n o.look.toNat is.gd 0 (fun l => Memory.value s.mem (key l) n) pend ∧
        exec (.tld o) s = .next (became s is { moved is is.g with
          pend := pend, nextSeq := is.g.nextSeq + 1, integrity := { is.g.integrity with dups := dups } })) ∧
    (WellFormed (.tst o) = true → t.state = .filling → t.wr < 65535 → mustWait s is.key .plain true = false → (∀ l, acts is l → fits l) →
      exec (.tst o) s = .next (became (stored s is is.gd n (fun l => .sram (key l)) key (dataOf is d n)) is (moved is is.g))) ∧
    (∀ x ∈ [(Instr.tld o, TileState.ready), (.tst o, .filling)], WellFormed x.1 = true →
      (t.state = .empty ∨ t.state = .draining → exec x.1 s = is.conclude s (.trap s 8 1 0 is.ex)) ∧
      ∀ l, acts is l → t.state = x.2 → t.rd < 65535 → t.wr < 65535 → ¬ fits l → (∀ k < l, acts is k → fits k) →
        ∃ lanes, exec x.1 s = is.conclude s (.trap s (if off l % n ≠ 0 then 5 else 7) 0 (o.a.toNat * 2 ^ 48 + off l % 2 ^ 32) lanes))

/-- R284, R288: `tidw` writes eight scalars into a record of the context's table, `tidr` reads a record into eight scalars, `tidv` gives the code of its first failing check. -/
def Obligations.TensorIdentifiers : Prop :=
  ∀ (s : State) (is : Issue) (o : EOps), Issues s o.pred o.neg is → is.gd ≠ 0 →
    let x := s.ctx is.g.ctx
    let eight := (List.range 8).map (fun k => is.g.sreg (byteScalar o.a + k))
    let scalars := fun (i : Instr) (l : List Dword) => ∃ dups, exec i s = .next (became s is { moved is { is.g with
      regs := { is.g.regs with s := setFrom is.g.regs.s (byteScalar o.d) l } } with integrity := { is.g.integrity with dups := dups } })
    (WellFormed (.tidw o) = true → ∃ t, exec (.tidw o) s = .next t ∧
      t = { became s is (moved is is.g) with ctxs := insert s.ctxs is.g.ctx { x with tids := insert x.tids o.d.toNat eight } } ∧
      t.tid is.g.ctx o.d.toNat = eight ∧ ∀ n ≠ o.d.toNat, t.tid is.g.ctx n = s.tid is.g.ctx n) ∧
    (WellFormed (.tidr o) = true → (s.tid is.g.ctx o.a.toNat).length = 8 → scalars (.tidr o) (s.tid is.g.ctx o.a.toNat)) ∧
    (WellFormed (.tidv o) = true → scalars (.tidv o) [BitVec.ofNat 64 (tidCode (s.tid is.g.ctx o.a.toNat) false)])

/-! ### Matrix operations -/

/-- R290, R294, R295: `mma` and `mmaz` issue where their tiles, identifiers and coordinates pass and the array has room: the operation is in flight with its octets, its counter and its tile counts go up, and no byte of memory changes yet. R46, R297: the next octet of an operation whose turn it is: each of its 256 words of tile D becomes the old word (for `mma`) plus the product of its two blocks, rounded once; no other byte changes. -/
def Obligations.MatrixOperations : Prop :=
  (∀ (s : State) (is : Issue) (o : EOps), Issues s o.pred o.neg is → is.gd ≠ 0 →
      let a := s.tid is.g.ctx o.a.toNat
      let b := s.tid is.g.ctx o.b.toNat
      let xs := (leaders is.g is.gd).map (octetOf is o)
      let d := tileKey is o.d.toNat
      mmaTiles is o s = none → mmaTids a b = 0 →
      (∀ l ∈ leaders is.g is.gd, octetFits (is.t.tile d) (is.g.vlane o.e.toNat l).toNat (octetOf is o l) = true) →
      (∀ x ∈ xs, strayBlock is.l a ((rowsRead a x.m0 8 x.kb).map (fun r => blockAddr a r x.kb)) = none ∧
        strayBlock is.l b ((rowsRead b x.n0 32 x.kb).map (fun r => blockAddr b r x.kb)) = none) →
      octetsOn s is.core + xs.length ≤ 144 → counterFull is.g (EOps.counterAt o 8) = false →
      ∀ p ∈ [(Instr.mma o, true), (.mmaz o, false)], WellFormed p.1 = true →
        ∃ t op g', exec p.1 s = .next t ∧ t.matops = insert s.matops s.nextId op ∧ t.mem = s.mem ∧ t.group is.key = some g' ∧
          op.accumulate = p.2 ∧ op.octets = xs ∧ op.tidA = a ∧ op.tidB = b ∧ op.pa = (o.ctl.extractLsb' 0 4).toNat + 1 ∧ op.pb = (o.ctl.extractLsb' 4 4).toNat + 1 ∧
          op.tileD = d ∧ op.dBase = (is.t.tile d).base ∧ op.dRb = (is.t.tile d).rb ∧ g'.regs = (moved is (counted is.g (EOps.counterAt o 8))).regs ∧
          (lookup t.teams is.g.team).map (fun x => (x.tile d).wr) = some ((is.t.tile d).wr + 1)) ∧
  (∀ (s : State) (id : Nat) (op : MatOp) (x : Octet) (rest : List Octet) (t : Team) (l : Launch), lookup s.matops id = some op → op.octets = x :: rest →
      lookup s.teams op.team = some t → lookup s.launches t.launch = some l → matTurn s op = true → op.raced = [] → Memory.wf s.mem = true → (x.g + 1) * 128 ≤ op.dRb →
      let base := sumpKey op.core (t.sump.getD (t.memberOf op.core) 0 + op.dBase)
      let key := fun i j => base + (x.drow + i) * op.dRb + 4 * (32 * x.g + j)
      let blockA := fun i => (operandBlock s t l op.tidA (x.m0 + i) x.kb).1
      let blockB := fun j => (operandBlock s t l op.tidB (x.n0 + j) x.kb).1
      ∃ s', exec (.matrixOpComplete id) s = .next s' ∧
        (∀ i < 8, ∀ j < 32, Memory.value s'.mem (key i j) 4 =
          (accumulate op.accumulate (Memory.value s.mem (key i j) 4) (blockProduct (blockA i) (blockB j) op.pa op.pb)).1 % 2 ^ 32) ∧
        (∀ k, (∀ i < 8, ∀ j < 32, k < key i j ∨ key i j + 4 ≤ k) → Memory.read s'.mem k = Memory.read s.mem k) ∧
        lookup s'.matops id = if rest = [] then none else some { op with octets := rest, done := op.done ++ [x] })

/-! ### Gates and streams -/

/-- R302 to R306: `gcfg` checks and keeps a program; `gate` starts an operation. R305, R307 to R310: the operation a core runs, first on its stream, writes every element of tile D from the program, the carried element taken from the row before, from STATE before the first row and from INIT, or +0, at a mark; it leaves the carried row in STATE, POS past its rows and its mark consumed, merges its flags and ends, and no other byte changes. What it gives where other accesses race with its own is in no clause. -/
def Obligations.Gates : Prop :=
  (∀ (s : State) (is : Issue) (o : EOps), Issues s o.pred o.neg is → is.gd ≠ 0 →
    (∀ b s' p, WellFormed (.gcfg o) = true → readOnce s is (is.g.sreg (byteScalar o.a)).toNat 64 = .got b s' p → s'.group is.key = some is.g → lookup s'.teams is.g.team = some is.t →
      let img := wordsOf b 16
      let status := gateStatus img 0 false false
      ∃ dups, exec (.gcfg o) s = .next { became s' is { moved is { is.g with
            regs := { is.g.regs with s := is.g.regs.s.set (byteScalar o.d) (BitVec.ofNat 64 status) } } with integrity := { is.g.integrity with dups := dups } } with
        teams := if status = 0 then insert s'.teams is.g.team { is.t with gates := insert is.t.gates (o.ctl.extractLsb' 0 3).toNat img } else s'.teams }) ∧
    (∀ prog, WellFormed (.gate o) = true → gateTiles is o (gateInputs o) = .go → lookup is.t.gates (o.ctl.extractLsb' 0 3).toNat = some prog →
      let d := is.t.tile (tileKey is o.d.toNat)
      (∀ n ∈ o.d.toNat :: gateInputs o, let t := is.t.tile (tileKey is n); t.fmt = 0 ∧ t.rows = d.rows ∧ t.rb = d.rb) →
      (∀ n, gateStream o = some n → gateStreamCode s is n = (0, 0, 0)) → gatesOn s is.core < 17 → counterFull is.g (gateCounter o) = false →
      ∃ t op, exec (.gate o) s = .next t ∧ t.gateops = insert s.gateops s.nextId op ∧ t.mem = s.mem ∧ op.prog = prog ∧ op.rows = d.rows ∧ op.cols = d.rb / 4 ∧
        op.stream = gateStream o ∧ op.counter = gateCounter o ∧ op.tileD = tileKey is o.d.toNat ∧
        t.group is.key = some (moved is (counted is.g (gateCounter o))))) ∧
  (∀ (s : State) (core id : Nat) (op : GateOp) (t : Team) (l : Launch), oldestGate s core = some (id, op) → lookup s.teams op.team = some t → lookup s.launches t.launch = some l →
    op.raced = [] → Memory.wf s.mem = true → (∀ n, op.stream = some n → (streamOps s op.ctx n).head? = some (.gate id)) → ∀ stateKey initKey : Nat → Nat,
    let key := fun b row col => areaKey t l op.core b (4 * (row * op.cols + col))
    let apart := fun x y : Nat => x + 4 ≤ y ∨ y + 4 ≤ x
    let inputs := op.xBase :: (if op.tileY.isSome then [op.yBase] else []) ++ (if op.tileZ.isSome then [op.zBase] else [])
    let e := s.stream op.ctx (op.stream.getD 0)
    let stateLen := if op.stream.isSome then tidExtent op.stateRec 0 else 0
    let initLen := if op.stream.isSome && strInitV e then tidExtent op.initRec 0 else 0
    -- an element of D lies at no other element's place, nor at an input's of another element, nor in the rows of the stream's identifiers
    (∀ b ∈ op.dBase :: inputs, ∀ row < op.rows, ∀ col < op.cols, ∀ row' < op.rows, ∀ col' < op.cols,
      (row = row' ∧ col = col' ∧ key b row col = key op.dBase row col) ∨ apart (key b row col) (key op.dBase row' col')) →
    (∀ x ∈ [(stateLen, op.stateRec, stateKey), (initLen, op.initRec, initKey)], ∀ j < x.1,
      windowRun t l (tidElem x.2.1 j 0 0 0 % 2 ^ 57) 4 (x.2.2 j) ∧ ∀ row < op.rows, ∀ col < op.cols, apart (x.2.2 j) (key op.dBase row col)) →
    (∀ j < stateLen, ∀ k < stateLen, j ≠ k → apart (stateKey j) (stateKey k)) →
    let pos := strPos e
    let mark := max (if strReset e then pos else strMark e) pos
    let first := fun col => if col < stateLen then Memory.value s.mem (stateKey col) 4 else 0
    let reset := fun col row => if op.stream.isSome ∧ pos + row = mark then some (if col < initLen then Memory.value s.mem (initKey col) 4 else 0) else none
    let input := fun b col row => Memory.value s.mem (key b row col) 4
    let run := fun col row h => gRun op.prog {
      h, t := [input op.xBase col row, if op.tileY.isSome then input op.yBase col row else 0, if op.tileZ.isSome then input op.zBase col row else 0, 0, 0, 0, 0, 0] }
    let carries := fun col => carried (run col) (reset col) (first col)
    let element := fun col row => run col row ((reset col row).getD (carries col row))
    ∃ s', exec (.gateOpComplete core) s = .next s' ∧ lookup s'.gateops id = none ∧
      (∀ row < op.rows, ∀ col < op.cols, Memory.value s'.mem (key op.dBase row col) 4 = (element col row).t.getD 0 0 % 2 ^ 32) ∧
      (∀ j < min op.cols stateLen, Memory.value s'.mem (stateKey j) 4 = carries j op.rows % 2 ^ 32) ∧
      (∀ k, (∀ row < op.rows, ∀ col < op.cols, k < key op.dBase row col ∨ key op.dBase row col + 4 ≤ k) →
        (∀ j < min op.cols stateLen, k < stateKey j ∨ stateKey j + 4 ≤ k) → Memory.read s'.mem k = Memory.read s.mem k) ∧
      (∀ n, op.stream = some n → s'.stream op.ctx n =
          [e.getD 0 0 &&& ~~~(1#64 <<< 32), BitVec.ofNat 64 (pos + op.rows), if mark < pos + op.rows then BitVec.allOnes 64 else e.getD 2 0, e.getD 3 0] ∧
        ∀ x ∈ streamOps s' op.ctx n, x ≠ .gate id) ∧
      ∀ g, s.group op.group = some g → ∃ g', s'.group op.group = some g' ∧ g'.regs.gs = g.regs.gs |||
        (((List.range op.rows).flatMap (fun row => (List.range op.cols).map (fun col => (element col row).flags))).foldl (· ||| ·) 0).zeroExtend 64)

/-! ### The pump -/

/-- R311 to R316, R326 to R330: `cpy`, `plane`, `sexp` and `simp` put a job into the pump with its edges, and count it; `srst` writes its stream's entry. That a stream job holds the STATE and INIT records as read at issue is the model's choice (log 45), as are the trap lanes of `srst` and `cpy` (log 30). -/
def Obligations.JobIssue : Prop :=
  ∀ (s : State) (is : Issue) (o : EOps), Issues s o.pred o.neg is → is.gd ≠ 0 →
    let starts := fun (i : Instr) (s' : State) (j : Job) => ∃ t, exec i s = .next t ∧
      t.jobs = insert s'.jobs s'.nextId { j with edges := edgesFrom s' is.g.team j.reads j.writes, order := s'.nextId } ∧
      t.mem = s'.mem ∧ t.group is.key = some (moved is (counted is.g j.counter))
    let job : JobKind → Job := fun k => {
      ctx := is.g.ctx, core := is.core, group := is.key, team := is.g.team, kind := k, card := 0, cardAt := 0, len := 1, counter := none
      reads := [], writes := [], edges := [], tileR := none, tileW := none, units := 1, todo := [0], order := 0 }
    (pumpJobs s is.core < 32 →
      (∀ b s' p, let a := (is.g.sreg (byteScalar o.a)).toNat; let c := cardOf b; let counter := if c.cv then some c.cnt else none
        WellFormed (.cpy o) = true → readOnce s is a 64 = .got b s' p → s'.group is.key = some is.g → cpyTiles is o = .go →
        (c.detail (s'.ctx is.g.ctx) is.l (inSump is (cpySrc o)) (inSump is (cpyDst o)) = 0 → c.aligned = true → counterFull is.g counter = false →
          starts (.cpy o) s' { job (.copy c.src c.dst c.xp c.cols c.spitch c.dpitch (inSump is (cpySrc o)) (inSump is (cpyDst o))) with
            card := a, cardAt := cardPlace a p, len := c.len, counter, reads := footOf c.fpa ++ footOf c.fpb, writes := footOf c.fpw,
            tileR := if cpySrc o = cpyDst o then none else (cpySrc o).map (tileKey is), tileW := (cpyDst o).map (tileKey is),
            units := ceilDiv c.len 512, todo := List.range (ceilDiv c.len 512) }) ∧
        (∀ d, c.detail (s'.ctx is.g.ctx) is.l (inSump is (cpySrc o)) (inSump is (cpyDst o)) = d → d ≠ 0 → exec (.cpy o) s = is.conclude s (.trap s' 7 d a is.ex))) ∧
      (let d := s.tid is.g.ctx o.d.toNat; let a := s.tid is.g.ctx o.a.toNat
        WellFormed (.plane o) = true → planeFault s is o d a = none → (∀ n, planeTile o = some n → (is.t.tile (tileKey is n)).forWrite = .go) →
        planeHandle s is a = true → counterFull is.g (planeCounter o) = false →
          starts (.plane o) s { job (.plane a d) with
            len := planeBlocks d, counter := planeCounter o, reads := footOf (planeFoot is o 0) ++ footOf (planeFoot is o 1), writes := footOf (planeFoot is o 2),
            tileW := (planeTile o).map (tileKey is), units := planeBlocks d, todo := List.range (planeBlocks d) }) ∧
      (let n := strNum o; let a := (is.g.sreg (byteScalar o.a)).toNat; let counter := if o.bit 10 then some o.cnt.val else none
        let st := s.tid is.g.ctx (strState (s.stream is.g.ctx n)); let it := s.tid is.g.ctx (strInit (s.stream is.g.ctx n))
        counterFull is.g counter = false →
          (WellFormed (.sexp o) = true → strFault s is false n a = none → starts (.sexp o) s { job (.sexp n a st it) with counter }) ∧
          (WellFormed (.simp o) = true → strFault s is true n a = none → starts (.simp o) s { job (.simp n a st it) with counter }))) ∧
    (let n := strNum o; let e := s.stream is.g.ctx n; let at_ := fun k => is.g.sreg (byteScalar o.a + k)
      WellFormed (.srst o) = true → streamOps s is.g.ctx n = [] →
      (o.bit 10 = false → strZeros (at_ 0).toNat = true →
        ∃ t, exec (.srst o) s = .next t ∧ t = became (s.setStream is.g.ctx n [at_ 0, at_ 1, at_ 2, e.getD 3 0]) is (moved is is.g)) ∧
      (o.bit 10 = true → strValid e = true →
        ∃ t, exec (.srst o) s = .next t ∧ t = became (s.setStream is.g.ctx n [e.getD 0 0, e.getD 1 0, at_ 0, e.getD 3 0]) is (moved is is.g)) ∧
      (o.bit 10 = true → strValid e = false → exec (.srst o) s = is.conclude s (.trap s 9 9 0 is.ex)))

/-- R312, R318: a job starts when the jobs it waits for have gone. R317: a sector's pieces hold each byte once, with its source and its destination, plain or transposed; a running copy, in whatever spaces, moves them whole, and its last sector ends it, with word 7 in its card, its counter down and its flags merged. R327: a plane job writes a block from the elements it reads. R329: `sexp` writes a stream's record; `simp` takes one that passes its checks into the entry, STATE and INIT, and changes nothing but RC for one that does not. A job that is done waits for its peers to acknowledge what it wrote (R356). -/
def Obligations.JobProgress : Prop :=
  (∀ (s : State) (id : Nat) (j : Job), lookup s.jobs id = some j → j.state = .waiting →
    ((∀ i ∈ j.edges, lookup s.jobs i = none) → exec (.jobStart id) s = .next { s with jobs := insert s.jobs id { j with state := .running } }) ∧
    ((∃ i ∈ j.edges, lookup s.jobs i ≠ none) → exec (.jobStart id) s = .next s)) ∧
  (∀ (s : State) (id : Nat) (j : Job) (t : Team) (l : Launch) (u : Nat) (rest : List Nat) (src dst n : Nat), lookup s.jobs id = some j → j.state = .running →
    Memory.wf s.mem = true → j.opening = [] → pumpNext s j.core = some j.order → j.todo = u :: rest → rest ≠ [] → lookup s.teams j.team = some t → lookup s.launches t.launch = some l →
    j.kind = .copy src dst 0 0 0 0 true true → n = min 512 (j.len - 512 * u) → src % 64 = 0 → dst % 64 = 0 → (src + j.len ≤ dst ∨ dst + j.len ≤ src) →
    let key := fun a => sumpKey j.core (t.sump.getD (t.memberOf j.core) 0 + a)
    (∀ k, key (src + 512 * u) ≤ k → k < key (src + 512 * u) + n → s.badLine k = false) →
    ∃ t', exec (.pumpSector id) s = .next t' ∧ lookup t'.jobs id = some { j with todo := rest, missing := j.missing.filter (· != u), inbox := [] } ∧
      (∀ k < n, Memory.read t'.mem (key (dst + 512 * u + k)) = Memory.read s.mem (key (src + 512 * u + k))) ∧
      (∀ k, (k < key (dst + 512 * u) ∨ key (dst + 512 * u) + n ≤ k) → Memory.read t'.mem k = Memory.read s.mem k)) ∧
  (∀ (j : Job) (u src dst xp cols spitch dpitch : Nat) (a b : Bool), j.kind = .copy src dst xp cols spitch dpitch a b → xp ≤ 2 → (xp ≠ 0 → j.len % xp = 0) →
    let n := min 512 (j.len - 512 * u)
    ((sectorPieces j u).map (fun x => x.2.2)).sum = n ∧
    ∀ i < n, ∃ x ∈ sectorPieces j u, ∃ k < x.2.2, (x.1 + k, x.2.1 + k) = copyByte src dst xp cols spitch dpitch (512 * u + i)) ∧
  (∀ (s : State) (id : Nat) (j : Job) (t : Team) (l : Launch) (u : Nat) (rest : List Nat) (src dst xp cols spitch dpitch : Nat) (a b : Bool)
      (from_ to_ : Nat → Place) (fromKey toKey : Nat → Nat), lookup s.jobs id = some j → j.state = .running →
    j.opening = [] → pumpNext s j.core = some j.order → j.todo = u :: rest → lookup s.teams j.team = some t → lookup s.launches t.launch = some l →
    j.kind = .copy src dst xp cols spitch dpitch a b →
    (∀ x ∈ sectorPieces j u, jobPlace s j t l .read a x.1 = .ok (from_ x.1) ∧ readAt s (from_ x.1) (fromKey x.1) ∧
      jobPlace s j t l .write b x.2.1 = .ok (to_ x.2.1) ∧ plainAt (to_ x.2.1) (toKey x.2.1) ∧ ∀ k < x.2.2, selfCovered j (a == b) (x.2.1 + k) = false) →
    let moved := sectorMoved s j u to_ fromKey toKey
    (rest ≠ [] → ∃ t', exec (.pumpSector id) s = .next t' ∧ t'.mem = moved.mem ∧
      lookup t'.jobs id = some { j with todo := rest, missing := j.missing.filter (· != u), inbox := [] }) ∧
    (∀ key, rest = [] → j.missing.filter (· != u) = [] → j.failCode = 0 → j.raced = [] → groupReqs s (jobAgent id) = [] →
      (j.cardAt + 56) / 2 ^ 57 = 0x7e → windowKey j.core t l ((j.cardAt + 56) % 2 ^ 57) = some key → 2 ^ 64 ≤ key →
      ∃ t', exec (.pumpSector id) s = .next t' ∧ lookup t'.jobs id = none ∧ t'.mem = Memory.store moved.mem key (leBytes 8 (j.len % 2 ^ 32)) ∧
        ∀ g, s.group j.group = some g → t'.group j.group = some ((countDown g j.counter).orFlags j.flags))) ∧
  (∀ (s : State) (id : Nat) (j : Job) (t : Team) (l : Launch) (u : Nat) (rest : List Nat) (src dst : List Dword) (from_ : Nat → Place) (fromKey : Nat → Nat),
    lookup s.jobs id = some j → j.state = .running → j.opening = [] → pumpNext s j.core = some j.order → j.todo = u :: rest → rest ≠ [] →
    lookup s.teams j.team = some t → lookup s.launches t.launch = some l → j.kind = .plane src dst →
    (∀ x ∈ planeSrc src u, jobPlace s j t l .read false x.1 = .ok (from_ x.1) ∧ readAt s (from_ x.1) (fromKey x.1)) →
    let block := jobBlock (tidFmt src) (tidP dst) ((planeSrc src u).map (fun x => Memory.bytes s.mem (fromKey x.1) x.2))
    ∃ t', exec (.pumpSector id) s = .next t' ∧ t'.mem = (teamWrite t l s (planeDst dst u % 2 ^ 57) block.1.bytes).mem ∧
      lookup t'.jobs id = some { j with todo := rest, missing := j.missing.filter (· != u), flags := j.flags ||| block.2, inbox := [] }) ∧
  (∀ (s : State) (id : Nat) (j : Job), lookup s.jobs id = some j → j.state = .done → j.opening = [] →
    (groupReqs s (jobAgent id) ≠ [] → exec (.pumpSector id) s = .next s) ∧
    (groupReqs s (jobAgent id) = [] → j.failCode = 0 → ∃ t', exec (.pumpSector id) s = .next t' ∧ lookup t'.jobs id = none ∧ t'.mem = s.mem ∧
      ∀ g, s.group j.group = some g → t'.group j.group = some ((countDown g j.counter).orFlags j.flags))) ∧
  (∀ (s : State) (id : Nat) (j : Job) (t : Team) (l : Launch) (n a : Nat) (st it : List Dword), lookup s.jobs id = some j → j.state = .running →
    lookup s.teams j.team = some t → lookup s.launches t.launch = some l → (j.kind = .sexp n a st it ∨ j.kind = .simp n a st it) →
    (streamOps s j.ctx n).head? = some (.job id) →
    (groupReqs s (jobAgent id) = [] → ∃ t', exec (.streamJobComplete id) s = .next t' ∧ lookup t'.jobs id = none ∧ ∀ x ∈ streamOps t' j.ctx n, x ≠ .job id) ∧
    ∀ (key : Nat) (stateKey initKey : Nat → Nat),
    let e := s.stream j.ctx n
    let count := tidExtent st 0
    let value := fun (m : List Host.Cell) at_ size => Memory.value m (key + at_) size
    let apart := fun x y : Nat => x + 4 ≤ y ∨ y + 4 ≤ x
    Memory.wf s.mem = true → j.raced = [] → j.failCode = 0 → windowRun t l (a % 2 ^ 57) (64 + 8 * count) key → rowRun t l st count stateKey →
    (j.kind = .sexp n a st it → (strInitV e = true → rowRun t l it (min count (tidExtent it 0)) initKey) →
      ∃ t', exec (.streamJobComplete id) s = .next t' ∧ value t'.mem 0 4 = 1 ∧ value t'.mem 4 4 = count ∧ value t'.mem 8 8 = strPos e ∧ value t'.mem 16 8 = strMark e ∧
        value t'.mem 24 1 = (if strInitV e then 1 else 0) + (if strReset e then 2 else 0) ∧ value t'.mem 25 39 = 0 ∧
        (∀ k < count, value t'.mem (64 + 4 * k) 4 = Memory.value s.mem (stateKey k) 4) ∧
        (strInitV e = true → ∀ k < count, value t'.mem (64 + 4 * count + 4 * k) 4 = if k < tidExtent it 0 then Memory.value s.mem (initKey k) 4 else 0) ∧
        ∀ x, (x < key ∨ key + 64 + (if strInitV e then 8 else 4) * count ≤ x) → Memory.read t'.mem x = Memory.read s.mem x) ∧
    (j.kind = .simp n a st it →
      let initv := value s.mem 24 1 % 2 = 1
      let passes := value s.mem 0 4 = 1 ∧ value s.mem 24 1 < 4 ∧ value s.mem 25 39 = 0 ∧ value s.mem 4 4 = count ∧ (initv → stateTid it = 0 ∧ tidExtent it 0 = count)
      (passes → (initv → rowRun t l it count initKey ∧ ∀ k < count, ∀ i < count, apart (stateKey k) (initKey i) ∧ (i ≠ k → apart (initKey k) (initKey i))) →
        (∀ k < count, ∀ i < count, i ≠ k → apart (stateKey k) (stateKey i)) →
        ∃ t', exec (.streamJobComplete id) s = .next t' ∧ (∀ k < count, Memory.value t'.mem (stateKey k) 4 = value s.mem (64 + 4 * k) 4) ∧
          (initv → ∀ k < count, Memory.value t'.mem (initKey k) 4 = value s.mem (64 + 4 * count + 4 * k) 4) ∧
          (let e' := t'.stream j.ctx n
           strPos e' = value s.mem 8 8 ∧ strMark e' = value s.mem 16 8 ∧ (strReset e' = true ↔ 2 ≤ value s.mem 24 1) ∧ (strInitV e' = true ↔ initv) ∧
            strValid e' = strValid e ∧ strState e' = strState e ∧ strInit e' = strInit e) ∧
          ∀ x, (∀ k < count, (x < stateKey k ∨ stateKey k + 4 ≤ x) ∧ (initv → x < initKey k ∨ initKey k + 4 ≤ x)) → Memory.read t'.mem x = Memory.read s.mem x) ∧
      (¬ passes → groupReqs s (jobAgent id) = [] → ∃ t', exec (.streamJobComplete id) s = .next t' ∧ t'.mem = s.mem ∧ t'.stream j.ctx n = e ∧
        ∀ g, s.group j.group = some g → t'.group j.group = some ((countDown g j.counter).orFlags fRC))))

/-- R299, R324, R328: `mbank` reads the group's count of bank conflicts into a scalar and clears it; `ccget` reads a completion counter, `ccset` sets it to no less than the group's operations in flight that name it, and `ccwait` goes on once the count lies below its limit. -/
def Obligations.Counters : Prop :=
  ∀ (s : State) (is : Issue) (o : EOps), Issues s o.pred o.neg is → is.gd ≠ 0 →
    let n := o.cnt.val
    (WellFormed (.mbank o) = true → ∃ dups, exec (.mbank o) s = .next (became s is { moved is { is.g with
      regs := { is.g.regs with s := is.g.regs.s.set (byteScalar o.d) (BitVec.ofNat 64 is.g.conflicts) } } with
      conflicts := 0, integrity := { is.g.integrity with dups := dups } })) ∧
    (WellFormed (.ccget o) = true → Gives (.ccget o) s is (Opnd.ofByte o.d) false false (fun _ => (is.g.regs.cc.getD n 0).toNat) 0) ∧
    (WellFormed (.ccset o) = true →
      let v := if isNone o.a then (o.ctl.extractLsb' 0 16).toNat else (is.g.sreg (byteScalar o.a)).toNat % 2 ^ 32
      Leaves (.ccset o) s is { is.g with regs := { is.g.regs with cc := is.g.regs.cc.set n (BitVec.ofNat 32 (max v (countedOps s is.key n))) } }) ∧
    (WellFormed (.ccwait o) = true →
      ((is.g.regs.cc.getD n 0).toNat < (o.ctl.extractLsb' 0 16).toNat → Leaves (.ccwait o) s is is.g) ∧
      ((o.ctl.extractLsb' 0 16).toNat ≤ (is.g.regs.cc.getD n 0).toNat → partialTickets s is.key n = [] → exec (.ccwait o) s = is.finish (.hold s)))

/-! ### Barriers and handoff queues -/

/-- R333, R334, R337, R338: a group arrives in a slot; the arrival that completes it takes the slot to its next generation and releases the groups held; `bar` and `barp` hold, `barv` gives the generation, `barw` goes on once it has ended, and where it holds its lanes stay at it until their release takes them to the next slot, those outside a handler that the group has entered meanwhile when that returns. -/
def Obligations.Barriers : Prop :=
  (∀ (g : Group) (h : BarHold), (passBar g h).barrier = none ∧ (passBar g h).lanes = g.lanes ∧
    (g.handler = none → (passBar g h).regs.lpc = onLanes h.lanes (fun l => g.withPc l (nextPc (g.pc l))) g.regs.lpc) ∧
    (∀ x, g.handler = some x → (passBar g h).regs.lpc = onLanes (h.lanes &&& x.lanes) (fun l => g.withPc l (nextPc (g.pc l))) g.regs.lpc ∧
      (passBar g h).handler = some { x with passed := x.passed ||| (h.lanes &&& ~~~x.lanes) })) ∧
  ∀ (s : State) (is : Issue) (o : EOps), Issues s o.pred o.neg is → is.gd ≠ 0 →
    let n := barNo o
    let b := is.t.bar n
    let arrived := b.arr.add (is.g.inTeam is.l)
    let team := fun (x : Bar) => insert s.teams is.g.team { is.t with bars := is.t.bars.set n x }
    (∀ i ∈ [Instr.bar o, .barv o, .barw o], WellFormed i = true → is.l.record.pair = true → exec i s = is.conclude s (.trap s 1 0 0 is.ex)) ∧
    (WellFormed (.barp o) = true → is.l.record.pair = false → exec (.barp o) s = is.conclude s (.trap s 1 0 0 is.ex)) ∧
    (n < is.l.record.bars → is.g.satTraps = false → n < is.t.bars.length → mustWait s is.key .ar true = false →
      (∀ x ∈ [(Instr.bar o, false), (.barp o, true)], WellFormed x.1 = true → is.l.record.pair = x.2 →
        (is.t.live.within arrived = false → exec x.1 s = .next { became s is { moved is is.g with barrier := some { slot := n, gen := b.gen } } with
          teams := team { b with arr := arrived } }) ∧
        (is.t.live.within arrived = true → ∃ t, exec x.1 s = .next t ∧ t.teams = team { arr := 0, gen := (b.gen + 1) % 2 ^ 32 } ∧ t.mem = s.mem ∧
          t.group is.key = some { moved is is.g with barrier := none } ∧
          ∀ k g, k ≠ is.key → s.group k = some g →
            let ends := fun (h : BarHold) => let d := ((b.gen + 1) % 2 ^ 32 + 2 ^ 32 - h.gen) % 2 ^ 32
              h.slot == n && if h.split then decide (1 ≤ d ∧ d < 2 ^ 31) else h.gen != (b.gen + 1) % 2 ^ 32
            t.group k = some (if g.team = is.g.team ∧ g.barrier.any ends = true then passBar g (g.barrier.getD default) else g))) ∧
      (WellFormed (.barv o) = true → is.l.record.pair = false → is.t.live.within arrived = false → ∃ dups,
        exec (.barv o) s = .next { became s is { moved is { is.g with
            regs := { is.g.regs with s := is.g.regs.s.set (byteScalar o.d) (BitVec.ofNat 64 b.gen) } } with integrity := { is.g.integrity with dups := dups } } with
          teams := team { b with arr := arrived } }) ∧
      (WellFormed (.barv o) = true → is.l.record.pair = false → is.t.live.within arrived = true → ∃ t g, exec (.barv o) s = .next t ∧ t.mem = s.mem ∧
        t.teams = team { arr := 0, gen := (b.gen + 1) % 2 ^ 32 } ∧ t.group is.key = some g ∧ g.regs.lpc = stepped is is.ex ∧
        g.regs.s = is.g.regs.s.set (byteScalar o.d) (BitVec.ofNat 64 b.gen)) ∧
      (WellFormed (.barw o) = true → is.l.record.pair = false →
        let x := (is.g.sreg (byteScalar o.a)).toNat % 2 ^ 32
        let passed := (b.gen + 2 ^ 32 - x) % 2 ^ 32
        (1 ≤ passed ∧ passed < 2 ^ 31 → Leaves (.barw o) s is is.g) ∧
        (passed = 0 ∨ 2 ^ 31 ≤ passed → exec (.barw o) s =
          .next (became s is { is.g with barrier := some { slot := n, gen := x, split := true, lanes := is.ex }, inbox := [] }))))

/-- R339 to R343: `qcfg` binds a queue to an empty ring; `qpush` appends a tile's number and a tag where there is room and no group waits before it; `qpop` takes the oldest entry. That TILE_STATE takes every executing lane whatever the guard is the model's choice (log 30). -/
def Obligations.HandoffQueues : Prop :=
  ∀ (s : State) (is : Issue) (o : EOps), Issues s o.pred o.neg is → is.gd ≠ 0 →
    let n := queueNo o
    -- the queues become `h`, and the bytes of the ring those of `t`
    let next : Group → List (Nat × Handoff) → State → Host.Outcome State Fault Refusal := fun g h t =>
      .next { became t is (moved is g) with teams := insert s.teams is.g.team { is.t with handoff := h } }
    let write := fun (off : Nat) (b : List Byte) (s : State) => teamWrite is.t is.l s off b
    (WellFormed (.qcfg o) = true → lookup is.t.handoff n = none → queueCap o ≠ 0 → qcfgFault is.l (is.g.sreg (byteScalar o.a)).toNat (queueCap o) = 0 →
      mustWait s is.key .rel true = false →
      let a := (is.g.sreg (byteScalar o.a)).toNat
      exec (.qcfg o) s = next is.g (insert is.t.handoff n { offset := a, cap := queueCap o }) (write a (leBytes 4 (queueCap o) ++ leBytes 60 0) s)) ∧
    (∀ q, lookup is.t.handoff n = some q → upsetRings s is = false → mustWait s is.key .ar true = false →
      let head := ringField s is q 4
      let tail := ringField s is q 8
      (WellFormed (.qpush o) = true → (is.t.tile (tileKey is o.a.toNat)).state = .ready → (tail + 2 ^ 32 - head) % 2 ^ 32 < q.cap → stillHeld s q.pushes = [] →
        let tag := if isNone o.b then 0 else (is.g.sreg (byteScalar o.b)).toNat % 2 ^ 32
        exec (.qpush o) s = next is.g (insert is.t.handoff n { q with pushes := [], filling := q.filling.filter (· != (is.key, is.pc)), tail := (tail + 1) % 2 ^ 32 })
          (write (q.offset + 8) (leBytes 4 (tail + 1)) (write (q.offset + 64 + 8 * (tail % q.cap)) (leBytes 4 o.a.toNat ++ leBytes 4 tag) s))) ∧
      (WellFormed (.qpop o) = true → tail ≠ head → stillHeld s q.pops = [] → ∃ g,
        exec (.qpop o) s = next g (insert is.t.handoff n { q with pops := [], head := (head + 1) % 2 ^ 32 }) (write (q.offset + 4) (leBytes 4 (head + 1)) s) ∧
        g = { is.g with integrity := g.integrity, regs := { is.g.regs with
          s := is.g.regs.s.set (byteScalar o.d) (BitVec.ofNat 64 (leNat (teamRead s is.t is.l (q.offset + 64 + 8 * (head % q.cap)) 8))) } }) ∧
      (WellFormed (.qpop o) = true → tail = head → ∃ line, exec (.qpop o) s = is.finish (.hold (setHandoff s is n { q with pops := line })))) ∧
    (lookup is.t.handoff n = none → ∀ i ∈ [Instr.qpush o, .qpop o], WellFormed i = true → exec i s = is.conclude s (.trap s 8 5 0 is.ex))

/-! ### Pages, pinned handles and the fault queue -/

/-- R380, R261: INVAL drops the cached translations of its range, and no other; its ST says what stood against it, and is 3 after the drop where a heap page that holds a block would be withdrawn (log 21). R385: PIN registers a frame list under a free index, and UNPIN removes one that nothing uses. -/
def Obligations.InvalidationAndPins : Prop :=
  ∀ (s : State) (fn ctx : Nat),
    let w := (s.func fn).inval
    let x := s.ctx ctx
    let b := hostBytes s (s.func fn).pinarg.toNat 32
    let d := pinDescOf b
    (cmdGo w = true → cmdNum w = ctx →
      (ctxSt s fn ctx ≠ 0 → exec (.inval fn ctx) s = .next (endInval s fn (ctxSt s fn ctx))) ∧
      (ctxSt s fn ctx = 0 → invalRange (s.func fn).invarg.toNat = none → exec (.inval fn ctx) s = .next (endInval s fn 4)) ∧
      (∀ lo n, ctxSt s fn ctx = 0 → invalRange (s.func fn).invarg.toNat = some (lo, n) → (∀ r ∈ s.link.reqs, r.2.ctx ≠ ctx) →
        ∃ t, exec (.inval fn ctx) s = .next t ∧ t.mem = s.mem ∧ t.groups = s.groups ∧
          (t.func fn).inval = cmdEnd w (if heapHeld s ctx lo (lo + n) then 3 else 0) ∧
          (∀ e, e ∈ t.tlb ↔ e ∈ s.tlb ∧ ¬ (e.ctx = ctx ∧ e.page * 4096 < lo + n ∧ lo < e.page * 4096 + 4096)) ∧
          (∀ p ∈ x.heap, p.blocks ≠ [] → p ∈ (t.ctx ctx).heap))) ∧
    (cmdIs (s.func fn).pincmd 1 ctx = true → ctxSt s fn ctx = 0 →
      (pinDescOk b = true → lookup x.pins d.index = none → (∀ f ∈ pinFrames s d, frameOk d.mem f = true) →
        exec (.pin fn ctx) s = .next (endPincmd (s.setCtx ctx { x with pins := insert x.pins d.index { host := d.mem == 1, frames := pinFrames s d } }) fn 0)) ∧
      ((pinDescOk b = false ∨ lookup x.pins d.index ≠ none) → exec (.pin fn ctx) s = .next (endPincmd s fn 4))) ∧
    (cmdIs (s.func fn).pincmd 2 ctx = true → ctxSt s fn ctx = 0 → lookup x.pins d.index ≠ none →
      (usesPin s ctx d.index = false → exec (.unpin fn ctx) s = .next (endPincmd (s.setCtx ctx { x with pins := erase x.pins d.index }) fn 0)) ∧
      (usesPin s ctx d.index = true → exec (.unpin fn ctx) s = .next s))

/-- R384, R469: RETRY frees an entry and its parked lanes run again; FAIL frees it and raises XLATE for its parked lane, at the lane's PC, once that trap need not wait for a peer (log 64); an entry of a context that has come back and not yet been restored becomes replay pending (R126); a ticket that names no entry changes nothing. R383, R381: a waiting record, and a hint, go into the fault queue at TAIL, TAIL goes on, vector 0 is signalled. -/
def Obligations.ReplaysAndFaultRecords : Prop :=
  (∀ (s : State) (fn : Nat) (ticket : Word) (e : FaultEntry), entryOf s.faults ticket = some e → (s.ctx e.ctx).desc.func = fn →
    (∀ p ∈ [(Instr.replayRetry fn ticket, 1), (.replayFail fn ticket, 2)], (s.ctx e.ctx).image ≠ none → exec p.1 s =
      .next { s with faults := s.faults.map (fun x => if x.ticket = ticket then { x with state := .replayPending, action := p.2 } else x) }) ∧
    ((s.ctx e.ctx).image = none → ∃ t, exec (.replayRetry fn ticket) s = .next t ∧ t.mem = s.mem ∧ (∀ x ∈ t.faults, x.ticket ≠ ticket) ∧
      (∀ x ∈ s.faults, x.ticket ≠ ticket → ∃ y ∈ t.faults, y.ticket = x.ticket ∧ y.state = x.state ∧ y.page = x.page) ∧
      (∀ k l g, .lane k l ∈ e.waiters → s.group k = some g → g.lane l = .parked → g.handler = none → g.halted = false → l < 64 →
        ∃ g', t.group k = some g' ∧ g'.lane l = .run ∧ g'.regs = g.regs)) ∧
    ((s.ctx e.ctx).image = none → failWaits s e = true → exec (.replayFail fn ticket) s = .next s) ∧
    (∀ k l g, (s.ctx e.ctx).image = none → failWaits s e = false → e.waiters = [.lane k l] → s.group k = some g → g.lane l = .parked → g.halted = false →
      let f := s.func (s.ctx e.ctx).desc.func
      exec (.replayFail fn ticket) s = .next (refile (takeTrap { s with
          faults := (s.faults.filter (fun x => x.ticket != ticket)).map (fun x => { x with waiters := x.waiters.filter (· != .lane k l) })
          funcs := insert s.funcs (s.ctx e.ctx).desc.func { f with waiting := f.waiting.filter (fun x => x.1 != ticket || x.1 == 0) } }
        k 6 0 (g.pc l) (g.pc l) (field e.record 8 8) (maskOf [l])) k))) ∧
  (∀ (s : State) (fn : Nat) (ticket : Word), entryOf s.faults ticket = none → imageEntry s ticket = none →
    exec (.replayRetry fn ticket) s = .next s ∧ exec (.replayFail fn ticket) s = .next s) ∧
  (∀ (s : State) (fn : Nat) (ticket : Word) (r : List Byte) (rest : List (Word × List Byte)), (s.func fn).waiting = (ticket, r) :: rest →
    let w := (s.func fn).fqctl
    (fqRoom w = false → exec (.faultRecordWrite fn) s = .next s) ∧
    (fqRoom w = true → (s.func fn).fqbase.getLsbD 0 = false →
      ∃ t, exec (.faultRecordWrite fn) s = .next t ∧ (t.func fn).waiting = rest ∧ t.irqs = s.irqs ++ [(fn, 0)] ∧
        t.mem = (s.hostStore ((s.func fn).fqbase.toNat / 4096 * 4096 + 32 * fqTail w) r).mem ∧
        fqTail (t.func fn).fqctl = (fqTail w + 1) % 2 ^ fqLog w ∧ fqHead (t.func fn).fqctl = fqHead w ∧ fqLog (t.func fn).fqctl = fqLog w ∧
        ∀ e ∈ t.faults, e.ticket = ticket → e.state ≠ .opened)) ∧
  (∀ (s : State) (ctx page stack : Nat) (f : Fills) (w : Dword) (pa : Nat),
    let key := pageKey ctx page
    let fn := (s.ctx ctx).desc.func
    let fills := fun q => f.counts.getD q 0
    let own := paStack (leafFrame w)
    walk s.mem (s.ctx ctx).desc.ptroot page = .leaf w pa → (s.ctx ctx).state ≠ .free → leafMem w = 0 →
      lookup s.hinted key ≠ some (s.clk / 2 ^ 24) → lookup s.fills key = some f → f.window = s.clk / 2 ^ 24 →
      stack < 16 → stack ≠ own → 4096 ≤ fills stack → 3 * fills own < fills stack → (∀ q < 16, q ≠ own → q ≠ stack → fills q < fills stack) →
      fqRoom (s.func fn).fqctl = true → (s.func fn).fqbase.getLsbD 0 = false →
      ∃ t, exec (.placementHint ctx page) s = .next t ∧ t.irqs = s.irqs ++ [(fn, 0)] ∧
        t.mem = (State.hostStore { s with hinted := insert s.hinted key (s.clk / 2 ^ 24) } ((s.func fn).fqbase.toNat / 4096 * 4096 + 32 * fqTail (s.func fn).fqctl)
          (hintRecord ctx (page / 65536 * 65536) stack (fills stack))).mem ∧
        lookup t.hinted key = some (s.clk / 2 ^ 24))

/-! ### Run sequencers -/

/-- R406, R407, R408, R409, R410, R411: the instructions on tableaux and runs: what each puts into its scalars, and what becomes of the run. Which free slot a run takes is the device's (log 2); that the record is read before its checks (log 47), that the work identifier loses its contents (log 58) and the trap lanes of ALIGN (log 30) are the model's choices. A record with EVENT other than 0 is in no clause. -/
def Obligations.RunInstructions : Prop :=
  ∀ (s : State) (is : Issue) (o : EOps), Issues s o.pred o.neg is → is.gd ≠ 0 →
    let h := (is.g.sreg (byteScalar o.a)).toNat
    let a := (is.g.sreg (byteScalar o.b)).toNat
    let run := runOf s is h
    (WellFormed (.ivtab o) = true →
      (a % 64 ≠ 0 → exec (.ivtab o) s = is.conclude s (.trap s 5 0 a is.ex)) ∧
      (∀ b s1 p b' s2 p', a % 64 = 0 → readRange is 1 a 32 s = .got b s1 p → readRange is 64 a (4 * tabLen (recordWords b)) s1 = .got b' s2 p' →
        s2.group is.key = some is.g →
        let w := recordWords b'
        let x := s2.ctx is.g.ctx
        (tabCode w = 0 → GivesScalars (.ivtab o) s (s2.setCtx is.g.ctx { x with tableaux := insert x.tableaux o.a.toNat w }) is o.d [0]) ∧
        (tabCode w ≠ 0 → GivesScalars (.ivtab o) s s2 is o.d [BitVec.ofNat 64 (tabCode w)]))) ∧
    (WellFormed (.ivopen o) = true →
      (a % 256 ≠ 0 → exec (.ivopen o) s = is.conclude s (.trap s 5 0 a is.ex)) ∧
      (∀ b s1 p, a % 256 = 0 → mustWait s is.key .rel true = false → readRange is 8 a 256 s = .got b s1 p → s1.group is.key = some is.g → field b 48 8 = 0 →
        let c := runRecOf b
        (lookup (s1.ctx is.g.ctx).tableaux o.a.toNat = none → GivesScalars (.ivopen o) s s1 is o.d [0x1ff]) ∧
        (∀ w, lookup (s1.ctx is.g.ctx).tableaux o.a.toNat = some w →
          let ids := runIds w c
          let r : Run := { ctx := is.g.ctx, core := is.core, team := some is.g.team, at_ := cardPlace a p, atKey := placeKey p, tab := w, rec_ := c
                           ids := ids.map (fun n => (n, s1.tid is.g.ctx n)), step := c.h }
          let free := freeRuns s1 (is.core / 40)
          (recordOk b c = false → GivesScalars (.ivopen o) s s1 is o.d [0x2ff]) ∧
          (recordOk b c = true → (∃ n ∈ ids, runIdOk s1 is.g.ctx true (s1.tid is.g.ctx c.yid) n = false) → GivesScalars (.ivopen o) s s1 is o.d [0x3ff]) ∧
          (recordOk b c = true → (∀ n ∈ ids, runIdOk s1 is.g.ctx true (s1.tid is.g.ctx c.yid) n = true) → tolerancesOk r { s := s1 } = (true, { s := s1 }) →
            ((c.rhs = 0 ∨ (anyImplicit w = true ∧ c.solve = 0)) → GivesScalars (.ivopen o) s s1 is o.d [0x4ff]) ∧
            (c.rhs ≠ 0 → (anyImplicit w = true → c.solve ≠ 0) →
              (free = [] → GivesScalars (.ivopen o) s s1 is o.d [0x5ff]) ∧
              (∀ k rest s2, free ≠ [] → s1.env.draws = k :: rest →
                let n := free.getD (k % free.length) 0
                let r := { r with rec_ := { c with handle := n } }
                let lost := loseWork { s1 with env := { s1.env with draws := rest } } r
                (writeBack lost r = .ok s2 → GivesScalars (.ivopen o) s (s2.setRun n r) is o.d [BitVec.ofNat 64 n]) ∧
                (∀ f, writeBack lost r = .error f → GivesScalars (.ivopen o) s (failRun (logDevFault lost is.g.ctx f) n r 8) is o.d [BitVec.ofNat 64 n]))))))) ∧
    (WellFormed (.ivgo o) = true → mustWait s is.key .rel true = false →
      (run = none → GivesScalars (.ivgo o) s s is o.d [2]) ∧
      (∀ r, run = some r →
        ((r.rec_.state = .done ∨ r.rec_.state = .failed) → GivesScalars (.ivgo o) s s is o.d [3]) ∧
        (r.rec_.state ≠ .done → r.rec_.state ≠ .failed →
          (r.rest = false → GivesScalars (.ivgo o) s s is o.d [1]) ∧
          (r.rest = true →
            (∃ t g, exec (.ivgo o) s = .next t ∧ t.group is.key = some g ∧ g.regs.s = is.g.regs.s.set (byteScalar o.d) 0 ∧ g.regs.lpc = stepped is is.ex) ∧
            (fEq r.rec_.t r.rec_.tend = false → (r.rec_.state ≠ .opened ∨ r.rec_.event = 0) →
              GivesScalars (.ivgo o) s (s.setRun h (beginStep { r with
                rest := false, budget := (o.ctl.extractLsb' 0 20).toNat, steps := 0, rec_ := { r.rec_ with dense := false } })) is o.d [0]))))) ∧
    (WellFormed (.ivq o) = true →
      let time := fun l => BitVec.ofNat 32 (byteVal is o.b l)
      let comp := byteVal is o.c
      let gives := fun (val : Nat → Word) (st : Nat → Nat) => Starts (.ivq o) s is (Opnd.ofByte o.d) true false o.look.toNat (fun l => (val l).toNat + 2 ^ 32 * st l) 0
      (run = none → gives (fun _ => fNan) (fun _ => 3)) ∧
      (∀ r, run = some r →
        (tabDeg r.tab = 0 → gives (fun _ => fNan) (fun _ => 3)) ∧
        (tabDeg r.tab ≠ 0 →
          ((r.rest = false ∨ r.rec_.dense = false) → gives (fun _ => fNan) (fun l => if r.n ≤ comp l then 3 else 2)) ∧
          (∀ v : Nat → Word, r.rest = true → r.rec_.dense = true →
            let th := fun l => fDiv (fSub (time l) r.rec_.tn) r.rec_.hn
            let out := fun l => fNanAt (th l) || fLt (th l) 0 || fLt r.rec_.theta (th l)
            (∀ l, acts is l → comp l < r.n → out l = false → denseValue r (th l) (comp l) { s } = (v l, { s })) →
            gives (fun l => if r.n ≤ comp l ∨ out l = true then fNan else v l) (fun l => if r.n ≤ comp l then 3 else if out l = true then 1 else 0))))) ∧
    (WellFormed (.ivstat o) = true →
      (run = none → GivesScalars (.ivstat o) s s is o.d (List.replicate 4 allOnes)) ∧
      (∀ r, run = some r → GivesScalars (.ivstat o) s s is o.d
        ((List.range 4).map (fun k => BitVec.ofNat 64 (field r.rec_.bytes (statOffset (o.ctl.extractLsb' 0 2).toNat + 8 * k) 8))))) ∧
    (WellFormed (.ivwait o) = true →
      (run = none → GivesScalars (.ivwait o) s s is o.d [allOnes]) ∧
      (∀ r, run = some r →
        (r.rest = true → GivesScalars (.ivwait o) s s is o.d [BitVec.ofNat 64 r.rec_.state.code]) ∧
        (r.rest = false → exec (.ivwait o) s = is.finish (.hold s)))) ∧
    (WellFormed (.ivarg o) = true → GivesScalars (.ivarg o) s s is o.d [match is.l.ivarg with
      | none => allOnes
      | some x => x.values.getD (o.ctl.extractLsb' 0 4).toNat allOnes]) ∧
    (WellFormed (.ivclose o) = true → mustWait s is.key .rel true = false →
      (run = none → GivesScalars (.ivclose o) s s is o.d [2]) ∧
      (∀ r, run = some r →
        (r.rest = false → GivesScalars (.ivclose o) s s is o.d [1]) ∧
        (∀ s1, r.rest = true → writeBack s r = .ok s1 → GivesScalars (.ivclose o) s { s1 with runs := erase s1.runs h } is o.d [0])))

/-- R394 to R401, R414, R419: what each event of a run does to it: a stage formed is launched, a launch done leads to the next stage, to the combination, or to the next iteration; an estimate within 1 is committed and another shrinks the step and begins again; a team that has retired ends the run with CAUSE 6, a launch with faults with CAUSE 7. CAUSE 7 at 256 launches, each not completed counted (log 44), and CAUSE 6 before 7 where both hold (log 78) are the model's choices. -/
def Obligations.RunStates : Prop :=
  ∀ (s : State) (run : Nat) (r : Run), busyRun s run = some r →
    let i := r.rec_.stage
    let w := r.tab
    let launched := fun (s1 : State) (r1 : Run) (which : RunLaunch) (addr : Nat) (values : List Dword) (counts : RunRec) (x : Host.Outcome State Fault Refusal) =>
      (∀ id s2, launchesOf s1 r1.ctx < 256 → enterLaunch s1 r1.ctx addr (0, 0, 0) none (.sequencer run) (some { run, values }) = .ok id s2 →
        x = .next (s2.setRun run { r1 with flight := some which, landed := none, rec_ := counts })) ∧
      (256 ≤ launchesOf s1 r1.ctx → x = .next (failRun s1 run r1 7))
    let after := fun (r1 : Run) => { r1 with
      flight := none, landed := none, rec_ := if i < tabS w then { r1.rec_ with state := .forming, stage := i + 1 } else { r1.rec_ with state := .combining } }
    let again := fun (s1 : State) (r1 : Run) (x : Host.Outcome State Fault Refusal) =>
      (fFinite r1.step = false ∨ fEq (fAdd r1.rec_.t r1.step) r1.rec_.t = true → x = .next (failRun s1 run r1 5)) ∧
      (fFinite r1.step = true → fEq (fAdd r1.rec_.t r1.step) r1.rec_.t = false → (r1.maxed = true → x = .next (failRun s1 run r1 4)) ∧
        (r1.maxed = false → x = .next (s1.setRun run (beginStep r1))))
    let accepted := fun (s1 : State) (r1 : Run) (x : Host.Outcome State Fault Refusal) =>
      (r1.rec_.clip = true → x = .next (restRun s1 run r1 .done 1)) ∧
      (r1.rec_.clip = false → (r1.maxed = true → x = .next (failRun s1 run r1 4)) ∧
        (r1.maxed = false → (r1.budget ≠ 0 → r1.budget ≤ r1.steps → x = .next (restRun s1 run r1 .accepted 3)) ∧
          ((r1.budget = 0 ∨ r1.steps < r1.budget) → x = .next (s1.setRun run (beginStep r1)))))
    (r.rec_.state = .forming → r.flight = none →
      (r.dead = true → exec (.stageFormed run) s = .next (failRun s run r 6)) ∧
      (∀ s1, r.dead = false →
        let r1 := { r with ti := stageTime r i }
        formStage r1 i { s } = { s := s1 } →
        (tabImplicit w i = false → launched s1 { r1 with rec_ := { r.rec_ with state := .launched } } .rhs r.rec_.rhs
          (stageValues r1 0 i [allOnes, allOnes, allOnes]) { r.rec_ with state := .launched } (exec (.stageFormed run) s)) ∧
        (tabImplicit w i = true → launched s1 { r1 with gamma := newtonGamma r1 i, rec_ := { r.rec_ with state := .solving, newt := 1 } } .rhs r.rec_.rhs
          (stageValues r1 0 i [allOnes, allOnes, allOnes]) { r.rec_ with state := .solving, newt := 1 } (exec (.stageFormed run) s)))) ∧
    (∀ f faulted, r.flight = some f → r.landed = some faulted →
      let r0 := { r with flight := none, landed := none }
      let ends := fun (x : Host.Outcome State Fault Refusal) =>
        (r.dead = true → x = .next (failRun s run r 6)) ∧ (r.dead = false → faulted = true → x = .next (failRun s run r 7))
      (f = .rhs →
        ends (exec (.stageLaunchDone run) s) ∧
        (r.dead = false → faulted = false →
          let r1 := { r0 with rec_ := { r.rec_ with nrhs := r.rec_.nrhs + 1 } }
          (r.rec_.state ≠ .solving → exec (.stageLaunchDone run) s = .next (s.setRun run (after r1))) ∧
          (∀ s1, r.rec_.state = .solving → newtonResidual r1 i { s } = { s := s1 } →
            launched s1 r1 .solve r.rec_.solve (stageValues r1 1 i [argOf r.wid, argOf r.gamma.toNat, argOf r.rec_.newt])
              { r1.rec_ with nsolve := r.rec_.nsolve + 1 } (exec (.stageLaunchDone run) s)))) ∧
      (f = .solve →
        ends (exec (.solveLaunchDone run) s) ∧
        (∀ q s1, r.dead = false → faulted = false →
          newtonUpdate r0 { s } = (q, { s := s1 }) →
          (fLe (norm q) (tabKappa w) = true → exec (.solveLaunchDone run) s = .next (s1.setRun run (after r0))) ∧
          (fLe (norm q) (tabKappa w) = false →
            ((fFinite (norm q) = false ∨ tabNmax w ≤ r.rec_.newt) → again s1 (newtonFailed r0) (exec (.solveLaunchDone run) s)) ∧
            (fFinite (norm q) = true → r.rec_.newt < tabNmax w →
              let r2 := { r0 with rec_ := { r.rec_ with newt := r.rec_.newt + 1 } }
              launched s1 r2 .rhs r.rec_.rhs (stageValues r2 0 i [allOnes, allOnes, allOnes]) r2.rec_ (exec (.solveLaunchDone run) s))))) ∧
      (∀ e, f = .event e →
        ends (exec (.eventLaunchDone run) s) ∧
        (∀ b s1, r.dead = false → faulted = false → s.readVA r.ctx r.eblk 64 = .ok (b, s1) →
          let g := (List.range 16).map (fun m => BitVec.ofNat 32 (field b (4 * m) 4))
          (e = .opening → exec (.eventLaunchDone run) s = .next (s1.setRun run (beginStep { r0 with gp := g }))) ∧
          (e = .stepEnd → fires r r.gp g = [] → accepted s1 { r0 with gp := g } (exec (.eventLaunchDone run) s)) ∧
          (e = .stepEnd → fires r r.gp g ≠ [] → r.auto = false →
            ∃ t r', exec (.eventLaunchDone run) s = .next t ∧ lookup t.runs run = some r' ∧ (r'.flight = some (.event .trial) ∨ r'.rest = true))))) ∧
    (r.rec_.state = .combining →
      (r.dead = true → exec (.estimateFormed run) s = .next (failRun s run r 6)) ∧
      (∀ q s1, r.dead = false → mapComponents r (combineComponent r) { s } = (q, { s := s1 }) →
        (tabAdapt w = true → fLe (norm q) fOne = false → again s1 (rejectRun r (norm q)) (exec (.estimateFormed run) s)) ∧
        (∀ s2, (tabAdapt w = false ∨ fLe (norm q) fOne = true) → eachComponent r (commitComponent r) { s := s1 } = { s := s2 } → r.rec_.event = 0 →
          accepted s2 { r with rec_ := acceptRec r (if tabAdapt w then norm q else 0), steps := r.steps + 1 } (exec (.estimateFormed run) s))))

/-! ### Links -/

/-- R425 to R430, R432: a beat of a die link is resent until 16 retransmissions have failed, then the link is down, and the traffic of a link that is down goes another way; a fabric port trains to eight lanes, four or none, and one that goes down has its requests sent again on the ports that are left; a flit whose CRC fails is counted, and one of no type or not for this device is dropped and logged. The numbers of the die links are the model's (log 25), as are the layout of a time, the polynomial of the CRC and that FLAGS, LEN, GID, INC or RANK out of range make a flit malformed (log 12). -/
def Obligations.LinksAndPorts : Prop :=
  (∀ (s : State) (link : Nat) (crcOk : Bool),
    let x := (lookup s.link.dies link).getD {}
    let put := fun (y : DieLink) => { s with link := { s.link with dies := insert s.link.dies link y } }
    (link < 8 → x.up = true →
      (crcOk = true → exec (.dieLinkBeat link crcOk) s = .next (put { x with fails := 0 })) ∧
      (crcOk = false → x.fails < 16 → exec (.dieLinkBeat link crcOk) s = .next (logDevice (put { x with fails := x.fails + 1 }) true 4 (link % 4) 0)) ∧
      (crcOk = false → 16 ≤ x.fails → exec (.dieLinkBeat link crcOk) s = .next (logDevice (put { up := false, fails := 0 }) false 4 (link % 4) 0))) ∧
    ((8 ≤ link ∨ x.up = false) → exec (.dieLinkBeat link crcOk) s = .next s)) ∧
  (∀ (s : State) (a b : Nat), a < 4 → b < 4 → a ≠ b →
    ((∀ k < 8, linkUp s k = true) → dieRoute s a b = (if b = (a + 2) % 4 then [(a + 1) % 4, b] else [b]) ∧ dieRoute s a 4 = [4] ∧ dieRoute s 4 a = [a]) ∧
    (linkUp s a = false → (∀ k < 8, k ≠ a → linkUp s k = true) →
      dieRoute s a ((a + 1) % 4) = [(a + 3) % 4, (a + 2) % 4, (a + 1) % 4] ∧ dieRoute s ((a + 1) % 4) a = [(a + 2) % 4, (a + 3) % 4, a]) ∧
    (linkUp s (4 + a) = false → (∀ k < 8, k ≠ 4 + a → linkUp s k = true) →
      let g := min ((a + 1) % 4) ((a + 3) % 4)
      dieRoute s a 4 = [g, 4] ∧ dieRoute s 4 a = [g, a])) ∧
  (∀ (s : State) (port lanes : Nat), port < 18 →
    (4 ≤ lanes → ∃ t, exec (.fabricPortTraining port lanes) s = .next t ∧ t.mem = s.mem ∧ t.port port = { up := true, lanes := if 8 ≤ lanes then 8 else 4, fails := 0 } ∧
      ∀ q, q ≠ port → t.port q = s.port q) ∧
    (lanes < 4 → (s.port port).up = false → exec (.fabricPortTraining port lanes) s = .next (s.setPort port {})) ∧
    (lanes < 4 → (s.port port).up = true → ∃ t, exec (.fabricPortTraining port lanes) s = .next t ∧ (t.port port).up = false ∧
      ∀ x ∈ s.link.reqs, x.2.queued = false → x.2.port = port → ∀ p, portOf (s.setPort port {}) x.2.ports x.2.pa = some p → (p, (reqFlit s x.2).sealed) ∈ t.link.sent)) ∧
  (∀ (s : State) (port : Nat) (f : Flit), ∀ i ∈ [(1, Instr.flitWrite port f), (2, .flitReadRequest port f), (3, .flitReadReply port f), (4, .flitAtomicRequest port f),
      (5, .flitAtomicReply port f), (6, .flitContribution port f), (7, .flitResult port f), (8, .flitExchangeToken port f), (9, .flitTime port f), (10, .flitControl port f)],
    let x := s.port port
    let known := 1 ≤ f.type.toNat ∧ f.type.toNat ≤ 10
    ((18 ≤ port ∨ x.up = false ∨ (known ∧ f.type.toNat ≠ i.1)) → exec i.2 s = .next s) ∧
    (port < 18 → x.up = true → (known → f.type.toNat = i.1) →
      (f.crcOk = false → x.fails + 1 < 64 → exec i.2 s = .next (logDevice (s.setPort port { x with fails := x.fails + 1 }) true 5 port 0)) ∧
      (f.crcOk = false → 64 ≤ x.fails + 1 → ∃ t, exec i.2 s = .next t ∧ (t.port port).up = false) ∧
      (f.crcOk = true → (¬ known ∨ flitOk s f = false) → exec i.2 s = .next (logDevice (s.setPort port { x with fails := 0 }) false 6 port 0)))) ∧
  (∀ f : Flit, (f.crcOk = true ↔ f.crc = crc32c f.head) ∧ f.sealed.crcOk = true ∧ f.sealed.tail = 0 ∧ f.sealed.head = f.head ∧ f.head.length = 248) ∧
  (∀ (s : State) (f : Flit), (s.link.id = 0 ∨ f.tail ≠ 0 ∨ f.dst.toNat ≠ s.link.id ∨ 232 < f.len ∨ 4 ≤ f.flags.toNat ∨ (f.type.toNat ≠ 6 ∧ f.type.toNat ≠ 7 ∧ (f.gid ≠ 0 ∨ f.inc ≠ 0)) ∨
    (f.type.toNat ≠ 6 ∧ f.rank ≠ 0)) → flitOk s f = false) ∧
  (∀ (s : State) (port : Nat) (f : Flit), port < 18 → (s.port port).up = true → f.crcOk = true → f.type = 9 → flitOk s f = true →
    ∃ t, exec (.flitTime port f) s = .next t ∧ t.link.timeSynced = true ∧ t.link.time = field f.payload 0 6 * 10 ^ 9 + field f.payload 6 4 ∧ t.link.timeAt = s.clk ∧ t.mem = s.mem)

/-- R428, R429, R431 to R433: a request to a peer goes on its line's port and takes the next SEQ, but waits while an earlier one of its line is unanswered on another port. A request from a peer is performed once, where the inbound table covers it and memory is there, and answered; one performed before has its answer sent again, and an atomic waits for the atomic engine of its home die. An answer leaves the retry store with its request and reaches who asked; a request that no port can deliver, and a remote atomic that no reply has come to, end at the timeout. The payloads' layouts are the model's (log 12), and the bytes of a read that fails are free (log 26); FAIL 2 for an atomic request of no defined op or size or of a misaligned address is the model's choice (log 78). -/
def Obligations.PeerRequests : Prop :=
  (∀ (s : State) (dev ports group ctx pa port : Nat) (cls : Cls) (ask : PeerAsk) (who : PeerFor), portOf s ports pa = some port →
    let t := sendReq s dev ports group ctx pa cls ask who
    let blocked := ∃ x ∈ s.link.reqs, x.2.dev = dev ∧ x.2.pa / 64 = pa / 64 ∧ (x.2.queued = true ∨ x.2.port ≠ port)
    let seq := (lookup s.link.seqs dev).getD 0
    (blocked → t.link.sent = s.link.sent ∧ t.link.seqs = s.link.seqs) ∧
    (¬ blocked → t.link.sent = s.link.sent ++ [(port, (flitTo s ask.type dev seq (askBytes pa ask) (cls == .rel || cls == .ar)).sealed)] ∧ lookup t.link.seqs dev = some (seq + 1)) ∧
    ∃ id r, lookup t.link.reqs id = some r ∧ r.dev = dev ∧ r.pa = pa ∧ r.ask = ask ∧ r.for_ = who ∧ r.group = group) ∧
  (∀ (s : State) (port : Nat) (f : Flit), port < 18 → (s.port port).up = true → f.crcOk = true → flitOk s f = true →
    let s1 := s.setPort port { s.port port with fails := 0 }
    let pa := field f.payload 0 8
    let b := f.payload.drop 8
    let seen := s.link.performed.find? (fun x => x.source == f.src.toNat && x.seq == f.seq)
    (∀ x, seen = some x →
      (f.type = 1 → exec (.flitWrite port f) s = .next (s1.send port x.reply)) ∧ (f.type = 2 → exec (.flitReadRequest port f) s = .next (s1.send port x.reply)) ∧
      (f.type = 4 → exec (.flitAtomicRequest port f) s = .next (s1.send port x.reply))) ∧
    (seen = none →
      (f.type = 1 → covered s f.src.toNat pa b.length = true → b ≠ [] → paOk pa = true → paOk (pa + b.length - 1) = true →
        exec (.flitWrite port f) s = .next (if behindAtomic s f b.length then s1 else answer (s1.devStore pa b) port 10 f (leBytes 2 0))) ∧
      (f.type = 1 → covered s f.src.toNat pa b.length = false → exec (.flitWrite port f) s = .next (logDevice s1 false 6 port pa)) ∧
      (let n := field f.payload 8 8
       f.type = 2 → n ≤ 230 →
         (n ≠ 0 → covered s f.src.toNat pa n = true → paOk pa = true → paOk (pa + n - 1) = true →
           exec (.flitReadRequest port f) s = .next (if behindAtomic s f n then s1 else answer s1 port 3 f (leBytes 2 0 ++ Memory.bytes s.mem pa n))) ∧
         (covered s f.src.toNat pa n = false → exec (.flitReadRequest port f) s = .next (answer s1 port 3 f (leBytes 2 2))) ∧
         (covered s f.src.toNat pa n = true → paOk pa = false → exec (.flitReadRequest port f) s = .next (answer s1 port 3 f (leBytes 2 3)))) ∧
      (let n := field f.payload 12 4
       let aop := field f.payload 8 4
       let same := fun (x : AtomCmd) => x.flit.src == f.src && x.flit.seq == f.seq
       let waiting := s.link.atoms.any same
       let die := pa / 2 ^ 37 % 16 / 4
       f.type = 4 →
         (waiting = true → exec (.flitAtomicRequest port f) s =
           .next { s1 with link := { s1.link with atoms := s.link.atoms.map (fun x => if same x then { x with port := port } else x) } }) ∧
         (waiting = false → aop ≤ 12 → (n = 4 ∨ n = 8) → pa % n = 0 → covered s f.src.toNat pa n = true → paOk pa = true → paOk (pa + n - 1) = true →
           exec (.flitAtomicRequest port f) s = .next (if 4096 ≤ (s.link.atoms.filter (fun x => x.die == die)).length then s1
             else { s1 with link := { s1.link with atoms := s.link.atoms ++ [{ die, port, flit := f }] } })) ∧
         (waiting = false → (12 < aop ∨ (n ≠ 4 ∧ n ≠ 8) ∨ pa % n ≠ 0) → exec (.flitAtomicRequest port f) s = .next (answer s1 port 5 f (leBytes 2 2 ++ leBytes 8 0))) ∧
         (waiting = false → covered s f.src.toNat pa n = false → exec (.flitAtomicRequest port f) s = .next (answer s1 port 5 f (leBytes 2 2 ++ leBytes 8 0))))) ∧
    (∀ id r n, reqOf s f (fun a => match a with
        | .read _ => true
        | _ => false) = some (id, r) → r.ask = .read n → f.type = 3 →
      (field f.payload 0 2 = 0 → exec (.flitReadReply port f) s = .next (deliver (dropReq s1 id) r ((f.payload.drop 2).take n))) ∧
      (field f.payload 0 2 ≠ 0 → ∃ bytes t, bytes.length = n ∧ exec (.flitReadReply port f) s = .next t ∧ lookup t.link.reqs id = none ∧
        ∀ g a, r.for_ = .once g a n → ∀ x, s.group g = some x → ∃ y, t.group g = some y ∧ y.sent a n = some bytes)) ∧
    (∀ id r ctx addr, reqOf s f (fun a => match a with
        | .atomic .. => true
        | _ => false) = some (id, r) → r.for_ = .ring ctx addr → f.type = 5 →
      let fail := field f.payload 0 2
      exec (.flitAtomicReply port f) s = .next (ringReply (dropReq s1 id) ctx addr (field f.payload 2 8) (if fail = 0 then 2 else 3) fail)) ∧
    (∀ id r, reqOf s f (fun a => match a with
        | .write _ => true
        | .token _ => true
        | _ => false) = some (id, r) → f.type = 10 →
      (field f.payload 0 2 = 0 → exec (.flitControl port f) s = .next (dropReq s1 id)) ∧
      (field f.payload 0 2 ≠ 0 → field f.payload 0 2 ≠ 0x100 → exec (.flitControl port f) s = .next (failToken (dropReq s1 id) r))) ∧
    (f.type = 10 → field f.payload 0 2 = 0x100 → ∃ t, exec (.flitControl port f) s = .next t ∧ t.mem = s.mem ∧ t.link.reqs = s.link.reqs ∧
      lookup t.link.slices f.src.toNat = some { complete := f.flags.getLsbD 1, bytes :=
        (if f.seq = 0 then [] else ((lookup s.link.slices f.src.toNat).map (·.bytes)).getD []) ++ f.payload.drop 2 })) ∧
  (∀ (s : State) (die : Nat),
    (∀ x, s.link.atoms.find? (fun x => x.die == die) = some x →
      let pa := field x.flit.payload 0 8
      let n := field x.flit.payload 12 4
      let old := Memory.value s.mem pa n
      let new := atomOp (field x.flit.payload 8 4) n old (field x.flit.payload 16 8 % 2 ^ (8 * n)) (field x.flit.payload 24 8 % 2 ^ (8 * n))
      turnStep (.atomicEngine die) s = .next (answer ({ s with link := { s.link with atoms := s.link.atoms.erase x } }.devStore pa (leBytes n new)) x.port 5 x.flit
        (leBytes 2 0 ++ leBytes 8 old))) ∧
    ((∀ x ∈ s.link.atoms, x.die ≠ die) → turnStep (.atomicEngine die) s = .next s)) ∧
  (∀ (s : State) (req : Nat) (r : PeerReq), lookup s.link.reqs req = some r →
    ((s.clk < r.sentAt + 2 ^ 24 ∨ upPorts s r.ports ≠ []) → exec (.peerRequestTimeout req) s = .next s) ∧
    (r.sentAt + 2 ^ 24 ≤ s.clk → upPorts s r.ports = [] →
      (∀ b, r.ask = .write b → exec (.peerRequestTimeout req) s = .next (logEvent (dropReq s req) r.ctx false 6 0xffff r.port r.pa 0 0)) ∧
      (∀ b, r.ask = .token b → exec (.peerRequestTimeout req) s = .next (failToken (dropReq s req) r)) ∧
      (∀ n, r.ask = .read n → ∃ t, exec (.peerRequestTimeout req) s = .next t ∧ lookup t.link.reqs req = none)) ∧
    (∀ ctx addr, r.for_ = .ring ctx addr → r.sentAt + 2 ^ 24 ≤ s.clk → ∃ t, exec (.ratomTimeout req) s = .next t ∧ lookup t.link.reqs req = none))

/-- R434 to R441: BIND and FREE; at ROOT a contribution enters its word's round, a straggler is counted, the last one ends the round: the sum in ascending rank goes to every member device and to the frame of a rank here; a round that has waited TIMEOUT clk ends with the sum of the ranks present. The bytes of a payload are the model's choice (log 12), as are the port a word leaves on, what a context does not map (log 13), and ST 3 for FREE of a group that is not bound (log 50). -/
def Obligations.CollectiveGroups : Prop :=
  (∀ (s : State) (fn gid : Nat),
    let c := s.coll gid
    let at_ := (s.func fn).clsarg.toNat
    let b := hostBytes s at_ 64
    let members := hostBytes s (field b 16 8) (16 * min 256 (field b 0 2))
    (clsIs s fn 1 gid = true →
      (c.bound = true → exec (.bind fn gid) s = .next (endClscmd s fn 3)) ∧
      (c.bound = false → (at_ % 64 ≠ 0 ∨ collOk s gid b members = false) → exec (.bind fn gid) s = .next (endClscmd s fn 4)) ∧
      (c.bound = false → at_ % 64 = 0 → collOk s gid b members = true →
        exec (.bind fn gid) s = .next (endClscmd (showInc (s.setColl gid { collOf b members with stale := c.stale }) fn (field b 3 1)) fn 0))) ∧
    (clsIs s fn 2 gid = true →
      (c.bound = false → exec (.free fn gid) s = .next (endClscmd s fn 3)) ∧
      (c.bound = true → c.rounds = [] → c.held = [] → exec (.free fn gid) s = .next (endClscmd (s.setColl gid { last := c.last, stale := c.stale }) fn 0)))) ∧
  (∀ (s : State) (port : Nat) (f : Flit), port < 18 → (s.port port).up = true → f.crcOk = true → flitOk s f = true → portsRun s = true →
    let s1 := s.setPort port { s.port port with fails := 0 }
    let gid := f.gid.toNat
    let c := s.coll gid
    let off := field f.payload 0 8
    let x := BitVec.ofNat 32 (field f.payload 8 4)
    let no := (lookup c.closed off).getD 0
    let plain := fun (m : Member) (key : Nat) => ∃ w pa, translate s m.ctx (m.base + off) .write = .to w pa ∧ leafLoc w (m.base + off) = .here key ∧
      leafMem w = 0 ∧ leafD w = true
    c.bound = true →
    (c.inc ≠ f.inc.toNat → (f.type = 6 → exec (.flitContribution port f) s = .next (bump s1 (c.status + 24) 1)) ∧
      (f.type = 7 → exec (.flitResult port f) s = .next (bump s1 (c.status + 24) 1))) ∧
    (c.inc = f.inc.toNat → c.held = [] →
      (f.type = 6 → c.root = s.link.id → f.rank.toNat < c.nrank → off < c.len →
        let behind := (f.seq.toNat + 2 ^ 32 - no % 2 ^ 32) % 2 ^ 32
        let r := (c.rounds.find? (fun y => y.off == off)).getD { off, number := no, got := [], since := s.clk }
        let got := insert r.got f.rank.toNat x
        (2 ^ 31 ≤ behind → ∃ t, exec (.flitContribution port f) s = .next t ∧ t.mem = (bump s1 (c.status + 16) 1).mem ∧ t.coll gid = c) ∧
        (behind < 2 ^ 31 → got.length ≠ c.nrank → ∃ t, exec (.flitContribution port f) s = .next t ∧ t.mem = s.mem ∧
          t.coll gid = { c with rounds := c.rounds.filter (fun y => y.off != off) ++ [{ r with got := got }] }) ∧
        (behind < 2 ^ 31 → got.length = c.nrank → ∃ t, exec (.flitContribution port f) s = .next t ∧ roundEnded s t gid { r with got := got })) ∧
      (∀ m key, Memory.wf s.mem = true → f.type = 7 → field f.payload 12 32 = 0 → s.link.bars = [] → c.members.filter (fun y => y.dev == s.link.id) = [m] → plain m key →
        ∃ t, exec (.flitResult port f) s = .next t ∧ Memory.value t.mem key 4 = x.toNat ∧ lookup (t.coll gid).seen off = some (f.seq.toNat + 1) ∧
          Memory.value t.mem (hostKey c.status) 8 = (Memory.value s.mem (hostKey c.status) 8 + 1) % 2 ^ 64) ∧
      (∀ m, Memory.wf s.mem = true → f.type = 7 → field f.payload 12 32 = 0 → s.link.bars = [] → c.members.filter (fun y => y.dev == s.link.id) = [m] → translate s m.ctx (m.base + off) .write = .prot →
        ∃ t, exec (.flitResult port f) s = .next t ∧ Memory.value t.mem (hostKey c.status) 8 = Memory.value s.mem (hostKey c.status) 8 % 2 ^ 64))) ∧
  (∀ (s : State) (gid off : Nat) (r : Round),
    let c := s.coll gid
    c.rounds.find? (fun y => y.off == off) = some r → c.bound = true →
    ((c.timeout = 0 ∨ s.clk < r.since + c.timeout) → exec (.collectiveTimeout gid off) s = .next s) ∧
    (c.timeout ≠ 0 → r.since + c.timeout ≤ s.clk → c.held = [] → ∃ t, exec (.collectiveTimeout gid off) s = .next t ∧ roundEnded s t gid r))

/-- R442 to R445: tokens are placed so that no destination takes more than CAP, each in a slot of its own, and every token is placed or dropped; under policy 0 a token goes nowhere but to its own destination. A descriptor beyond its limits is refused with status 1; another is performed; an exchange ends once every target has answered, with its completion record and then DONE. A token of a peer lands where the inbound table lets it. R435, R437 to R440: BIND, FREE, a contribution at ROOT, a result and a round's timeout complete where nothing turns them away. The layout of tokens and contributions in their payload and the FAIL 2 answer to a token are the model's choice (log 12). -/
def Obligations.Exchanges : Prop :=
  (∀ (cap policy n : Nat) (ds : List (Nat × Nat)),
    let ts := (placeTokens cap policy ds { cnt := List.replicate n 0 }).1
    let p := (placeTokens cap policy ds { cnt := List.replicate n 0 }).2
    ts.length + p.drops = ds.length ∧ p.cnt.length = n ∧
    (∀ d < n, (ts.filter (fun t => t.2.1 == d)).length = p.cnt.getD d 0 ∧ p.cnt.getD d 0 ≤ cap) ∧
    (∀ t ∈ ts, t.2.1 < n ∧ t.2.2 < cap ∧ ∃ d, (t.1, d) ∈ ds ∧ (policy ≠ 1 → t.2.1 = d)) ∧
    (ts.map (fun t => (t.2.1, t.2.2))).Nodup) ∧
  (∀ (s : State) (fn : Nat), portsRun s = true →
    let c := xqCtx (s.func fn).xqctl
    let ring := (s.func fn).xqbase.toNat / 4096 * 4096
    (∀ e, (s.func fn).exchange = some e →
      (groupReqs s (exchangeAgent fn) = [] → exec (.exchange fn) s = .next (endExchange s fn c ring e (if e.failed then 2 else 0))) ∧
      (groupReqs s (exchangeAgent fn) ≠ [] → exec (.exchange fn) s = .next s)) ∧
    ((s.func fn).exchange = none →
      let n := xqLog (s.func fn).xqctl
      ((n < 4 ∨ 12 < n) → exec (.exchange fn) s = .next s) ∧
      (∀ ticket b s1, 4 ≤ n → n ≤ 12 → readTicket s c ring n = .ok (ticket, b, s1) →
        let d := xdescOf b
        let refused : Exchange := { seq := d.seq, compl := d.compl, drops := 0, reroutes := 0, failed := false }
        (d.seq ≠ (ticket + 1) % 2 ^ 64 → exec (.exchange fn) s = .next s) ∧
        (d.seq = (ticket + 1) % 2 ^ 64 → xdescOk b = false → exec (.exchange fn) s = .next (endExchange s1 fn c ring refused 1)) ∧
        (∀ src dests table s2, d.seq = (ticket + 1) % 2 ^ 64 → xdescOk b = true → readExchange s1 c d = .ok (src, dests, table, s2) →
          ((∃ k < d.ndest, zeros table (16 * k + 1) (16 * k + 8) = false) → exec (.exchange fn) s = .next (endExchange s2 fn c ring refused 1)) ∧
          ((∀ k < d.ndest, zeros table (16 * k + 1) (16 * k + 8) = true) → exec (.exchange fn) s = .next (performExchange s2 fn c d src dests table)))))) ∧
  (∀ (s : State) (fn c ring status : Nat) (e : Exchange) (s1 : State), e.areas = [] → let s0 := s.setFunc fn { s.func fn with exchange := none }
    s0.writeVA c e.compl (record 16 [(8, e.seq), (4, e.drops), (2, e.reroutes), (1, status)]) = .ok s1 →
    ∀ s2, s1.writeVA c (ring + 8) (leBytes 8 e.seq) = .ok s2 → endExchange s fn c ring e status = s2) ∧
  (∀ (s : State) (port : Nat) (f : Flit), port < 18 → (s.port port).up = true → f.crcOk = true → f.type = 8 → flitOk s f = true → portsRun s = true →
    s.link.performed.find? (fun x => x.source == f.src.toNat && x.seq == f.seq) = none →
    let s1 := s.setPort port { s.port port with fails := 0 }
    let pa := field f.payload 0 8
    let b := f.payload.drop 8
    (covered s f.src.toNat pa b.length = true → b ≠ [] → paOk pa = true → paOk (pa + b.length - 1) = true →
      exec (.flitExchangeToken port f) s = .next (answer (s1.devStore pa b) port 10 f (leBytes 2 0))) ∧
    (covered s f.src.toNat pa b.length = false → exec (.flitExchangeToken port f) s = .next (answer s1 port 10 f (leBytes 2 2)))) ∧
  (∀ (s : State) (fn gid off : Nat) (r : Round),
    let c := s.coll gid
    let at_ := (s.func fn).clsarg.toNat
    let b := hostBytes s at_ 64
    (clsIs s fn 1 gid = true → c.bound = false → at_ % 64 = 0 → collOk s gid b (hostBytes s (field b 16 8) (16 * min 256 (field b 0 2))) = true →
      ∃ t, exec (.bind fn gid) s = .next t ∧ (t.coll gid).bound = true ∧ t.mem = s.mem ∧ cmdGo (t.func fn).clscmd = false) ∧
    (clsIs s fn 2 gid = true → c.bound = true → c.rounds = [] → c.held = [] →
      ∃ t, exec (.free fn gid) s = .next t ∧ (t.coll gid).bound = false ∧ t.mem = s.mem ∧ cmdGo (t.func fn).clscmd = false) ∧
    (c.rounds.find? (fun y => y.off == off) = some r → c.bound = true → c.timeout ≠ 0 → r.since + c.timeout ≤ s.clk → c.held = [] →
      ∃ t, exec (.collectiveTimeout gid off) s = .next t ∧ ∀ y ∈ (t.coll gid).rounds, y.off ≠ off)) ∧
  (∀ (s : State) (port : Nat) (f : Flit), port < 18 → (s.port port).up = true → f.crcOk = true → flitOk s f = true → portsRun s = true →
    let c := s.coll f.gid.toNat
    let off := field f.payload 0 8
    let no := (lookup c.closed off).getD 0
    c.bound = true → c.inc = f.inc.toNat → c.held = [] →
    (f.type = 6 → c.root = s.link.id → f.rank.toNat < c.nrank → 1 < c.nrank → off < c.len → c.rounds = [] → f.seq.toNat = no % 2 ^ 32 →
      ∃ t, exec (.flitContribution port f) s = .next t ∧ t.mem = s.mem ∧
        (t.coll f.gid.toNat).rounds = [{ off, number := no, got := [(f.rank.toNat, BitVec.ofNat 32 (field f.payload 8 4))], since := s.clk }]) ∧
    (f.type = 7 → ∃ t, exec (.flitResult port f) s = .next t ∧ lookup (t.coll f.gid.toNat).seen off = some (f.seq.toNat + 1)))

/-- R356, R433, R446 to R449, R451 to R454, R472: ASSIGN gives a virtual function its pool; the security processor runs an image that it accepts, a schedule only while the ports are idle; FUSE raises the least version, ATTEST and CERT write their records at FWARG + 64; the inbound table is loaded; with CXL.cache down without the link every dirty host line is as it was; a host write lands, and an AtomicOp of the host is performed and completed; a BAR maps device memory. The place of FUSE's kind and the layout of an inbound entry are the model's (log 27), as are the ops of an AtomicOp (log 74). -/
def Obligations.HostPort : Prop :=
  ∀ (s : State),
    let f := s.func 0
    let at_ := f.fwarg.toNat
    (∀ target, cmdIs f.poolcmd 1 target = true →
      let b := hostBytes s f.poolarg.toNat 32
      let p := poolOf b
      let ok := target ≠ 0 ∧ target ≤ 64 ∧ zeros b 16 32 = true ∧ p.first + p.count ≤ 8192 ∧ poolOverlaps s target p = false
      (¬ ok → exec (.assign 0 target) s = .next (endPoolcmd s 0 4)) ∧
      (ok → poolBusy s target p = true → exec (.assign 0 target) s = .next (endPoolcmd s 0 3)) ∧
      (ok → poolBusy s target p = false → exec (.assign 0 target) s = .next (endPoolcmd
        (s.setFunc target { s.func target with poolPairs := p.pairs, poolFirst := p.first, poolCount := p.count, poolCtxs := p.ctxs }) 0 0))) ∧
    (fwIs s 0 1 = true → s.sec.pending = none →
      let h := hostBytes s at_ 256
      let fw : Firmware := { version := field h 8 4, digest := (h.drop 16).take 64, body := imageBody s at_ h }
      (imageAccepted s h (imageBody s at_ h) = false → exec (.load 0) s = .next (endFwcmd s 0 4)) ∧
      (imageAccepted s h (imageBody s at_ h) = true →
        (field h 4 1 = 1 → exec (.load 0) s = .next { s with sec := { s.sec with pending := some fw, pendingFn := 0 } }) ∧
        (field h 4 1 ≠ 1 → exec (.load 0) s = .next (endFwcmd { s with sec := { s.sec with running := insert s.sec.running (field h 4 1) fw } } 0 0)))) ∧
    (∀ fw, s.sec.pending = some fw →
      (portsIdle s = false → exec .portFirmwareStart s = .next s) ∧
      (portsIdle s = true → exec .portFirmwareStart s =
        .next (endFwcmd (startPorts fw { s with sec := { s.sec with running := insert s.sec.running 1 fw, pending := none } }) s.sec.pendingFn 0))) ∧
    (∀ kind, fwIs s 0 2 = true → cmdNum f.fwcmd = kind →
      ((kind = 0 ∨ 3 < kind) → exec (.fuse 0 kind) s = .next (endFwcmd s 0 4)) ∧
      (∀ fw, 1 ≤ kind → kind ≤ 3 → lookup s.sec.running kind = some fw →
        ∃ t, exec (.fuse 0 kind) s = .next t ∧ t.mem = s.mem ∧ t.func 0 = { f with fwcmd := cmdEnd f.fwcmd 0 } ∧
          minVersion t kind = max (minVersion s kind) fw.version ∧ ∀ k, k ≠ kind → minVersion t k = minVersion s k)) ∧
    (fwIs s 0 3 = true →
      let b := reportBody s (hostBytes s at_ 32)
      exec (.attest 0) s = .next (endFwcmd (s.hostStore (at_ + 64) (b ++ fit 114 (Config.sign b))) 0 0)) ∧
    (fwIs s 0 4 = true →
      (at_ % 64 = 0 → exec (.cert 0) s = .next (endFwcmd (s.hostStore (at_ + 64) certificate) 0 0)) ∧
      (at_ % 64 ≠ 0 → exec (.cert 0) s = .next (endFwcmd s 0 4))) ∧
    (f.fabcfg.getLsbD 16 = true → ∃ t, exec (.fabcfgInboundLoad 0) s = .next t ∧ t.mem = s.mem ∧ (t.func 0).fabcfg.getLsbD 16 = false ∧
      t.link.inbound = (List.range 64).map (inboundOf (hostBytes s (f.fabcfg.toNat / 2 ^ 22 * 2 ^ 22) 2048))) ∧
    (exec .cxlCacheUp s = .next { s with link := { s.link with lnkCache := true } }) ∧
    (s.link.lnkCache = false → ∀ up, exec (.cxlCacheDown up) s = .next s) ∧
    (s.link.lnkCache = true →
      exec (.cxlCacheDown true) s = .next { s with link := { s.link with lnkCache := false, dirtyHost := [] } } ∧
      (∀ x, s.link.dirtyHost = [x] → x.ctxs = [] → exec (.cxlCacheDown false) s =
        .next (State.poke { s with link := { s.link with lnkCache := false, dirtyHost := [] } } (x.line * 64) x.old)) ∧
      (∃ t, exec (.cxlCacheDown false) s = .next t ∧ t.link.lnkCache = false ∧ t.link.dirtyHost = [])) ∧
    (∀ bytes,
      (∀ a, ∃ t, exec (.hostWrite (.bus a) bytes) s = .next t ∧ t.mem = Memory.store s.mem (hostKey a) bytes ∧ t.groups = s.groups ∧
        ∀ x ∈ t.link.dirtyHost, x.line * 64 + 64 ≤ hostKey a ∨ hostKey a + bytes.length ≤ x.line * 64) ∧
      (∀ pa, (paOk pa = true → ∃ t, exec (.hostWrite (.device pa) bytes) s = .next t ∧ t.mem = (s.devStore pa bytes).mem ∧ (Memory.wf s.mem = true → Memory.bytes t.mem pa bytes.length = bytes) ∧
          t.groups = s.groups) ∧
        (paOk pa = false → exec (.hostWrite (.device pa) bytes) s = .next s))) ∧
    (∀ pa op size v c,
      let fits := (size = 4 ∨ size = 8) ∧ op ≤ 2 ∧ pa % size = 0 ∧ paOk pa = true
      let old := Memory.value s.mem pa size
      let new := match op with
        | 0 => (old + v.toNat) % 2 ^ (8 * size)
        | 1 => v.toNat % 2 ^ (8 * size)
        | _ => if old = c.toNat % 2 ^ (8 * size) then v.toNat % 2 ^ (8 * size) else old
      (fits → ∃ t, turnStep (.hostAtomic pa op size v c) s = .next t ∧ t.mem = (s.devStore pa (leBytes size new)).mem ∧ t.link.hostReplies = s.link.hostReplies ++ [some old]) ∧
      (¬ fits → ∃ t, turnStep (.hostAtomic pa op size v c) s = .next t ∧ t.mem = s.mem ∧ t.link.hostReplies = s.link.hostReplies ++ [none])) ∧
    (∀ io mem width, width ≤ 16 → turnStep (.hostLink io mem width) s = .next { s with link := { s.link with lnkIo := io, lnkMem := mem, width } }) ∧
    (∀ base len pa a, pa + len ≤ 2 ^ 41 → base + len ≤ 2 ^ 64 → base ≤ a → a < base + len →
      ∃ t, turnStep (.mapBar base len pa) s = .next t ∧ t.mem = s.mem ∧ hostBytes t a 1 = Memory.bytes s.mem (pa + (a - base)) 1)

/-! ### Bring-up, placement and a core's own steps -/

/-- R25, R133, R157, R161, R163, R166: RESET leaves flash and fuses, and of the rest nothing but the bytes of memory (log 17); the S-die comes up, or fails, and the stacks train in order, where what fails holds all that follows and is reported in the model's own field (log 70); after bring-up a context with AUTO comes back STOPPED from its newest valid generation, whose pages are held by frame (log 49), once no other context's run stands in its runs' slots (log 24); a team's groups start with the registers of R161; a group that has finished leaves its slot, and with the last one of a launch the launch goes. -/
def Obligations.BringUpAndPlacement : Prop :=
  (∀ s : State, ∃ t, exec .reset s = .next t ∧ t.mem = s.mem ∧
    t.sec = { fused := s.sec.fused, flash := s.sec.flash, failed := if (s.draw 2).1 = 0 then none else some .sDie } ∧ t.cores = [] ∧ t.groups = [] ∧ t.teams = [] ∧
    t.launches = [] ∧ t.jobs = [] ∧ t.ctxs = [] ∧ t.funcs = [] ∧ t.queues = [] ∧ t.faults = [] ∧ t.tlb = [] ∧ t.runs = [] ∧ t.link = {} ∧ t.evq = {} ∧ t.harts = [] ∧ t.clk = 0) ∧
  (∀ (s : State),
    (∀ x, (s.sec.failed ≠ none ∨ 16 ≤ s.sec.hbm) → exec (.stackTrainingComplete x) s = .next s) ∧
    (s.sec.failed = none → s.sec.hbm < 16 →
      exec (.stackTrainingComplete .trained) s = .next { s with sec := { s.sec with hbm := s.sec.hbm + 1 } } ∧
      exec (.stackTrainingComplete .stackFails) s = .next { s with sec := { s.sec with failed := some (.stack s.sec.hbm) } } ∧
      (s.sec.hbm % 4 = 0 → exec (.stackTrainingComplete .dieFails) s = .next { s with sec := { s.sec with failed := some (.die (s.sec.hbm / 4)) } })) ∧
    (∀ core, dieReady s core = true ↔ 4 * (core / 40 + 1) ≤ s.sec.hbm)) ∧
  (∀ (s : State) (ctx : Nat) (g : Generation), 16 ≤ s.sec.hbm → lookup s.ctxs ctx = none → newestValid s ctx = some g →
    (g.ctx.desc.auto = false → exec (.autoRestore ctx) s = .next s) ∧
    (g.ctx.desc.auto = true → (∃ r ∈ g.runs, lookup s.runs r.1 ≠ none) → exec (.autoRestore ctx) s = .next s) ∧
    (g.ctx.desc.auto = true → (∀ r ∈ g.runs, lookup s.runs r.1 = none) → ∃ t, exec (.autoRestore ctx) s = .next t ∧ t.ctx ctx = revived g ∧ (t.ctx ctx).state = .stopped ∧
      t.mem = g.pages.foldl (fun m p => Memory.store m p.1 p.2) s.mem ∧ t.launches = s.launches ++ g.launches ∧ t.runs = s.runs ++ g.runs)) ∧
  (∀ (s : State) (id : Nat) (l : Launch) (seat : Seat) (slots : List Nat), lookup s.launches id = some l → (s.ctx l.ctx).state = .active → laterLaunch s l = false →
    l.returned = [] → (l.record.chain ≠ [] ∨ (diesOf (s.ctx l.ctx).desc).length ≤ 1) → l.next < l.teams →
    let l1 := { l with next := l.next + 1 }
    let gs := placedGroups l l.next
    seatFor s id l1 l.next = some seat → noneHeld s id l1 l.next = true → slotsOk s l1 seat gs slots = true → gs ≠ [] →
    ∃ t team x, exec (.teamPlacement id slots) s = .next t ∧ lookup t.teams team = some x ∧ x.launch = id ∧ x.index = l.next ∧ x.cores = seat.cores ∧ x.groups = slots ∧
      ∀ p ∈ slots.zip gs, ∃ g, t.group p.1 = some g ∧ g.ctx = l.ctx ∧ g.launch = id ∧ g.team = team ∧ g.index = p.2 ∧ g.width = l.record.width ∧ g.entering = true ∧
        g.regs = firstRegs l p.2 l.next ∧ ∀ k < g.width, g.lane k = if l.isOff (p.2 * l.record.width + k) then .off else .run) ∧
  (∀ (s : State) (core slot : Nat) (g : Group) (l : Launch), s.group (groupKey core slot) = some g → lookup s.launches g.launch = some l → (s.ctx g.ctx).state = .active →
    (mayRetire s (groupKey core slot) g = false → exec (.groupRetire core slot) s = .next s) ∧
    (mayRetire s (groupKey core slot) g = true → ∃ t, exec (.groupRetire core slot) s = .next t ∧ t.group (groupKey core slot) = none ∧
      ((∃ x ∈ s.groups, x.1 ≠ groupKey core slot ∧ x.2.team = g.team) → t.mem = s.mem ∧ lookup t.launches g.launch = some { l with gone := l.gone ++ [g.index] }) ∧
      ((∀ x ∈ s.groups, x.1 ≠ groupKey core slot → x.2.team ≠ g.team) → l.teamsLeft = 1 → lookup t.launches g.launch = none)))

/-- R23, R24, R73, R106, R107, R113: the plane array idles after 4,096 clk and ramps 256 clk a step; a core's idleness and its placement limit; a line fetched again; a standpipe partition handed over, its dirty entries written back; an evicted group that fits comes back; a register's words are duplicated. Which group is evicted, and that it comes back only when it fits, is the model's reading (log 40); so is which group gives up its partition (log 51). -/
def Obligations.CoreHousekeeping : Prop :=
  ∀ (s : State) (core : Nat),
    let c := s.core core
    let a := c.array
    (a.idle = false → arrayBusy s core = false → a.since + 4096 ≤ s.clk →
      exec (.planeArrayIdle core) s = .next (s.setCore core { c with array := { idle := true, since := s.clk } })) ∧
    ((a.idle = true ∨ arrayBusy s core = true ∨ s.clk < a.since + 4096) → exec (.planeArrayIdle core) s = .next s) ∧
    (a.idle = false → a.step ≠ 0 → a.stepAt + 256 ≤ s.clk → exec (.rampStep core) s =
      .next (s.setCore core { c with array := { a with step := if a.step = 16 then 0 else a.step + 1, stepAt := a.stepAt + 256 } })) ∧
    (exec (.coreIdle core) s = .next (if isIdle s core then s.setCore core { c with idle := true } else s)) ∧
    (exec (.placementRateLimitEnd core) s = .next (s.setCore core { c with limited := isLimited s core })) ∧
    (∀ slot is b w pa, State.issue { s with env := { s.env with cur := .group core slot } } 0 false = some is →
      (is.g.refetch = false → exec (.lineRefetch core slot) s = .next s) ∧
      (is.g.refetch = true → fetchLine s is.g (lineOf is.pc) = .ok b w pa → ∃ t g, exec (.lineRefetch core slot) s = .next t ∧
        t.group (groupKey core slot) = some g ∧ g.line = some { addr := lineOf is.pc, bytes := b } ∧ g.refetch = false)) ∧
    (∀ holder taker h x, s.group (groupKey core holder) = some h → s.group (groupKey core taker) = some x → h.partition ≠ none → x.partition = none →
      waits s h = true → waits s x = false → ∃ t, exec (.partitionHandover core holder taker) s = .next t ∧ t.mem = s.mem ∧
        t.group (groupKey core holder) = some { cleanStaged h with partition := none, staged := [], since := s.clk } ∧ t.group (groupKey core taker) = some { x with partition := h.partition }) ∧
    (∀ hold part h x,
      let here := s.groups.filter (fun y => y.1 / 64 == core)
      longestHolder s (here.filter (fun y => y.2.partition.isSome)) core = some h → s.group h = some hold → hold.partition ≠ none →
      x ∈ here → x.2.partition = none → waits s x.2 = false → s.group x.1 = some x.2 →
      (∀ y ∈ here, y.2.partition = none → waits s y.2 = false → y ≠ x → x.2.since < y.2.since) →
      (∀ y ∈ here, y.2.partition ≠ none → waits s y.2 = false) → c.rotated + 256 ≤ s.clk → part = hold.partition →
      ∃ t, exec (.standpipeRotation core) s = .next t ∧ (t.core core).rotated = s.clk ∧ t.group h = some { cleanStaged hold with partition := none, staged := [], since := s.clk } ∧
        t.group x.1 = some { x.2 with partition := part }) ∧
    (∀ slot g, s.group (groupKey core slot) = some g → g.evicted = true →
      (coreWords s core + groupWords g ≤ mainFileWords → ∃ t g', exec (.evictedGroupRestore core slot) s = .next t ∧
        t.group (groupKey core slot) = some g' ∧ g'.evicted = false ∧ (∀ x, readRegs g.width g.saved = some x → g'.regs = (x.put g).regs) ∧ t.mem = s.mem) ∧
      (mainFileWords < coreWords s core + groupWords g → exec (.evictedGroupRestore core slot) s = .next s)) ∧
    (∀ slot g n, s.group (groupKey core slot) = some g → g.evicted = false → g.pend = [] → g.staged = [] → g.integrity.bad = [] → g.integrity.dups = [] →
      coreWords s core + dupWords s core + regWords g (128 + n) ≤ mainFileWords → ∀ k : Fin 64, k.val = n →
      exec (.duplicateCopy core slot (.s k)) s = .next (s.setGroup (groupKey core slot) { g with
        integrity := { g.integrity with dups := (List.range (regWords g (128 + n))).map (fun l => { reg := 128 + n, word := l }) } }))

/-! ### Contexts -/

/-- R116 to R118, R121 to R124, R472: a command is refused with ST 5 where the context is another function's and 3 where its state forbids it; CREATE opens a context, RESUME brings it in or has it wait for its slice, SUSPEND saves or stops it, CHECKPOINT takes it to CHECKPOINT or saves it first, KILL leaves nothing of it on the device. Of events in one clk KILL goes first, then a deadline, then a slice instant. A write to a command register starts its command, unless one stands there. ST is final at once (log 24). -/
def Obligations.ContextCommands : Prop :=
  (∀ (s : State) (fn ctx : Nat),
    let x := s.ctx ctx
    let w := (s.func fn).ctxcmd
    let noKill := ∀ y ∈ s.funcs, cmdIs y.2.ctxcmd 4 ctx = true → ownsCtx s y.1 ctx true = false
    let noSlice := nextSlice s ctx = none ∨ ∃ e t, nextSlice s ctx = some (.ok (e, t)) ∧ e.follows x.sliceLast = true ∧ timeNow s < 3 * e.instant
    let alone := noKill ∧ noSlice ∧ ∀ y ∈ s.launches, y.2.ctx = ctx → overdue s y.2 = false
    (cmdIs w 1 ctx = true →
      (x.state ≠ .free → exec (.create fn ctx) s = .next (endCtxcmd s fn (if x.owner = fn then 3 else 5))) ∧
      (x.state = .free →
        let at_ := (s.func fn).ctxdesc.toNat
        let b := hostBytes s at_ 256
        let d := descOf b
        ((at_ % 256 ≠ 0 ∨ descOk b = false ∨ poolOk s fn d = false ∨ ctxsFull s fn = true) → exec (.create fn ctx) s = .next (endCtxcmd s fn 4)) ∧
        (∀ q t, at_ % 256 = 0 → s.badLine (s.busKey at_) = false → descOk b = true → poolOk s fn d = true → ctxsFull s fn = false →
          openErrq (State.setCtx { s with tlb := s.tlb.filter (fun e => e.ctx != ctx) } ctx { owner := fn, desc := d, state := .opened, ckptClk := s.clk }) ctx d = some (q, t) →
          exec (.create fn ctx) s = .next (endCtxcmd (t.setCtx ctx { owner := fn, desc := d, state := .opened, ckptClk := s.clk, errq := q }) fn 0)))) ∧
    (cmdIs w 2 ctx = true →
      (x.state ≠ .free → ownsCtx s fn ctx false = false → exec (.resume fn ctx) s = .next (endCtxcmd s fn 5)) ∧
      (ownsCtx s fn ctx false = true →
        ((x.state ≠ .opened ∧ x.state ≠ .stopped ∧ x.state ≠ .halted) ∨ resumeBreaks s ctx = true → exec (.resume fn ctx) s = .next (endCtxcmd s fn 3)) ∧
        ((x.state = .opened ∨ x.state = .stopped ∨ x.state = .halted) → resumeBreaks s ctx = false →
          (x.desc.slice ≠ 0 → (∀ i, x.image = some i → i.restart = false ∨ i.ready = true) → ∃ t, exec (.resume fn ctx) s = .next t ∧ (t.ctx ctx).state = .out ∧ (t.func fn).ctxcmd = cmdEnd w 0 ∧ t.mem = s.mem ∧ t.groups = s.groups) ∧
          (x.desc.slice = 0 → x.image = none → ∃ t, exec (.resume fn ctx) s = .next t ∧ (t.ctx ctx).state = .active ∧ (t.func fn).ctxcmd = cmdEnd w 0 ∧ t.mem = s.mem ∧
            t.groups = s.groups ∧ (t.ctx ctx).heapWalked = true ∧ ∀ k ∈ coresOf x.desc, (t.core k).tags = [])))) ∧
    (cmdIs w 3 ctx = true → x.state ≠ .free →
      (ownsCtx s fn ctx true = false → exec (.suspend fn ctx) s = .next (endCtxcmd s fn 5)) ∧
      (ownsCtx s fn ctx true = true → x.state ≠ .killed → ¬ noKill → ∃ t, exec (.suspend fn ctx) s = .next t ∧ (t.ctx ctx).state = .killed) ∧
      (ownsCtx s fn ctx true = true → noKill → (∃ y ∈ s.launches, y.2.ctx = ctx ∧ overdue s y.2 = true) →
        ∃ t id, exec (.suspend fn ctx) s = .next t ∧ (t.ctx ctx).state = .saving ∧ (t.ctx ctx).saveFor = .deadline id) ∧
      (ownsCtx s fn ctx true = true → alone →
        (x.state = .active → exec (.suspend fn ctx) s = .next (endCtxcmd (s.setCtx ctx { x with state := .saving, saveFor := .switch, stopMark := true }) fn 0)) ∧
        (x.state = .saving → exec (.suspend fn ctx) s = .next (endCtxcmd (s.setCtx ctx { x with stopMark := true }) fn 0)) ∧
        (x.state = .out → exec (.suspend fn ctx) s = .next (endCtxcmd (s.setCtx ctx { x with state := .stopped, sliceDue := false }) fn 0)) ∧
        ((x.state = .opened ∨ x.state = .stopped ∨ x.state = .halted ∨ x.state = .checkpoint ∨ x.state = .killed) →
          exec (.suspend fn ctx) s = .next (endCtxcmd s fn 3)))) ∧
    (cmdIs w 4 ctx = true →
      (x.state = .free → exec (.kill fn ctx) s = .next (endCtxcmd s fn 3)) ∧
      (x.state ≠ .free → ownsCtx s fn ctx true = false → exec (.kill fn ctx) s = .next (endCtxcmd s fn 5)) ∧
      (x.state ≠ .free → x.state ≠ .killed → ownsCtx s fn ctx true = true → ∃ t, exec (.kill fn ctx) s = .next t ∧ (t.ctx ctx).state = .killed ∧
        (∀ y ∈ t.groups, y.2.ctx ≠ ctx) ∧ (∀ y ∈ t.teams, y.2.ctx ≠ ctx) ∧ (∀ y ∈ t.jobs, y.2.ctx ≠ ctx) ∧ (∀ y ∈ t.matops, y.2.ctx ≠ ctx) ∧
        (∀ y ∈ t.gateops, y.2.ctx ≠ ctx) ∧ (∀ e ∈ t.tlb, e.ctx ≠ ctx) ∧ (∀ e ∈ t.faults, e.ctx ≠ ctx))) ∧
    (cmdIs w 5 ctx = true → x.state ≠ .free →
      (ownsCtx s fn ctx false = false → exec (.checkpoint fn ctx) s = .next (endCtxcmd s fn 5)) ∧
      (ownsCtx s fn ctx false = true → alone → (∀ y ∈ s.funcs, cmdIs y.2.ctxcmd 3 ctx = false) →
        (x.state = .active → exec (.checkpoint fn ctx) s = .next (endCtxcmd (s.setCtx ctx { x with state := .saving, saveFor := .checkpoint, stopMark := false }) fn 0)) ∧
        ((x.state = .out ∨ x.state = .stopped ∨ x.state = .halted) →
          exec (.checkpoint fn ctx) s = .next (endCtxcmd (s.setCtx ctx { x with state := .checkpoint, prior := x.state }) fn 0)) ∧
        ((x.state = .opened ∨ x.state = .saving ∨ x.state = .checkpoint ∨ x.state = .killed) → exec (.checkpoint fn ctx) s = .next (endCtxcmd s fn 3))))) ∧
  (∀ (s : State) (fn off : Nat) (v : Dword),
    let f := s.func fn
    (64 < fn → exec (.registerWrite fn off v) s = .next s) ∧
    (fn ≤ 64 →
      (off = 0x1000 → cmdGo f.ctxcmd = true → exec (.registerWrite fn off v) s = .next (s.setFunc fn f)) ∧
      (off = 0x1000 → cmdGo f.ctxcmd = false → v.getLsbD 0 = true → ∃ t, exec (.registerWrite fn off v) s = .next t ∧ t.mem = s.mem ∧
        (1 ≤ cmdOp v → cmdOp v ≤ 5 → cmdIs (t.func fn).ctxcmd (cmdOp v) (cmdNum v) = true ∧ bits (t.func fn).ctxcmd.toNat 35 32 = 1) ∧
        ((cmdOp v = 0 ∨ 5 < cmdOp v) → cmdGo (t.func fn).ctxcmd = false ∧ bits (t.func fn).ctxcmd.toNat 35 32 = 2)) ∧
      (off = 0x1008 → exec (.registerWrite fn off v) s = .next (s.setFunc fn { f with ctxdesc := v })) ∧
      (off = 0x1068 → exec (.registerWrite fn off v) s = .next (s.setFunc fn { f with peertab := v })) ∧
      (fn ≠ 0 → off ∈ [0x1070, 0x1078, 0x1090, 0x1098, 0x10a0, 0x10a8, 0x10b0, 0x10c0] → exec (.registerWrite fn off v) s = .next (s.setFunc fn f)) ∧
      (fn = 0 → off = 0x10c0 → ∃ t, exec (.registerWrite fn off v) s = .next t ∧ t.func 0 = { f with evlbase := v } ∧
        t.evq = { addr := v.toNat, log2n := (Memory.read s.mem (s.busKey v.toNat)).toNat }) ∧
      (fn = 0 → off = 0x10b0 → ∃ t, exec (.registerWrite fn off v) s = .next t ∧ t.link.id = v.toNat % 65536 ∧ (t.func 0).fabcfg = v &&& fabcfgBits)))

/-- R118, R122 to R125, R127, R129 to R131: what brings a context from state to state by itself. The bytes an image takes (log 23), how a command's ST becomes final (log 24) and which devices a slice table goes to (log 48) are the model's, as are a generation's pages by frame and 0 for the first one's number before (log 49), and that flash without room for a generation takes none (log 75). -/
def Obligations.ContextEvents : Prop :=
  ∀ (s : State) (ctx : Nat),
    let x := s.ctx ctx
    let idle := ∀ y ∈ s.ctxs, y.2.sliceDue = false
    let noKill := ∀ y ∈ s.funcs, ∀ c, cmdIs y.2.ctxcmd 4 c = false
    (x.state = .killed → (∀ r ∈ s.link.reqs, r.2.ctx ≠ ctx) → idle → ∃ t, exec (.killComplete ctx) s = .next t ∧ t.ctx ctx = {} ∧ t.mem = s.mem ∧
      ∀ fn f, lookup s.funcs fn = some f → lookup t.funcs fn = some (if cmdIs f.ctxcmd 4 ctx then { f with ctxcmd := cmdEnd f.ctxcmd 0 } else f)) ∧
    (x.state ≠ .killed → exec (.killComplete ctx) s = .next s) ∧
    ((x.desc.ckpt = 0 ∨ s.clk < x.ckptClk + x.desc.ckpt * 2 ^ 24) → exec (.checkpointInterval ctx) s = .next s) ∧
    (x.desc.ckpt ≠ 0 → x.ckptClk + x.desc.ckpt * 2 ^ 24 ≤ s.clk → (∀ y ∈ s.launches, y.2.ctx = ctx → overdue s y.2 = false) → noKill →
      (nextSlice s ctx = none ∨ ∃ e t, nextSlice s ctx = some (.ok (e, t)) ∧ e.follows x.sliceLast = true ∧ timeNow s < 3 * e.instant) →
      (∀ y ∈ s.funcs, cmdIs y.2.ctxcmd 3 ctx = false) → x.state = .active →
      exec (.checkpointInterval ctx) s = .next (s.setCtx ctx { x with state := .saving, saveFor := .checkpoint, stopMark := false })) ∧
    (x.state ≠ .checkpoint → exec (.checkpointComplete ctx) s = .next s) ∧
    (x.state = .checkpoint → x.prior ≠ .active → idle → (∀ i, x.image = some i → i.restart = true ∨ ∃ b s1, s.readVA ctx i.area i.bytes.length = .ok (b, s1)) →
      flashUsed s.sec.flash + 65536 * (((flashOf s ctx).head?.map (·.pages.length)).getD 0 + (devicePages s ctx).length) + (imageBytes x).length ≤ flashBytes →
      ∃ t, exec (.checkpointComplete ctx) s = .next t ∧ (t.ctx ctx).state = x.prior ∧
      (t.ctx ctx).generation = x.generation + 1 ∧ (t.ctx ctx).ckptClk = s.clk ∧ (flashOf t ctx).length ≤ 2 ∧
      ∃ g, (flashOf t ctx).head? = some g ∧ g.number = x.generation + 1 ∧ g.valid = true ∧
        ∀ p ∈ devicePages s ctx, (x.generation = 0 ∨ (BitVec.ofNat 64 (Memory.value s.mem p.2.2 8)).getLsbD 56 = true) →
          lookup g.pages (leafFrame p.2.1) = some (Memory.bytes s.mem (leafFrame p.2.1) 65536)) ∧
    (∀ area room t n, x.state = .saving → quiet s ctx = true → askAreas s ctx = none → saveArea x = (area, room) → takeImage s ctx area room = (t, n) → (n ≤ room ∨ x.saveFor.isDump = true) → idle →
      ∃ t', exec (.saveComplete ctx) s = .next t' ∧ (∀ y ∈ t'.groups, y.2.ctx ≠ ctx) ∧ (∀ y ∈ t'.jobs, y.2.ctx ≠ ctx) ∧ (∀ e ∈ t'.faults, e.ctx ≠ ctx) ∧
        (t'.ctx ctx).image = (t.ctx ctx).image ∧ (t'.ctx ctx).stopMark = false ∧
        (x.saveFor = .switch → (t'.ctx ctx).state = if x.stopMark then .stopped else .out) ∧
        (∀ id, x.saveFor = .deadline id → (t'.ctx ctx).state = .halted) ∧
        (x.saveFor = .checkpoint → (t'.ctx ctx).state = .checkpoint ∧ (t'.ctx ctx).prior = if x.stopMark then .stopped else .active)) ∧
    ((x.state ≠ .saving ∨ quiet s ctx = false) → exec (.saveComplete ctx) s = .next s) ∧
    (∀ s', x.state = .saving → quiet s ctx = true → askAreas s ctx = some s' → exec (.saveComplete ctx) s = .next s') ∧
    (∀ id l, lookup s.launches id = some l → l.ctx = ctx → noKill →
      (overdue s l = false → exec (.deadline id) s = .next s) ∧
      (overdue s l = true → ∃ t, exec (.deadline id) s = .next t ∧ (t.ctx ctx).state = .saving ∧ (t.ctx ctx).saveFor = .deadline id ∧
        lookup t.launches id = some { l with monitored := false } ∧ (t.func x.desc.func).waiting = (s.func x.desc.func).waiting ++ [(0, deadlineFault ctx l)])) ∧
    (∀ b s1, inUse x = true → x.desc.slice ≠ 0 → x.sliceAgreed = true → x.sliceOff = false → s.readVA ctx (x.desc.slice + 16 * x.sliceNext) 16 = .ok (b, s1) →
      let e := sliceOf b
      noKill →
      (e.follows x.sliceLast = true → timeNow s < 3 * e.instant → exec (.sliceInstant ctx) s = .next s) ∧
      (e.follows x.sliceLast = false → ∃ t, exec (.sliceInstant ctx) s = .next t ∧ (t.ctx ctx).sliceOff = true) ∧
      ((∀ y ∈ s.launches, overdue s y.2 = false) → e.follows x.sliceLast = true → 3 * e.instant ≤ timeNow s → e.ctx ∉ sharers s1 ctx →
      ∃ t, exec (.sliceInstant ctx) s = .next t ∧ (t.ctx ctx).sliceLast = e.instant ∧ (t.ctx ctx).sliceNext = (x.sliceNext + 1) % max 1 x.desc.nslice ∧
        (x.state = .active → (t.ctx ctx).state = .saving))) ∧
    (∀ gang b s1, inUse x = true → x.desc.slice ≠ 0 → x.sliceOff = false → s.readVA ctx x.desc.slice (16 * x.desc.nslice) = .ok (b, s1) →
      let all := ∀ d ∈ gang, ∃ p, lookup s.link.slices d = some p ∧ p.complete = true
      let same := ∀ d ∈ gang, ∃ p, lookup s.link.slices d = some p ∧ p.bytes = b
      (all → same → tableAscends b x.desc.nslice = true → ∃ t, exec (.sliceTableExchange ctx gang) s = .next t ∧ (t.ctx ctx).sliceAgreed = true ∧ t.mem = s.mem) ∧
      (all → (¬ same ∨ tableAscends b x.desc.nslice = false) → ∃ t, exec (.sliceTableExchange ctx gang) s = .next t ∧ (t.ctx ctx).sliceOff = true) ∧
      (¬ all → x.sliceSent = true → exec (.sliceTableExchange ctx gang) s = .next s1) ∧
      (¬ all → x.sliceSent = false → upPorts s (2 ^ 18 - 1) ≠ [] → ∃ t, exec (.sliceTableExchange ctx gang) s = .next t ∧ (t.ctx ctx).sliceSent = true ∧ t.mem = s.mem)) ∧
    (s.link.timeSynced = false → exec .timeSyncLost s = .next s) ∧
    (s.link.timeSynced = true → ∃ t, exec .timeSyncLost s = .next t ∧ t.link.timeSynced = false ∧ t.groups = s.groups) ∧
    (x.errq.waiting = [] → exec (.errqHeadPoll (some ctx)) s = .next s) ∧
    (∀ r s1 s2, x.errq.waiting = [r] → errqFull s ctx = .ok false → s.setCtx ctx { x with errq := { x.errq with waiting := [] } } = s1 → errqWrite s1 ctx r = .ok s2 →
      (s2.ctx ctx).errq.waiting = [] → exec (.errqHeadPoll (some ctx)) s = .next s2) ∧
    (s.evq.waiting = [] → exec (.errqHeadPoll none) s = .next s) ∧
    (∀ r, s.evq.waiting = [r] → evFull s = false → exec (.errqHeadPoll none) s = .next (evWrite { s with evq := { s.evq with waiting := [] } } r))

/-! ### Queues, packets and queue programs -/

/-- R134 to R141, R144, R148: ENABLE, DISABLE and RESTART move a queue or are refused; a change of state is followed by the status word; a packet whose PH is the expected phase is taken; a free unit takes the waiting queue that no other goes before; a doorbell tests an idle queue's slot, and wakes a blocked one. ST of DISABLE is final at once (log 20). -/
def Obligations.Queues : Prop :=
  ∀ (s : State) (n : Nat),
    let q := s.queue n
    (∀ x s', (s.setQueue n x).writeVA x.desc.ctx x.desc.status (statusBytes x (ringTag (s.setQueue n x) x)) = .ok s' → moveQueue s n x = s'.setQueue n { x with sinceStatus := 0 }) ∧
    (∀ fn op i, (op, i) ∈ [(1, Instr.enable fn n), (2, .disable fn n), (3, .restart fn n)] → qcmdIs s fn op n = true → queueOwner s n ≠ fn → exec i s = .next (endQcmd s fn 5)) ∧
    (∀ fn, qcmdIs s fn 1 n = true → queueOwner s n = fn →
      let at_ := (s.func fn).qarg.toNat
      let b := hostBytes s at_ 64
      (q.state ≠ .disabled → exec (.enable fn n) s = .next (endQcmd s fn 3)) ∧
      (q.state = .disabled →
        ((at_ % 64 ≠ 0 ∨ queueDescOk b = false ∨ ((queueDescOf b).bucket = true ∧ (fn ≠ 0 ∨ 64 ≤ bucketQueues s)) ∨ (s.ctx (queueDescOf b).ctx).state = .free) →
          exec (.enable fn n) s = .next (endQcmd s fn 4)) ∧
        (enableSt s fn at_ b = 0 → exec (.enable fn n) s = .next (endQcmd (moveQueue s n { state := .idle, desc := queueDescOf b }) fn 0)))) ∧
    (∀ fn, qcmdIs s fn 2 n = true → queueOwner s n = fn →
      ((q.state = .disabled ∨ q.state = .draining) → exec (.disable fn n) s = .next (endQcmd s fn 3)) ∧
      (q.state = .active → q.packet ≠ [] → exec (.disable fn n) s = .next (endQcmd (s.setQueue n { q with disabling := true }) fn 0)) ∧
      ((q.state = .idle ∨ q.state = .blocked ∨ q.state = .error ∨ (q.state = .active ∧ q.packet = [])) → exec (.disable fn n) s =
        .next (endQcmd (moveQueue s n { q with state := .draining, disabling := false, packet := [], run := none, unit := none, hold := false }) fn 0))) ∧
    (∀ fn, qcmdIs s fn 3 n = true → queueOwner s n = fn →
      let a := (s.func fn).qarg.toNat
      (q.state ≠ .error → exec (.restart fn n) s = .next (endQcmd s fn 3)) ∧
      (q.state = .error → (2 ^ 17 ≤ a ∨ q.desc.size ≤ a % 65536) → exec (.restart fn n) s = .next (endQcmd s fn 4)) ∧
      (q.state = .error → a < 2 ^ 17 → a % 65536 < q.desc.size → exec (.restart fn n) s =
        .next (endQcmd (moveQueue s n { q with state := .idle, ri := a % 65536, phase := a.testBit 16, error := 0, progError := 0, serial := q.serial + 1 }) fn 0))) ∧
    (q.state = .draining → q.work = [] → exec (.drainComplete n) s = .next (moveQueue s n { q with state := .disabled })) ∧
    ((q.state ≠ .draining ∨ q.work ≠ []) → exec (.drainComplete n) s = .next s) ∧
    (mayFetch s q = false → exec (.packetFetch n) s = .next s) ∧
    (mayFetch s q = true →
      (∀ f, s.readVA q.desc.ctx q.slotVA 64 = .error f → exec (.packetFetch n) s = .next (faultPacket s n f)) ∧
      (∀ b s1, s.readVA q.desc.ctx q.slotVA 64 = .ok (b, s1) →
        let x := { q with state := .active, packet := b, waitSince := s.clk }
        ((field b 1 1).testBit 0 ≠ q.phase → exec (.packetFetch n) s = .next (if q.state = .idle then s1 else moveQueue s1 n { q with state := .idle, packet := [] })) ∧
        ((field b 1 1).testBit 0 = q.phase → q.state = .active → headerError x = none → exec (.packetFetch n) s = .next (s1.setQueue n x)) ∧
        (∀ code, (field b 1 1).testBit 0 = q.phase → q.state = .active → headerError x = some code → exec (.packetFetch n) s = .next (failPacket (s1.setQueue n x) n code)) ∧
        ((field b 1 1).testBit 0 = q.phase → q.state = .idle → ((moveQueue s1 n x).queue n).state = .active → headerError x = none →
          exec (.packetFetch n) s = .next (moveQueue s1 n x)))) ∧
    (exec (.queuePoll n) s = if q.state = .idle then exec (.packetFetch n) s else .next s) ∧
    (q.state = .idle → exec (.doorbell n) s = exec (.packetFetch n) s) ∧
    (isBlocked s n false = true → exec (.doorbell n) s = exec (.waitvalRecheck n) s) ∧
    (isBlocked s n true = true → exec (.doorbell n) s = .next (rerunProgram s n)) ∧
    (q.state ≠ .idle → q.state ≠ .blocked → exec (.doorbell n) s = .next s) ∧
    (∀ unit, unit < 32 → (∀ y ∈ s.queues, y.2.unit ≠ some unit) →
      (nextQueue s = none → exec (.unitAssignment unit) s = .next s) ∧
      (∀ k x, nextQueue s = some (k, x) → waitsUnit s x = true ∧ (∀ y ∈ s.queues, waitsUnit s y.2 = true → takenBefore s.clk y.2 x = false) ∧
        exec (.unitAssignment unit) s = .next (s.setQueue k { x with
          unit := some unit, run := if x.prog = 0 then x.run else some (x.run.getD { prog := x.prog }) })))

/-- R143, R144, R145, R153, R167: what each packet does once a unit holds it and FENCE lets it start; a packet with a field beyond its limits puts the queue into error 2; a COPY completes; `spawn` enters a launch or says why not. Which addresses a COPY may name and what its records hold are the model's readings (log 19), as are the signals of a packet at its end and the TAG of a status word (log 20), and that every launch not completed counts as pending for `spawn`'s answer 3 (log 44). -/
def Obligations.Packets : Prop :=
  (∀ (s : State) (n : Nat),
    let q := s.queue n
    let c := q.desc.ctx
    let a := q.byte 8 8
    let done := q.byte 56 8
    let flags := q.byte 1 1 / 8 = 0
    (∀ type i, (type, i) ∈ [(0, Instr.nopPacket n), (1, .launch n), (2, .copy n), (3, .waitval n), (4, .writeval n), (5, .run n), (6, .program n)] →
      (mayPerform s n type = false → exec i s = .next s) ∧
      (mayPerform s n type = true → ¬ flags → exec i s = .next (failPacket s n 2))) ∧
    (flags →
      (mayPerform s n 0 = true →
        (zeros q.packet 8 64 = false → exec (.nopPacket n) s = .next (failPacket s n 2)) ∧
        (zeros q.packet 8 64 = true → q.disabling = false → q.sinceStatus + 1 < 64 →
          let ri := if q.ri + 1 < q.desc.size then q.ri + 1 else 0
          exec (.nopPacket n) s = .next { s with
            queues := insert s.queues n { q with
              ri, phase := if ri = 0 then !q.phase else q.phase, state := .active, packet := [], run := none, unit := none, hold := false
              serial := q.serial + 1, sinceStatus := q.sinceStatus + 1 }
            irqs := if q.irq then s.irqs ++ [((s.ctx c).desc.func, q.desc.msix)] else s.irqs })) ∧
      (mayPerform s n 1 = true →
        let ok := zeros q.packet 28 56 = true ∧ a % 128 = 0 ∧ done % 8 = 0
        (¬ ok → exec (.launch n) s = .next (failPacket s n 2)) ∧
        (∀ id s1, ok → enterLaunch s c a (q.byte 16 4, q.byte 20 4, q.byte 24 4) none (.packet n q.tag done q.irq) none = .ok id s1 →
          exec (.launch n) s = .next (consume (addWork s1 n (.launch id)) n false)) ∧
        (∀ s1, ok → enterLaunch s c a (q.byte 16 4, q.byte 20 4, q.byte 24 4) none (.packet n q.tag done q.irq) none = .bad s1 →
          exec (.launch n) s = .next (failPacket s1 n 9)) ∧
        (∀ f, ok → enterLaunch s c a (q.byte 16 4, q.byte 20 4, q.byte 24 4) none (.packet n q.tag done q.irq) none = .fault f →
          exec (.launch n) s = .next (faultPacket s n f))) ∧
      (mayPerform s n 2 = true →
        let len := q.byte 24 8
        let ok := zeros q.packet 32 56 = true ∧ 1 ≤ len ∧ len ≤ 2 ^ 40 ∧ done % 8 = 0 ∧ copyPlaceOk (s.ctx c) a len = true ∧ copyPlaceOk (s.ctx c) (q.byte 16 8) len = true
        (¬ ok → exec (.copy n) s = .next (failPacket s n 2)) ∧
        (ok → exec (.copy n) s = .next (consume (addWork { s with
          nextId := s.nextId + 1
          copies := insert s.copies s.nextId { ctx := c, queue := n, src := a, dst := q.byte 16 8, len, tag := q.tag, completion := done, irq := q.irq, die := (diesOf (s.ctx c).desc).headD 0 } }
          n (.copy s.nextId)) n false))) ∧
      (mayPerform s n 3 = true →
        let ok := zeros q.packet 33 64 = true ∧ a % 8 = 0 ∧ q.byte 32 1 ≤ 3
        (¬ ok → exec (.waitval n) s = .next (failPacket s n 2)) ∧
        (∀ b s1, ok → s.readVA c a 8 = .ok (b, s1) →
          let y := leNat b &&& q.byte 24 8
          let met := match q.byte 32 1 with
            | 0 => y = q.byte 16 8
            | 1 => y ≠ q.byte 16 8
            | 2 => q.byte 16 8 ≤ y
            | _ => y < q.byte 16 8
          (met → exec (.waitval n) s = .next (consume s1 n q.irq)) ∧ (¬ met → exec (.waitval n) s = .next (blockQueue s1 n false))) ∧
        (∀ f, ok → s.readVA c a 8 = .error f → exec (.waitval n) s = .next (faultPacket s n f))) ∧
      (mayPerform s n 4 = true →
        let k := q.byte 24 1
        let ok := zeros q.packet 26 64 = true ∧ (k = 4 ∨ k = 8) ∧ q.byte 25 1 ≤ 1 ∧ a % k = 0
        (¬ ok → exec (.writeval n) s = .next (failPacket s n 2)) ∧
        (∀ s1, ok → q.byte 25 1 = 0 → s.writeVA c a (leBytes k (q.byte 16 8)) = .ok s1 → exec (.writeval n) s = .next (consume s1 n q.irq)) ∧
        (∀ b s1 s2, ok → q.byte 25 1 = 1 → s.readVA c a k .atomic = .ok (b, s1) → s1.writeVA c a (leBytes k (leNat b + q.byte 16 8)) = .ok s2 →
          exec (.writeval n) s = .next (consume s2 n q.irq))) ∧
      (mayPerform s n 5 = true →
        let die := q.byte 17 1
        let ok := zeros q.packet 18 56 = true ∧ a % 256 = 0 ∧ q.byte 16 1 ≤ 63 ∧ die ≤ 3 ∧ done % 8 = 0
        (¬ ok → exec (.run n) s = .next (failPacket s n 2)) ∧
        (∀ b s1, ok → s.readVA c a 256 = .ok (b, s1) →
          (field b 0 1 ≠ q.byte 16 1 → exec (.run n) s = .next (failPacket s1 n 9)) ∧
          (field b 0 1 = q.byte 16 1 → field b 48 8 = 0 →
            let opened := openRun s1 c (40 * die) die none (q.byte 16 1) a none b ([], []) (some { queue := n, tag := q.tag, completion := done, irq := q.irq })
            (∀ code s2, opened = .code code s2 → exec (.run n) s = .next (failPacket s2 n 9)) ∧
            (∀ h s2 r, opened = .ok h s2 → lookup s2.runs h = some r → exec (.run n) s = .next (consume (startRun (addWork s2 n (.run h)) h r 0) n false))))) ∧
      (mayPerform s n 6 = true →
        let id := q.byte 16 2
        let count := q.byte 18 2
        let ok := zeros q.packet 20 64 = true ∧ a % 64 = 0 ∧ 1 ≤ id ∧ id ≤ q.desc.nprog ∧ 1 ≤ count ∧ count ≤ 4064
        (¬ ok → exec (.program n) s = .next (failPacket s n 2)) ∧
        (∀ b s1, ok → s.readVA c a (128 + 4 * count) = .ok (b, s1) →
          (imageOk q.desc.bucket b count = false → exec (.program n) s = .next (failPacket s1 n 3)) ∧
          (∀ s2, imageOk q.desc.bucket b count = true → s1.writeVA c (q.desc.progArea + 16384 * (id - 1)) b = .ok s2 →
            exec (.program n) s = .next (consume (s2.setQueue n { q with slots := insert q.slots id (programOf b count) }) n q.irq))))) ∧
    (isBlocked s n false = false → exec (.waitvalRecheck n) s = .next s) ∧
    (∀ s1, isBlocked s n false = true → actWaitval s q = .blocked s1 → exec (.waitvalRecheck n) s = .next s1) ∧
    (∀ s1, isBlocked s n false = true → actWaitval s q = .done s1 → ((moveQueue s1 n { q with state := .active }).queue n).state = .active →
      exec (.waitvalRecheck n) s = .next (consume (moveQueue s1 n { q with state := .active }) n (signalsAtEnd q))) ∧
    ((isBlocked s n true = false ∨ (q.woken = false ∧ s.clk < q.blockedAt + 16384)) → exec (.programRerun n) s = .next s) ∧
    (∀ b s1, isBlocked s n true = true → (q.woken = true ∨ q.blockedAt + 16384 ≤ s.clk) → s.readVA c q.slotVA 64 = .ok (b, s1) →
      exec (.programRerun n) s = .next (moveQueue s1 n { q with
        state := .active, packet := b, hold := false, waitSince := s1.clk, run := q.run.map (fun r => { prog := r.prog, acts := r.acts, started := true }) })) ∧
    (∀ (writer : Writer) (s1 : State) at_ len w k, (at_, len) ∈ s1.env.wrote → at_ ≤ k → k < at_ + len →
      q.state = .blocked → q.hold = true → (s1.queue n).state = .blocked → (s1.queue n).hold = true → w ∈ (s1.queue n).windows →
      inWindow s1 (s1.queue n).desc.ctx w k = true → ((noteStores writer s s1).queue n).woken = true)) ∧
  (∀ (s : State) (id : Nat) (x : CopyJob), lookup s.copies id = some x →
    (copyEnded s id x = false → exec (.copyComplete id) s = .next s) ∧
    (copyEnded s id x = true → x.failCode = 0 → x.completion = 0 → ∃ t, exec (.copyComplete id) s = .next t ∧ lookup t.copies id = none ∧ t.mem = s.mem ∧
      t.irqs = (if x.irq then s.irqs ++ [((s.ctx x.ctx).desc.func, (s.queue x.queue).desc.msix)] else s.irqs) ∧ ∀ y ∈ (t.queue x.queue).work, y.2 ≠ .copy id) ∧
    (∀ s1, copyEnded s id x = true → x.failCode = 0 → x.completion ≠ 0 → s.writeVA x.ctx x.completion (leBytes 8 (x.tag.toNat * 2 ^ 32)) = .ok s1 →
      ∃ t, exec (.copyComplete id) s = .next t ∧ lookup t.copies id = none ∧ t.mem = s1.mem)) ∧
  (∀ (s : State) (h : Nat) (rd rs1 : Fin 32), s.env.cur = .hart h →
    let x := (lookup s.harts h).getD {}
    let addr := (x.x.getD rs1.val 0).toNat
    let answers := fun (s1 : State) (code : Nat) => exec (.spawn rd rs1) s = .next { s1 with
      harts := insert s1.harts h { x with pc := x.pc + 4, x := if rd = 0 then x.x else x.x.set rd.val (BitVec.ofNat 64 code) } }
    (ctxOfAsid s x.asid = none → answers s 1) ∧
    (∀ c, ctxOfAsid s x.asid = some c →
      let entered := enterLaunch s c addr (0, 0, 0) (some ((List.range 8).map (fun k => x.x.getD (10 + k) 0))) .spawn none
      (256 ≤ launchesOf s c → answers s 3) ∧
      (∀ id s1, launchesOf s c < 256 → entered = .ok id s1 → answers s1 0) ∧
      (∀ s1, launchesOf s c < 256 → entered = .bad s1 → answers s1 2)))

/-- R147, R150, R152, R154, R155: what each Busoron instruction does in its queue; the 513th instruction of a packet gives error 4 and an access outside its window error 5. What `qbucket` keeps of the packet, how `qdone` ends it, and `qnvme`'s tail doorbell of 4 bytes and alignment of 8 are the model's readings (log 20). -/
def Obligations.QueuePrograms : Prop :=
  (∀ (s : State) (n : Nat) (q : Queue) (r : ProgRun) a k m j x i, s.env.cur = .queue n → s.queue n = q → q.run = some r → servesCtx s q.desc.ctx = true →
    i ∈ busoronOf a k m j x →
    (r.started = false → q.fence = true → (∃ y ∈ q.work, y.1 ≠ q.serial) → exec i s = .next s) ∧
    ((r.started = true ∨ q.fence = false ∨ ∀ y ∈ q.work, y.1 = q.serial) → 512 ≤ r.count → q.word.isSome = true → exec i s = .next (failPacket s n 4))) ∧
  (∀ (s : State) (n : Nat) (q : Queue) (r : ProgRun), Runs s n q r →
    let s0 := s.setQueue n (during q r)
    let goes := fun (i : Instr) (t : State) (x : Queue) => exec i s = .next (t.setQueue n (following x r))
    let c := q.desc.ctx
    (∀ o : QA, let a := regOf q o.ra
      let b := regOf q o.rb
      goes (.qadd o) s (withReg q o.rd (a + b)) ∧ goes (.qsub o) s (withReg q o.rd (a + (2 ^ 64 - b))) ∧
      goes (.qand o) s (withReg q o.rd (a &&& b)) ∧ goes (.qor o) s (withReg q o.rd (a ||| b)) ∧ goes (.qxor o) s (withReg q o.rd (a ^^^ b)) ∧
      goes (.qshl o) s (withReg q o.rd (a * 2 ^ (b % 64))) ∧ goes (.qshr o) s (withReg q o.rd (a / 2 ^ (b % 64))) ∧
      goes (.qmul o) s (withReg q o.rd (a * b)) ∧ goes (.qminu o) s (withReg q o.rd (min a b)) ∧ goes (.qmaxu o) s (withReg q o.rd (max a b))) ∧
    (∀ o : QK, let a := regOf q o.ra
      let k := o.imm.toNat
      let sext := if 2 ^ 17 ≤ k then k + (2 ^ 64 - 2 ^ 18) else k
      goes (.qli o) s (withReg q o.rd sext) ∧ goes (.qlis o) s (withReg q o.rd (a * 2 ^ 18 + k)) ∧
      goes (.qaddi o) s (withReg q o.rd (a + sext)) ∧ goes (.qandi o) s (withReg q o.rd (a &&& k)) ∧
      goes (.qshli o) s (withReg q o.rd (a * 2 ^ k)) ∧ goes (.qshri o) s (withReg q o.rd (a / 2 ^ k)) ∧
      exec (.qrep o) s = .next (s.setQueue n (following q { r with reps := { first := r.pc + 1, stop := r.pc + 1 + k % 1024, left := k / 1024 + 1 } :: r.reps }))) ∧
    (∀ o : QM, let off := regOf q o.ra + o.off.toNat
      let k := 2 ^ o.size.val
      (∀ w, windowOfRun q r o.win = some w → windowFits w off k k →
        (∀ b s1, s0.readVA c (w.base + off) k = .ok (b, s1) → goes (.qld o) s1 (withReg q o.rd (leNat b))) ∧
        (∀ f, s0.readVA c (w.base + off) k = .error f → exec (.qld o) s = .next (faultPacket s0 n f)) ∧
        (∀ s1, s0.writeVA c (w.base + off) (leBytes k (regOf q o.rd)) = .ok s1 → goes (.qst o) s1 q) ∧
        (∀ f, s0.writeVA c (w.base + off) (leBytes k (regOf q o.rd)) = .error f → exec (.qst o) s = .next (faultPacket s0 n f))) ∧
      ((∀ w, windowOfRun q r o.win = some w → ¬ windowFits w off k k) →
        exec (.qld o) s = .next (failPacket s0 n 5) ∧ exec (.qst o) s = .next (failPacket s0 n 5)) ∧
      goes (.qldp o) s (withReg q o.rd (field q.packet o.off.toNat k)) ∧
      (q.packet.length = 64 → o.off.toNat + k ≤ 64 → ∃ p, p.length = 64 ∧
        (∀ j, p.getD j 0 = if o.off.toNat ≤ j ∧ j < o.off.toNat + k then BitVec.ofNat 8 (regOf q o.rd / 256 ^ (j - o.off.toNat)) else q.packet.getD j 0) ∧
        goes (.qstp o) s { q with packet := p })) ∧
    (∀ o : QJ, let d := o.disp.toInt
      let t := fun (i : Instr) => exec i s = .next (s.setQueue n (branched q r d))
      (if regOf q o.ra = regOf q o.rb then t (.qbeq o) ∧ goes (.qbne o) s q else t (.qbne o) ∧ goes (.qbeq o) s q) ∧
      (if regOf q o.ra < regOf q o.rb then t (.qbltu o) ∧ goes (.qbgeu o) s q else t (.qbgeu o) ∧ goes (.qbltu o) s q) ∧ t (.qjmp o)) ∧
    (∀ (o : QA) b s1, s0.readVA c q.desc.buckets 1024 = .ok (b, s1) →
      let v := fun k => (q.regs.getD (o.ra.val + k) 0).toNat
      let inside := fun e => field b (64 * e + 24) 8 ≠ 0 ∧ ∀ k < 3, field b (64 * e + 4 * k) 4 ≤ v k ∧ v k ≤ field b (64 * e + 12 + 4 * k) 4
      ((∀ e < 16, ¬ inside e) → goes (.qbucket o) s1 (withReg q o.rd (2 ^ 64 - 1))) ∧
      (∀ e < 16, inside e → (∀ e' < e, ¬ inside e') →
        goes (.qbucket o) s1 (withReg { q with packet := bucketPacket q.packet (field b (64 * e + 24) 8) (v 0) (v 1) (v 2) } o.rd e))) ∧
    (fenceHolds q = false →
      ((q.type ∉ [1, 2, 4, 5] ∨ 8 ≤ r.acts) → exec .qact s = .next (failPacket s0 n 2)) ∧
      (∀ s1, q.type ∈ [1, 2, 4, 5] → r.acts < 8 → act s0 n (during q r) = .done s1 →
        exec .qact s = .next (s1.setQueue n (following (s1.queue n) { r with acts := r.acts + 1 }))) ∧
      (∀ s1 code, q.type ∈ [1, 2, 4, 5] → r.acts < 8 → act s0 n (during q r) = .error s1 code → exec .qact s = .next (failPacket s1 n code)) ∧
      (∀ f, q.type ∈ [1, 2, 4, 5] → r.acts < 8 → act s0 n (during q r) = .fault f → exec .qact s = .next (faultPacket s0 n f)) ∧
      exec .qpass s = .next (performPacket s0 n)) ∧
    (fenceHolds q = true → exec .qpass s = .next s ∧ (q.type ∈ [1, 2, 4, 5] → r.acts < 8 → exec .qact s = .next s)) ∧
    (∀ o : QM, let t := regOf q o.rd
      let off := regOf q o.ra + o.off.toNat
      (3 < t → exec (.qnvme o) s = .next (failPacket s0 n 5)) ∧
      (∀ w e s1 cmd s2 s3, t ≤ 3 → q.desc.nvme ≠ 0 → windowOfRun q r o.win = some w → windowFits w off 64 8 →
        s0.readVA c (q.desc.nvme + 32 * t) 32 = .ok (e, s1) → 2 ≤ field e 8 4 → field e 8 4 ≤ 65536 → s1.readVA c (w.base + off) 64 = .ok (cmd, s2) →
        let tail := field e 24 4
        let next := (tail + 1) % field e 8 4
        (s2.hostStore (field e 0 8 + 64 * tail) cmd).writeVA c (q.desc.nvme + 32 * t + 24) (leBytes 4 next) = .ok s3 →
        goes (.qnvme o) (s3.hostStore (field e 16 8) (leBytes 4 next)) q)) ∧
    exec .qdone s = .next (consume s0 n false) ∧
    exec .qhold s = .next (blockQueue s0 n true) ∧
    (∀ ra, exec (.qfail ra) s = .next (failPacket (s.setQueue n { during q r with progError := regOf q ra % 65536 }) n 8)))

/-! ### The whole machine -/

/-- R76 to R95, R149, R150, R167: the word of a well-formed instruction decodes to it with every operand, and a word that decodes is the word of its instruction, which passes every encoding check. -/
def Obligations.EncodeThenDecode : Prop :=
  (∀ i n w, WellFormed i = true → encode i = some (n, w) → (n = 96 ∨ n = 32) ∧ w < 2 ^ n ∧ decodeTableWord n w = some i) ∧
  (∀ n w i, w < 2 ^ n → decodeTableWord n w = some i → WellFormed i = true ∧ encode i = some (n, w))

/-- R76 to R92, R149, R150, R167: words written out field by field from the manual's tables decode to the instructions they stand for, and a slot of zeros to none (R72). -/
def Obligations.DecodeWords : Prop :=
  decodeTableWord 96 0x1100007fc040000000000005 = some (.movi { d := .v 1, a := .none, pred := 0, neg := false, ty := .i32, imm := 5 }) ∧
  decodeTableWord 96 0x10000040407fc00010000000 = some (.add {
    look := 0, d := .v 1, a := .v 1, b := .v 1, c := .none, ka := 0, kb := 0, kc := 0, pub := false, pred := 0, neg := false, ty := .i32
    rnd := .rn, sat := false, imm := 0 }) ∧
  decodeTableWord 32 0x80840003 = some (.qbeq { ra := 2, rb := 1, disp := 3 }) ∧
  decodeTableWord 32 0x0002950b = some (.spawn 10 5) ∧
  decode96 0 = .bad .illegalOperand

/-- A step executes what its agent has fetched: the issue selector's group the slot at its issue address, from the line it holds or has just fetched (R73 to R75, R174); an interpreter unit the word its program stands at, or `qpass` past the last (R147, R150); a hart the word it has fetched, `spawn` (R167) or another (R450); a step of the device itself. Around it the step does what stores do beside what they write (R153, R271, R294, R450), which is nothing while no operation is in flight, no program is held and no hart holds a reservation. That an arrived result waits for room in the main file is `fitEvent`'s (log 40). -/
def Obligations.StepRunsIssued : Prop :=
  (∀ (writer : Writer) (s t : State), (t.env.wrote = [] ∨ (s.jobs = [] ∧ s.matops = [] ∧ s.gateops = [] ∧ anyHeld s = false ∧ anyReserved s = false)) →
    noteStores writer s t = { t with env := { t.env with wrote := [] } }) ∧
  ∀ (s s0 : State),
    let noted := fun (turn : Turn) (x : Host.Outcome State Fault Refusal) => match x with
      | .next t => .next (noteStores turn.writer s0 t)
      | y => y
    (∀ core key rest is (b : List Byte) i s1, nextMove s = (.issue core, s0) → candidates s0 core = key :: rest →
      let sa := s0.as (.group (key / 64) (key % 64))
      sa.issue 0 false = some is → is.g.refetch = false → is.g.entering = false → pcOk is.pc = true →
      ((∃ x, is.g.line = some x ∧ x.addr = lineOf is.pc ∧ x.bytes = b ∧ s1 = sa) ∨
        (∃ w pa, is.g.line = none ∧ fetchLine sa is.g (lineOf is.pc) = .ok b w pa ∧ lineParity b = true ∧
          s1 = (sa.used is.g.ctx (lineOf is.pc) .fetch w pa).onGroup is.key (fun g => { g with line := some { addr := lineOf is.pc, bytes := b }, refetch := false }))) →
      wordZeros (lineWord b) = true → wordParity (lineWord b) = true → slotParity b (slotOf is.pc) = true →
      decodeTableWord 96 (lineSlot b (slotOf is.pc)) = some i → illegalHere is (lineSlot b (slotOf is.pc)) = false →
      (∀ t, exec i s1 = .next t → coreWords t (key / 64) + dupWords t (key / 64) ≤ mainFileWords → t.env.held = false →
        step s = .next (noteStores .other s0 t)) ∧
      (∀ f, exec i s1 = .fault f → step s = .fault f)) ∧
    (∀ u n q w i, nextMove s = (.interp u, s0) → unitQueue s0 u = some (n, q) → q.state = .active → q.word = some w → decodeTableWord 32 w.toNat = some i →
      w.toNat / 2 ^ 26 ≠ 0 → step s = noted (.interp u) (exec i (s0.as (.queue n)))) ∧
    (∀ u n q, nextMove s = (.interp u, s0) → unitQueue s0 u = some (n, q) → q.state = .active → q.word = none → q.run.isSome = true →
      step s = noted (.interp u) (exec .qpass (s0.as (.queue n)))) ∧
    (∀ h w, nextMove s = (.hart h, s0) → (lookup s0.sec.running 2).isSome = true → h < 16 → (s0.hart h).word = some w →
      let taken := s0.setHart h { s0.hart h with word := none }
      (∀ i, decodeSpawn w.toNat = some i → step s = noted (.hart h) (exec i (taken.as (.hart h)))) ∧
      (decodeSpawn w.toNat = none → step s = noted (.hart h) (.next (hartWord h w taken)))) ∧
    (∀ i, nextMove s = (.event i, s0) → encode i = none → step s = noted (.event i) (match exec i ((forEvent i s0).as .none) with
      | .next t => .next (fitEvent i s0 t)
      | y => y)) ∧
    (∀ i t, (∀ core slot, i ≠ .longLatencyResult core slot) → fitEvent i s0 t = t)

/-- What the machine is right after reset: every context FREE, every queue disabled, every register of every function zero, nothing dispatched, launched or started, no translation kept, and memory in its canonical form. DESIGN CHOICE (log 4) where the manual states no reset value. -/
def Obligations.ResetState : Prop :=
  let s := State.reset
  Memory.wf s.mem = true ∧ (∀ k, Memory.read s.mem k = Memory.unlisted) ∧ (∀ n, (s.ctx n).state = .free) ∧ (∀ n, (s.queue n).state = .disabled) ∧
  (∀ fn, s.func fn = {}) ∧ s.groups = [] ∧ s.teams = [] ∧ s.launches = [] ∧ s.jobs = [] ∧ s.matops = [] ∧ s.gateops = [] ∧ s.copies = [] ∧
  s.faults = [] ∧ s.runs = [] ∧ s.tlb = [] ∧ s.irqs = [] ∧ s.sec.hbm = 0 ∧ s.sec.running = [] ∧
  (∀ core, (s.core core).array = {} ∧ (s.core core).tags = []) ∧ (∀ h, ∀ r ∈ (s.hart h).x, r = 0)

/-- Every step keeps memory in its canonical form: keys strictly rise, and no entry holds what an unlisted byte reads as. -/
def Obligations.StepKeepsMemoryCanonical : Prop :=
  ∀ (s t : State), Memory.wf s.mem = true → step s = .next t → Memory.wf t.mem = true
end

