-- ==== Sys2Proof/Laws/State.lean ====
section
/-! SUPPORT. Laws/State: what each update of the state and of a group leaves in each field, true by unfolding. -/
namespace Sys2Proof.Machine

/-! ### State.setGroup -/

@[simp] theorem State.setGroup_env (s : State) (k : Nat) (g : Group) : (s.setGroup k g).env = s.env := rfl
@[simp] theorem State.setGroup_clk (s : State) (k : Nat) (g : Group) : (s.setGroup k g).clk = s.clk := rfl
@[simp] theorem State.setGroup_mem (s : State) (k : Nat) (g : Group) : (s.setGroup k g).mem = s.mem := rfl
@[simp] theorem State.setGroup_badLines (s : State) (k : Nat) (g : Group) : (s.setGroup k g).badLines = s.badLines := rfl
@[simp] theorem State.setGroup_cores (s : State) (k : Nat) (g : Group) : (s.setGroup k g).cores = s.cores := rfl
@[simp] theorem State.setGroup_groups (s : State) (k : Nat) (g : Group) : (s.setGroup k g).groups = insert s.groups k g := rfl
@[simp] theorem State.setGroup_teams (s : State) (k : Nat) (g : Group) : (s.setGroup k g).teams = s.teams := rfl
@[simp] theorem State.setGroup_launches (s : State) (k : Nat) (g : Group) : (s.setGroup k g).launches = s.launches := rfl
@[simp] theorem State.setGroup_jobs (s : State) (k : Nat) (g : Group) : (s.setGroup k g).jobs = s.jobs := rfl
@[simp] theorem State.setGroup_matops (s : State) (k : Nat) (g : Group) : (s.setGroup k g).matops = s.matops := rfl
@[simp] theorem State.setGroup_gateops (s : State) (k : Nat) (g : Group) : (s.setGroup k g).gateops = s.gateops := rfl
@[simp] theorem State.setGroup_copies (s : State) (k : Nat) (g : Group) : (s.setGroup k g).copies = s.copies := rfl
@[simp] theorem State.setGroup_ctxs (s : State) (k : Nat) (g : Group) : (s.setGroup k g).ctxs = s.ctxs := rfl
@[simp] theorem State.setGroup_funcs (s : State) (k : Nat) (g : Group) : (s.setGroup k g).funcs = s.funcs := rfl
@[simp] theorem State.setGroup_queues (s : State) (k : Nat) (g : Group) : (s.setGroup k g).queues = s.queues := rfl
@[simp] theorem State.setGroup_faults (s : State) (k : Nat) (g : Group) : (s.setGroup k g).faults = s.faults := rfl
@[simp] theorem State.setGroup_ticketSeqs (s : State) (k : Nat) (g : Group) : (s.setGroup k g).ticketSeqs = s.ticketSeqs := rfl
@[simp] theorem State.setGroup_tlb (s : State) (k : Nat) (g : Group) : (s.setGroup k g).tlb = s.tlb := rfl
@[simp] theorem State.setGroup_fills (s : State) (k : Nat) (g : Group) : (s.setGroup k g).fills = s.fills := rfl
@[simp] theorem State.setGroup_hinted (s : State) (k : Nat) (g : Group) : (s.setGroup k g).hinted = s.hinted := rfl
@[simp] theorem State.setGroup_runs (s : State) (k : Nat) (g : Group) : (s.setGroup k g).runs = s.runs := rfl
@[simp] theorem State.setGroup_link (s : State) (k : Nat) (g : Group) : (s.setGroup k g).link = s.link := rfl
@[simp] theorem State.setGroup_sec (s : State) (k : Nat) (g : Group) : (s.setGroup k g).sec = s.sec := rfl
@[simp] theorem State.setGroup_evq (s : State) (k : Nat) (g : Group) : (s.setGroup k g).evq = s.evq := rfl
@[simp] theorem State.setGroup_harts (s : State) (k : Nat) (g : Group) : (s.setGroup k g).harts = s.harts := rfl
@[simp] theorem State.setGroup_irqs (s : State) (k : Nat) (g : Group) : (s.setGroup k g).irqs = s.irqs := rfl
@[simp] theorem State.setGroup_nextId (s : State) (k : Nat) (g : Group) : (s.setGroup k g).nextId = s.nextId := rfl

/-! ### State.setCore -/

@[simp] theorem State.setCore_env (s : State) (k : Nat) (x : Core) : (s.setCore k x).env = s.env := rfl
@[simp] theorem State.setCore_clk (s : State) (k : Nat) (x : Core) : (s.setCore k x).clk = s.clk := rfl
@[simp] theorem State.setCore_mem (s : State) (k : Nat) (x : Core) : (s.setCore k x).mem = s.mem := rfl
@[simp] theorem State.setCore_badLines (s : State) (k : Nat) (x : Core) : (s.setCore k x).badLines = s.badLines := rfl
@[simp] theorem State.setCore_cores (s : State) (k : Nat) (x : Core) : (s.setCore k x).cores = insert s.cores k x := rfl
@[simp] theorem State.setCore_groups (s : State) (k : Nat) (x : Core) : (s.setCore k x).groups = s.groups := rfl
@[simp] theorem State.setCore_teams (s : State) (k : Nat) (x : Core) : (s.setCore k x).teams = s.teams := rfl
@[simp] theorem State.setCore_launches (s : State) (k : Nat) (x : Core) : (s.setCore k x).launches = s.launches := rfl
@[simp] theorem State.setCore_jobs (s : State) (k : Nat) (x : Core) : (s.setCore k x).jobs = s.jobs := rfl
@[simp] theorem State.setCore_matops (s : State) (k : Nat) (x : Core) : (s.setCore k x).matops = s.matops := rfl
@[simp] theorem State.setCore_gateops (s : State) (k : Nat) (x : Core) : (s.setCore k x).gateops = s.gateops := rfl
@[simp] theorem State.setCore_copies (s : State) (k : Nat) (x : Core) : (s.setCore k x).copies = s.copies := rfl
@[simp] theorem State.setCore_ctxs (s : State) (k : Nat) (x : Core) : (s.setCore k x).ctxs = s.ctxs := rfl
@[simp] theorem State.setCore_funcs (s : State) (k : Nat) (x : Core) : (s.setCore k x).funcs = s.funcs := rfl
@[simp] theorem State.setCore_queues (s : State) (k : Nat) (x : Core) : (s.setCore k x).queues = s.queues := rfl
@[simp] theorem State.setCore_faults (s : State) (k : Nat) (x : Core) : (s.setCore k x).faults = s.faults := rfl
@[simp] theorem State.setCore_ticketSeqs (s : State) (k : Nat) (x : Core) : (s.setCore k x).ticketSeqs = s.ticketSeqs := rfl
@[simp] theorem State.setCore_tlb (s : State) (k : Nat) (x : Core) : (s.setCore k x).tlb = s.tlb := rfl
@[simp] theorem State.setCore_fills (s : State) (k : Nat) (x : Core) : (s.setCore k x).fills = s.fills := rfl
@[simp] theorem State.setCore_hinted (s : State) (k : Nat) (x : Core) : (s.setCore k x).hinted = s.hinted := rfl
@[simp] theorem State.setCore_runs (s : State) (k : Nat) (x : Core) : (s.setCore k x).runs = s.runs := rfl
@[simp] theorem State.setCore_link (s : State) (k : Nat) (x : Core) : (s.setCore k x).link = s.link := rfl
@[simp] theorem State.setCore_sec (s : State) (k : Nat) (x : Core) : (s.setCore k x).sec = s.sec := rfl
@[simp] theorem State.setCore_evq (s : State) (k : Nat) (x : Core) : (s.setCore k x).evq = s.evq := rfl
@[simp] theorem State.setCore_harts (s : State) (k : Nat) (x : Core) : (s.setCore k x).harts = s.harts := rfl
@[simp] theorem State.setCore_irqs (s : State) (k : Nat) (x : Core) : (s.setCore k x).irqs = s.irqs := rfl
@[simp] theorem State.setCore_nextId (s : State) (k : Nat) (x : Core) : (s.setCore k x).nextId = s.nextId := rfl

/-! ### State.setTeam -/

@[simp] theorem State.setTeam_env (s : State) (k : Nat) (x : Team) : (s.setTeam k x).env = s.env := rfl
@[simp] theorem State.setTeam_clk (s : State) (k : Nat) (x : Team) : (s.setTeam k x).clk = s.clk := rfl
@[simp] theorem State.setTeam_mem (s : State) (k : Nat) (x : Team) : (s.setTeam k x).mem = s.mem := rfl
@[simp] theorem State.setTeam_badLines (s : State) (k : Nat) (x : Team) : (s.setTeam k x).badLines = s.badLines := rfl
@[simp] theorem State.setTeam_cores (s : State) (k : Nat) (x : Team) : (s.setTeam k x).cores = s.cores := rfl
@[simp] theorem State.setTeam_groups (s : State) (k : Nat) (x : Team) : (s.setTeam k x).groups = s.groups := rfl
@[simp] theorem State.setTeam_teams (s : State) (k : Nat) (x : Team) : (s.setTeam k x).teams = insert s.teams k x := rfl
@[simp] theorem State.setTeam_launches (s : State) (k : Nat) (x : Team) : (s.setTeam k x).launches = s.launches := rfl
@[simp] theorem State.setTeam_jobs (s : State) (k : Nat) (x : Team) : (s.setTeam k x).jobs = s.jobs := rfl
@[simp] theorem State.setTeam_matops (s : State) (k : Nat) (x : Team) : (s.setTeam k x).matops = s.matops := rfl
@[simp] theorem State.setTeam_gateops (s : State) (k : Nat) (x : Team) : (s.setTeam k x).gateops = s.gateops := rfl
@[simp] theorem State.setTeam_copies (s : State) (k : Nat) (x : Team) : (s.setTeam k x).copies = s.copies := rfl
@[simp] theorem State.setTeam_ctxs (s : State) (k : Nat) (x : Team) : (s.setTeam k x).ctxs = s.ctxs := rfl
@[simp] theorem State.setTeam_funcs (s : State) (k : Nat) (x : Team) : (s.setTeam k x).funcs = s.funcs := rfl
@[simp] theorem State.setTeam_queues (s : State) (k : Nat) (x : Team) : (s.setTeam k x).queues = s.queues := rfl
@[simp] theorem State.setTeam_faults (s : State) (k : Nat) (x : Team) : (s.setTeam k x).faults = s.faults := rfl
@[simp] theorem State.setTeam_ticketSeqs (s : State) (k : Nat) (x : Team) : (s.setTeam k x).ticketSeqs = s.ticketSeqs := rfl
@[simp] theorem State.setTeam_tlb (s : State) (k : Nat) (x : Team) : (s.setTeam k x).tlb = s.tlb := rfl
@[simp] theorem State.setTeam_fills (s : State) (k : Nat) (x : Team) : (s.setTeam k x).fills = s.fills := rfl
@[simp] theorem State.setTeam_hinted (s : State) (k : Nat) (x : Team) : (s.setTeam k x).hinted = s.hinted := rfl
@[simp] theorem State.setTeam_runs (s : State) (k : Nat) (x : Team) : (s.setTeam k x).runs = s.runs := rfl
@[simp] theorem State.setTeam_link (s : State) (k : Nat) (x : Team) : (s.setTeam k x).link = s.link := rfl
@[simp] theorem State.setTeam_sec (s : State) (k : Nat) (x : Team) : (s.setTeam k x).sec = s.sec := rfl
@[simp] theorem State.setTeam_evq (s : State) (k : Nat) (x : Team) : (s.setTeam k x).evq = s.evq := rfl
@[simp] theorem State.setTeam_harts (s : State) (k : Nat) (x : Team) : (s.setTeam k x).harts = s.harts := rfl
@[simp] theorem State.setTeam_irqs (s : State) (k : Nat) (x : Team) : (s.setTeam k x).irqs = s.irqs := rfl
@[simp] theorem State.setTeam_nextId (s : State) (k : Nat) (x : Team) : (s.setTeam k x).nextId = s.nextId := rfl

/-! ### State.setLaunch -/

@[simp] theorem State.setLaunch_env (s : State) (k : Nat) (x : Launch) : (s.setLaunch k x).env = s.env := rfl
@[simp] theorem State.setLaunch_clk (s : State) (k : Nat) (x : Launch) : (s.setLaunch k x).clk = s.clk := rfl
@[simp] theorem State.setLaunch_mem (s : State) (k : Nat) (x : Launch) : (s.setLaunch k x).mem = s.mem := rfl
@[simp] theorem State.setLaunch_badLines (s : State) (k : Nat) (x : Launch) : (s.setLaunch k x).badLines = s.badLines := rfl
@[simp] theorem State.setLaunch_cores (s : State) (k : Nat) (x : Launch) : (s.setLaunch k x).cores = s.cores := rfl
@[simp] theorem State.setLaunch_groups (s : State) (k : Nat) (x : Launch) : (s.setLaunch k x).groups = s.groups := rfl
@[simp] theorem State.setLaunch_teams (s : State) (k : Nat) (x : Launch) : (s.setLaunch k x).teams = s.teams := rfl
@[simp] theorem State.setLaunch_launches (s : State) (k : Nat) (x : Launch) : (s.setLaunch k x).launches = insert s.launches k x := rfl
@[simp] theorem State.setLaunch_jobs (s : State) (k : Nat) (x : Launch) : (s.setLaunch k x).jobs = s.jobs := rfl
@[simp] theorem State.setLaunch_matops (s : State) (k : Nat) (x : Launch) : (s.setLaunch k x).matops = s.matops := rfl
@[simp] theorem State.setLaunch_gateops (s : State) (k : Nat) (x : Launch) : (s.setLaunch k x).gateops = s.gateops := rfl
@[simp] theorem State.setLaunch_copies (s : State) (k : Nat) (x : Launch) : (s.setLaunch k x).copies = s.copies := rfl
@[simp] theorem State.setLaunch_ctxs (s : State) (k : Nat) (x : Launch) : (s.setLaunch k x).ctxs = s.ctxs := rfl
@[simp] theorem State.setLaunch_funcs (s : State) (k : Nat) (x : Launch) : (s.setLaunch k x).funcs = s.funcs := rfl
@[simp] theorem State.setLaunch_queues (s : State) (k : Nat) (x : Launch) : (s.setLaunch k x).queues = s.queues := rfl
@[simp] theorem State.setLaunch_faults (s : State) (k : Nat) (x : Launch) : (s.setLaunch k x).faults = s.faults := rfl
@[simp] theorem State.setLaunch_ticketSeqs (s : State) (k : Nat) (x : Launch) : (s.setLaunch k x).ticketSeqs = s.ticketSeqs := rfl
@[simp] theorem State.setLaunch_tlb (s : State) (k : Nat) (x : Launch) : (s.setLaunch k x).tlb = s.tlb := rfl
@[simp] theorem State.setLaunch_fills (s : State) (k : Nat) (x : Launch) : (s.setLaunch k x).fills = s.fills := rfl
@[simp] theorem State.setLaunch_hinted (s : State) (k : Nat) (x : Launch) : (s.setLaunch k x).hinted = s.hinted := rfl
@[simp] theorem State.setLaunch_runs (s : State) (k : Nat) (x : Launch) : (s.setLaunch k x).runs = s.runs := rfl
@[simp] theorem State.setLaunch_link (s : State) (k : Nat) (x : Launch) : (s.setLaunch k x).link = s.link := rfl
@[simp] theorem State.setLaunch_sec (s : State) (k : Nat) (x : Launch) : (s.setLaunch k x).sec = s.sec := rfl
@[simp] theorem State.setLaunch_evq (s : State) (k : Nat) (x : Launch) : (s.setLaunch k x).evq = s.evq := rfl
@[simp] theorem State.setLaunch_harts (s : State) (k : Nat) (x : Launch) : (s.setLaunch k x).harts = s.harts := rfl
@[simp] theorem State.setLaunch_irqs (s : State) (k : Nat) (x : Launch) : (s.setLaunch k x).irqs = s.irqs := rfl
@[simp] theorem State.setLaunch_nextId (s : State) (k : Nat) (x : Launch) : (s.setLaunch k x).nextId = s.nextId := rfl

/-! ### State.setQueue -/

@[simp] theorem State.setQueue_env (s : State) (k : Nat) (x : Queue) : (s.setQueue k x).env = s.env := rfl
@[simp] theorem State.setQueue_clk (s : State) (k : Nat) (x : Queue) : (s.setQueue k x).clk = s.clk := rfl
@[simp] theorem State.setQueue_mem (s : State) (k : Nat) (x : Queue) : (s.setQueue k x).mem = s.mem := rfl
@[simp] theorem State.setQueue_badLines (s : State) (k : Nat) (x : Queue) : (s.setQueue k x).badLines = s.badLines := rfl
@[simp] theorem State.setQueue_cores (s : State) (k : Nat) (x : Queue) : (s.setQueue k x).cores = s.cores := rfl
@[simp] theorem State.setQueue_groups (s : State) (k : Nat) (x : Queue) : (s.setQueue k x).groups = s.groups := rfl
@[simp] theorem State.setQueue_teams (s : State) (k : Nat) (x : Queue) : (s.setQueue k x).teams = s.teams := rfl
@[simp] theorem State.setQueue_launches (s : State) (k : Nat) (x : Queue) : (s.setQueue k x).launches = s.launches := rfl
@[simp] theorem State.setQueue_jobs (s : State) (k : Nat) (x : Queue) : (s.setQueue k x).jobs = s.jobs := rfl
@[simp] theorem State.setQueue_matops (s : State) (k : Nat) (x : Queue) : (s.setQueue k x).matops = s.matops := rfl
@[simp] theorem State.setQueue_gateops (s : State) (k : Nat) (x : Queue) : (s.setQueue k x).gateops = s.gateops := rfl
@[simp] theorem State.setQueue_copies (s : State) (k : Nat) (x : Queue) : (s.setQueue k x).copies = s.copies := rfl
@[simp] theorem State.setQueue_ctxs (s : State) (k : Nat) (x : Queue) : (s.setQueue k x).ctxs = s.ctxs := rfl
@[simp] theorem State.setQueue_funcs (s : State) (k : Nat) (x : Queue) : (s.setQueue k x).funcs = s.funcs := rfl
@[simp] theorem State.setQueue_queues (s : State) (k : Nat) (x : Queue) : (s.setQueue k x).queues = insert s.queues k x := rfl
@[simp] theorem State.setQueue_faults (s : State) (k : Nat) (x : Queue) : (s.setQueue k x).faults = s.faults := rfl
@[simp] theorem State.setQueue_ticketSeqs (s : State) (k : Nat) (x : Queue) : (s.setQueue k x).ticketSeqs = s.ticketSeqs := rfl
@[simp] theorem State.setQueue_tlb (s : State) (k : Nat) (x : Queue) : (s.setQueue k x).tlb = s.tlb := rfl
@[simp] theorem State.setQueue_fills (s : State) (k : Nat) (x : Queue) : (s.setQueue k x).fills = s.fills := rfl
@[simp] theorem State.setQueue_hinted (s : State) (k : Nat) (x : Queue) : (s.setQueue k x).hinted = s.hinted := rfl
@[simp] theorem State.setQueue_runs (s : State) (k : Nat) (x : Queue) : (s.setQueue k x).runs = s.runs := rfl
@[simp] theorem State.setQueue_link (s : State) (k : Nat) (x : Queue) : (s.setQueue k x).link = s.link := rfl
@[simp] theorem State.setQueue_sec (s : State) (k : Nat) (x : Queue) : (s.setQueue k x).sec = s.sec := rfl
@[simp] theorem State.setQueue_evq (s : State) (k : Nat) (x : Queue) : (s.setQueue k x).evq = s.evq := rfl
@[simp] theorem State.setQueue_harts (s : State) (k : Nat) (x : Queue) : (s.setQueue k x).harts = s.harts := rfl
@[simp] theorem State.setQueue_irqs (s : State) (k : Nat) (x : Queue) : (s.setQueue k x).irqs = s.irqs := rfl
@[simp] theorem State.setQueue_nextId (s : State) (k : Nat) (x : Queue) : (s.setQueue k x).nextId = s.nextId := rfl

/-! ### State.setFunc -/

@[simp] theorem State.setFunc_env (s : State) (k : Nat) (x : Func) : (s.setFunc k x).env = s.env := rfl
@[simp] theorem State.setFunc_clk (s : State) (k : Nat) (x : Func) : (s.setFunc k x).clk = s.clk := rfl
@[simp] theorem State.setFunc_mem (s : State) (k : Nat) (x : Func) : (s.setFunc k x).mem = s.mem := rfl
@[simp] theorem State.setFunc_badLines (s : State) (k : Nat) (x : Func) : (s.setFunc k x).badLines = s.badLines := rfl
@[simp] theorem State.setFunc_cores (s : State) (k : Nat) (x : Func) : (s.setFunc k x).cores = s.cores := rfl
@[simp] theorem State.setFunc_groups (s : State) (k : Nat) (x : Func) : (s.setFunc k x).groups = s.groups := rfl
@[simp] theorem State.setFunc_teams (s : State) (k : Nat) (x : Func) : (s.setFunc k x).teams = s.teams := rfl
@[simp] theorem State.setFunc_launches (s : State) (k : Nat) (x : Func) : (s.setFunc k x).launches = s.launches := rfl
@[simp] theorem State.setFunc_jobs (s : State) (k : Nat) (x : Func) : (s.setFunc k x).jobs = s.jobs := rfl
@[simp] theorem State.setFunc_matops (s : State) (k : Nat) (x : Func) : (s.setFunc k x).matops = s.matops := rfl
@[simp] theorem State.setFunc_gateops (s : State) (k : Nat) (x : Func) : (s.setFunc k x).gateops = s.gateops := rfl
@[simp] theorem State.setFunc_copies (s : State) (k : Nat) (x : Func) : (s.setFunc k x).copies = s.copies := rfl
@[simp] theorem State.setFunc_ctxs (s : State) (k : Nat) (x : Func) : (s.setFunc k x).ctxs = s.ctxs := rfl
@[simp] theorem State.setFunc_funcs (s : State) (k : Nat) (x : Func) : (s.setFunc k x).funcs = insert s.funcs k x := rfl
@[simp] theorem State.setFunc_queues (s : State) (k : Nat) (x : Func) : (s.setFunc k x).queues = s.queues := rfl
@[simp] theorem State.setFunc_faults (s : State) (k : Nat) (x : Func) : (s.setFunc k x).faults = s.faults := rfl
@[simp] theorem State.setFunc_ticketSeqs (s : State) (k : Nat) (x : Func) : (s.setFunc k x).ticketSeqs = s.ticketSeqs := rfl
@[simp] theorem State.setFunc_tlb (s : State) (k : Nat) (x : Func) : (s.setFunc k x).tlb = s.tlb := rfl
@[simp] theorem State.setFunc_fills (s : State) (k : Nat) (x : Func) : (s.setFunc k x).fills = s.fills := rfl
@[simp] theorem State.setFunc_hinted (s : State) (k : Nat) (x : Func) : (s.setFunc k x).hinted = s.hinted := rfl
@[simp] theorem State.setFunc_runs (s : State) (k : Nat) (x : Func) : (s.setFunc k x).runs = s.runs := rfl
@[simp] theorem State.setFunc_link (s : State) (k : Nat) (x : Func) : (s.setFunc k x).link = s.link := rfl
@[simp] theorem State.setFunc_sec (s : State) (k : Nat) (x : Func) : (s.setFunc k x).sec = s.sec := rfl
@[simp] theorem State.setFunc_evq (s : State) (k : Nat) (x : Func) : (s.setFunc k x).evq = s.evq := rfl
@[simp] theorem State.setFunc_harts (s : State) (k : Nat) (x : Func) : (s.setFunc k x).harts = s.harts := rfl
@[simp] theorem State.setFunc_irqs (s : State) (k : Nat) (x : Func) : (s.setFunc k x).irqs = s.irqs := rfl
@[simp] theorem State.setFunc_nextId (s : State) (k : Nat) (x : Func) : (s.setFunc k x).nextId = s.nextId := rfl

/-! ### State.setCtx -/

@[simp] theorem State.setCtx_env (s : State) (k : Nat) (x : Ctx) : (s.setCtx k x).env = s.env := rfl
@[simp] theorem State.setCtx_clk (s : State) (k : Nat) (x : Ctx) : (s.setCtx k x).clk = s.clk := rfl
@[simp] theorem State.setCtx_mem (s : State) (k : Nat) (x : Ctx) : (s.setCtx k x).mem = s.mem := rfl
@[simp] theorem State.setCtx_badLines (s : State) (k : Nat) (x : Ctx) : (s.setCtx k x).badLines = s.badLines := rfl
@[simp] theorem State.setCtx_cores (s : State) (k : Nat) (x : Ctx) : (s.setCtx k x).cores = s.cores := rfl
@[simp] theorem State.setCtx_groups (s : State) (k : Nat) (x : Ctx) : (s.setCtx k x).groups = s.groups := rfl
@[simp] theorem State.setCtx_teams (s : State) (k : Nat) (x : Ctx) : (s.setCtx k x).teams = s.teams := rfl
@[simp] theorem State.setCtx_launches (s : State) (k : Nat) (x : Ctx) : (s.setCtx k x).launches = s.launches := rfl
@[simp] theorem State.setCtx_jobs (s : State) (k : Nat) (x : Ctx) : (s.setCtx k x).jobs = s.jobs := rfl
@[simp] theorem State.setCtx_matops (s : State) (k : Nat) (x : Ctx) : (s.setCtx k x).matops = s.matops := rfl
@[simp] theorem State.setCtx_gateops (s : State) (k : Nat) (x : Ctx) : (s.setCtx k x).gateops = s.gateops := rfl
@[simp] theorem State.setCtx_copies (s : State) (k : Nat) (x : Ctx) : (s.setCtx k x).copies = s.copies := rfl
@[simp] theorem State.setCtx_ctxs (s : State) (k : Nat) (x : Ctx) : (s.setCtx k x).ctxs = insert s.ctxs k x := rfl
@[simp] theorem State.setCtx_funcs (s : State) (k : Nat) (x : Ctx) : (s.setCtx k x).funcs = s.funcs := rfl
@[simp] theorem State.setCtx_queues (s : State) (k : Nat) (x : Ctx) : (s.setCtx k x).queues = s.queues := rfl
@[simp] theorem State.setCtx_faults (s : State) (k : Nat) (x : Ctx) : (s.setCtx k x).faults = s.faults := rfl
@[simp] theorem State.setCtx_ticketSeqs (s : State) (k : Nat) (x : Ctx) : (s.setCtx k x).ticketSeqs = s.ticketSeqs := rfl
@[simp] theorem State.setCtx_tlb (s : State) (k : Nat) (x : Ctx) : (s.setCtx k x).tlb = s.tlb := rfl
@[simp] theorem State.setCtx_fills (s : State) (k : Nat) (x : Ctx) : (s.setCtx k x).fills = s.fills := rfl
@[simp] theorem State.setCtx_hinted (s : State) (k : Nat) (x : Ctx) : (s.setCtx k x).hinted = s.hinted := rfl
@[simp] theorem State.setCtx_runs (s : State) (k : Nat) (x : Ctx) : (s.setCtx k x).runs = s.runs := rfl
@[simp] theorem State.setCtx_link (s : State) (k : Nat) (x : Ctx) : (s.setCtx k x).link = s.link := rfl
@[simp] theorem State.setCtx_sec (s : State) (k : Nat) (x : Ctx) : (s.setCtx k x).sec = s.sec := rfl
@[simp] theorem State.setCtx_evq (s : State) (k : Nat) (x : Ctx) : (s.setCtx k x).evq = s.evq := rfl
@[simp] theorem State.setCtx_harts (s : State) (k : Nat) (x : Ctx) : (s.setCtx k x).harts = s.harts := rfl
@[simp] theorem State.setCtx_irqs (s : State) (k : Nat) (x : Ctx) : (s.setCtx k x).irqs = s.irqs := rfl
@[simp] theorem State.setCtx_nextId (s : State) (k : Nat) (x : Ctx) : (s.setCtx k x).nextId = s.nextId := rfl

/-! ### State.setRun -/

@[simp] theorem State.setRun_env (s : State) (k : Nat) (x : Run) : (s.setRun k x).env = s.env := rfl
@[simp] theorem State.setRun_clk (s : State) (k : Nat) (x : Run) : (s.setRun k x).clk = s.clk := rfl
@[simp] theorem State.setRun_mem (s : State) (k : Nat) (x : Run) : (s.setRun k x).mem = s.mem := rfl
@[simp] theorem State.setRun_badLines (s : State) (k : Nat) (x : Run) : (s.setRun k x).badLines = s.badLines := rfl
@[simp] theorem State.setRun_cores (s : State) (k : Nat) (x : Run) : (s.setRun k x).cores = s.cores := rfl
@[simp] theorem State.setRun_groups (s : State) (k : Nat) (x : Run) : (s.setRun k x).groups = s.groups := rfl
@[simp] theorem State.setRun_teams (s : State) (k : Nat) (x : Run) : (s.setRun k x).teams = s.teams := rfl
@[simp] theorem State.setRun_launches (s : State) (k : Nat) (x : Run) : (s.setRun k x).launches = s.launches := rfl
@[simp] theorem State.setRun_jobs (s : State) (k : Nat) (x : Run) : (s.setRun k x).jobs = s.jobs := rfl
@[simp] theorem State.setRun_matops (s : State) (k : Nat) (x : Run) : (s.setRun k x).matops = s.matops := rfl
@[simp] theorem State.setRun_gateops (s : State) (k : Nat) (x : Run) : (s.setRun k x).gateops = s.gateops := rfl
@[simp] theorem State.setRun_copies (s : State) (k : Nat) (x : Run) : (s.setRun k x).copies = s.copies := rfl
@[simp] theorem State.setRun_ctxs (s : State) (k : Nat) (x : Run) : (s.setRun k x).ctxs = s.ctxs := rfl
@[simp] theorem State.setRun_funcs (s : State) (k : Nat) (x : Run) : (s.setRun k x).funcs = s.funcs := rfl
@[simp] theorem State.setRun_queues (s : State) (k : Nat) (x : Run) : (s.setRun k x).queues = s.queues := rfl
@[simp] theorem State.setRun_faults (s : State) (k : Nat) (x : Run) : (s.setRun k x).faults = s.faults := rfl
@[simp] theorem State.setRun_ticketSeqs (s : State) (k : Nat) (x : Run) : (s.setRun k x).ticketSeqs = s.ticketSeqs := rfl
@[simp] theorem State.setRun_tlb (s : State) (k : Nat) (x : Run) : (s.setRun k x).tlb = s.tlb := rfl
@[simp] theorem State.setRun_fills (s : State) (k : Nat) (x : Run) : (s.setRun k x).fills = s.fills := rfl
@[simp] theorem State.setRun_hinted (s : State) (k : Nat) (x : Run) : (s.setRun k x).hinted = s.hinted := rfl
@[simp] theorem State.setRun_runs (s : State) (k : Nat) (x : Run) : (s.setRun k x).runs = insert s.runs k x := rfl
@[simp] theorem State.setRun_link (s : State) (k : Nat) (x : Run) : (s.setRun k x).link = s.link := rfl
@[simp] theorem State.setRun_sec (s : State) (k : Nat) (x : Run) : (s.setRun k x).sec = s.sec := rfl
@[simp] theorem State.setRun_evq (s : State) (k : Nat) (x : Run) : (s.setRun k x).evq = s.evq := rfl
@[simp] theorem State.setRun_harts (s : State) (k : Nat) (x : Run) : (s.setRun k x).harts = s.harts := rfl
@[simp] theorem State.setRun_irqs (s : State) (k : Nat) (x : Run) : (s.setRun k x).irqs = s.irqs := rfl
@[simp] theorem State.setRun_nextId (s : State) (k : Nat) (x : Run) : (s.setRun k x).nextId = s.nextId := rfl

/-! ### State.setPort -/

@[simp] theorem State.setPort_env (s : State) (k : Nat) (x : Port) : (s.setPort k x).env = s.env := rfl
@[simp] theorem State.setPort_clk (s : State) (k : Nat) (x : Port) : (s.setPort k x).clk = s.clk := rfl
@[simp] theorem State.setPort_mem (s : State) (k : Nat) (x : Port) : (s.setPort k x).mem = s.mem := rfl
@[simp] theorem State.setPort_badLines (s : State) (k : Nat) (x : Port) : (s.setPort k x).badLines = s.badLines := rfl
@[simp] theorem State.setPort_cores (s : State) (k : Nat) (x : Port) : (s.setPort k x).cores = s.cores := rfl
@[simp] theorem State.setPort_groups (s : State) (k : Nat) (x : Port) : (s.setPort k x).groups = s.groups := rfl
@[simp] theorem State.setPort_teams (s : State) (k : Nat) (x : Port) : (s.setPort k x).teams = s.teams := rfl
@[simp] theorem State.setPort_launches (s : State) (k : Nat) (x : Port) : (s.setPort k x).launches = s.launches := rfl
@[simp] theorem State.setPort_jobs (s : State) (k : Nat) (x : Port) : (s.setPort k x).jobs = s.jobs := rfl
@[simp] theorem State.setPort_matops (s : State) (k : Nat) (x : Port) : (s.setPort k x).matops = s.matops := rfl
@[simp] theorem State.setPort_gateops (s : State) (k : Nat) (x : Port) : (s.setPort k x).gateops = s.gateops := rfl
@[simp] theorem State.setPort_copies (s : State) (k : Nat) (x : Port) : (s.setPort k x).copies = s.copies := rfl
@[simp] theorem State.setPort_ctxs (s : State) (k : Nat) (x : Port) : (s.setPort k x).ctxs = s.ctxs := rfl
@[simp] theorem State.setPort_funcs (s : State) (k : Nat) (x : Port) : (s.setPort k x).funcs = s.funcs := rfl
@[simp] theorem State.setPort_queues (s : State) (k : Nat) (x : Port) : (s.setPort k x).queues = s.queues := rfl
@[simp] theorem State.setPort_faults (s : State) (k : Nat) (x : Port) : (s.setPort k x).faults = s.faults := rfl
@[simp] theorem State.setPort_ticketSeqs (s : State) (k : Nat) (x : Port) : (s.setPort k x).ticketSeqs = s.ticketSeqs := rfl
@[simp] theorem State.setPort_tlb (s : State) (k : Nat) (x : Port) : (s.setPort k x).tlb = s.tlb := rfl
@[simp] theorem State.setPort_fills (s : State) (k : Nat) (x : Port) : (s.setPort k x).fills = s.fills := rfl
@[simp] theorem State.setPort_hinted (s : State) (k : Nat) (x : Port) : (s.setPort k x).hinted = s.hinted := rfl
@[simp] theorem State.setPort_runs (s : State) (k : Nat) (x : Port) : (s.setPort k x).runs = s.runs := rfl
@[simp] theorem State.setPort_link (s : State) (k : Nat) (x : Port) : (s.setPort k x).link = { s.link with ports := insert s.link.ports k x } := rfl
@[simp] theorem State.setPort_sec (s : State) (k : Nat) (x : Port) : (s.setPort k x).sec = s.sec := rfl
@[simp] theorem State.setPort_evq (s : State) (k : Nat) (x : Port) : (s.setPort k x).evq = s.evq := rfl
@[simp] theorem State.setPort_harts (s : State) (k : Nat) (x : Port) : (s.setPort k x).harts = s.harts := rfl
@[simp] theorem State.setPort_irqs (s : State) (k : Nat) (x : Port) : (s.setPort k x).irqs = s.irqs := rfl
@[simp] theorem State.setPort_nextId (s : State) (k : Nat) (x : Port) : (s.setPort k x).nextId = s.nextId := rfl

/-! ### State.setColl -/

@[simp] theorem State.setColl_env (s : State) (k : Nat) (x : Collective) : (s.setColl k x).env = s.env := rfl
@[simp] theorem State.setColl_clk (s : State) (k : Nat) (x : Collective) : (s.setColl k x).clk = s.clk := rfl
@[simp] theorem State.setColl_mem (s : State) (k : Nat) (x : Collective) : (s.setColl k x).mem = s.mem := rfl
@[simp] theorem State.setColl_badLines (s : State) (k : Nat) (x : Collective) : (s.setColl k x).badLines = s.badLines := rfl
@[simp] theorem State.setColl_cores (s : State) (k : Nat) (x : Collective) : (s.setColl k x).cores = s.cores := rfl
@[simp] theorem State.setColl_groups (s : State) (k : Nat) (x : Collective) : (s.setColl k x).groups = s.groups := rfl
@[simp] theorem State.setColl_teams (s : State) (k : Nat) (x : Collective) : (s.setColl k x).teams = s.teams := rfl
@[simp] theorem State.setColl_launches (s : State) (k : Nat) (x : Collective) : (s.setColl k x).launches = s.launches := rfl
@[simp] theorem State.setColl_jobs (s : State) (k : Nat) (x : Collective) : (s.setColl k x).jobs = s.jobs := rfl
@[simp] theorem State.setColl_matops (s : State) (k : Nat) (x : Collective) : (s.setColl k x).matops = s.matops := rfl
@[simp] theorem State.setColl_gateops (s : State) (k : Nat) (x : Collective) : (s.setColl k x).gateops = s.gateops := rfl
@[simp] theorem State.setColl_copies (s : State) (k : Nat) (x : Collective) : (s.setColl k x).copies = s.copies := rfl
@[simp] theorem State.setColl_ctxs (s : State) (k : Nat) (x : Collective) : (s.setColl k x).ctxs = s.ctxs := rfl
@[simp] theorem State.setColl_funcs (s : State) (k : Nat) (x : Collective) : (s.setColl k x).funcs = s.funcs := rfl
@[simp] theorem State.setColl_queues (s : State) (k : Nat) (x : Collective) : (s.setColl k x).queues = s.queues := rfl
@[simp] theorem State.setColl_faults (s : State) (k : Nat) (x : Collective) : (s.setColl k x).faults = s.faults := rfl
@[simp] theorem State.setColl_ticketSeqs (s : State) (k : Nat) (x : Collective) : (s.setColl k x).ticketSeqs = s.ticketSeqs := rfl
@[simp] theorem State.setColl_tlb (s : State) (k : Nat) (x : Collective) : (s.setColl k x).tlb = s.tlb := rfl
@[simp] theorem State.setColl_fills (s : State) (k : Nat) (x : Collective) : (s.setColl k x).fills = s.fills := rfl
@[simp] theorem State.setColl_hinted (s : State) (k : Nat) (x : Collective) : (s.setColl k x).hinted = s.hinted := rfl
@[simp] theorem State.setColl_runs (s : State) (k : Nat) (x : Collective) : (s.setColl k x).runs = s.runs := rfl
@[simp] theorem State.setColl_link (s : State) (k : Nat) (x : Collective) : (s.setColl k x).link = { s.link with groups := insert s.link.groups k x } := rfl
@[simp] theorem State.setColl_sec (s : State) (k : Nat) (x : Collective) : (s.setColl k x).sec = s.sec := rfl
@[simp] theorem State.setColl_evq (s : State) (k : Nat) (x : Collective) : (s.setColl k x).evq = s.evq := rfl
@[simp] theorem State.setColl_harts (s : State) (k : Nat) (x : Collective) : (s.setColl k x).harts = s.harts := rfl
@[simp] theorem State.setColl_irqs (s : State) (k : Nat) (x : Collective) : (s.setColl k x).irqs = s.irqs := rfl
@[simp] theorem State.setColl_nextId (s : State) (k : Nat) (x : Collective) : (s.setColl k x).nextId = s.nextId := rfl

/-! ### State.signal -/

@[simp] theorem State.signal_env (s : State) (fn vec : Nat) : (s.signal fn vec).env = s.env := rfl
@[simp] theorem State.signal_clk (s : State) (fn vec : Nat) : (s.signal fn vec).clk = s.clk := rfl
@[simp] theorem State.signal_mem (s : State) (fn vec : Nat) : (s.signal fn vec).mem = s.mem := rfl
@[simp] theorem State.signal_badLines (s : State) (fn vec : Nat) : (s.signal fn vec).badLines = s.badLines := rfl
@[simp] theorem State.signal_cores (s : State) (fn vec : Nat) : (s.signal fn vec).cores = s.cores := rfl
@[simp] theorem State.signal_groups (s : State) (fn vec : Nat) : (s.signal fn vec).groups = s.groups := rfl
@[simp] theorem State.signal_teams (s : State) (fn vec : Nat) : (s.signal fn vec).teams = s.teams := rfl
@[simp] theorem State.signal_launches (s : State) (fn vec : Nat) : (s.signal fn vec).launches = s.launches := rfl
@[simp] theorem State.signal_jobs (s : State) (fn vec : Nat) : (s.signal fn vec).jobs = s.jobs := rfl
@[simp] theorem State.signal_matops (s : State) (fn vec : Nat) : (s.signal fn vec).matops = s.matops := rfl
@[simp] theorem State.signal_gateops (s : State) (fn vec : Nat) : (s.signal fn vec).gateops = s.gateops := rfl
@[simp] theorem State.signal_copies (s : State) (fn vec : Nat) : (s.signal fn vec).copies = s.copies := rfl
@[simp] theorem State.signal_ctxs (s : State) (fn vec : Nat) : (s.signal fn vec).ctxs = s.ctxs := rfl
@[simp] theorem State.signal_funcs (s : State) (fn vec : Nat) : (s.signal fn vec).funcs = s.funcs := rfl
@[simp] theorem State.signal_queues (s : State) (fn vec : Nat) : (s.signal fn vec).queues = s.queues := rfl
@[simp] theorem State.signal_faults (s : State) (fn vec : Nat) : (s.signal fn vec).faults = s.faults := rfl
@[simp] theorem State.signal_ticketSeqs (s : State) (fn vec : Nat) : (s.signal fn vec).ticketSeqs = s.ticketSeqs := rfl
@[simp] theorem State.signal_tlb (s : State) (fn vec : Nat) : (s.signal fn vec).tlb = s.tlb := rfl
@[simp] theorem State.signal_fills (s : State) (fn vec : Nat) : (s.signal fn vec).fills = s.fills := rfl
@[simp] theorem State.signal_hinted (s : State) (fn vec : Nat) : (s.signal fn vec).hinted = s.hinted := rfl
@[simp] theorem State.signal_runs (s : State) (fn vec : Nat) : (s.signal fn vec).runs = s.runs := rfl
@[simp] theorem State.signal_link (s : State) (fn vec : Nat) : (s.signal fn vec).link = s.link := rfl
@[simp] theorem State.signal_sec (s : State) (fn vec : Nat) : (s.signal fn vec).sec = s.sec := rfl
@[simp] theorem State.signal_evq (s : State) (fn vec : Nat) : (s.signal fn vec).evq = s.evq := rfl
@[simp] theorem State.signal_harts (s : State) (fn vec : Nat) : (s.signal fn vec).harts = s.harts := rfl
@[simp] theorem State.signal_irqs (s : State) (fn vec : Nat) : (s.signal fn vec).irqs = s.irqs ++ [(fn, vec)] := rfl
@[simp] theorem State.signal_nextId (s : State) (fn vec : Nat) : (s.signal fn vec).nextId = s.nextId := rfl

/-! ### State.as -/

@[simp] theorem State.as_env (s : State) (a : Agent) : (s.as a).env = { s.env with cur := a, held := false } := rfl
@[simp] theorem State.as_clk (s : State) (a : Agent) : (s.as a).clk = s.clk := rfl
@[simp] theorem State.as_mem (s : State) (a : Agent) : (s.as a).mem = s.mem := rfl
@[simp] theorem State.as_badLines (s : State) (a : Agent) : (s.as a).badLines = s.badLines := rfl
@[simp] theorem State.as_cores (s : State) (a : Agent) : (s.as a).cores = s.cores := rfl
@[simp] theorem State.as_groups (s : State) (a : Agent) : (s.as a).groups = s.groups := rfl
@[simp] theorem State.as_teams (s : State) (a : Agent) : (s.as a).teams = s.teams := rfl
@[simp] theorem State.as_launches (s : State) (a : Agent) : (s.as a).launches = s.launches := rfl
@[simp] theorem State.as_jobs (s : State) (a : Agent) : (s.as a).jobs = s.jobs := rfl
@[simp] theorem State.as_matops (s : State) (a : Agent) : (s.as a).matops = s.matops := rfl
@[simp] theorem State.as_gateops (s : State) (a : Agent) : (s.as a).gateops = s.gateops := rfl
@[simp] theorem State.as_copies (s : State) (a : Agent) : (s.as a).copies = s.copies := rfl
@[simp] theorem State.as_ctxs (s : State) (a : Agent) : (s.as a).ctxs = s.ctxs := rfl
@[simp] theorem State.as_funcs (s : State) (a : Agent) : (s.as a).funcs = s.funcs := rfl
@[simp] theorem State.as_queues (s : State) (a : Agent) : (s.as a).queues = s.queues := rfl
@[simp] theorem State.as_faults (s : State) (a : Agent) : (s.as a).faults = s.faults := rfl
@[simp] theorem State.as_ticketSeqs (s : State) (a : Agent) : (s.as a).ticketSeqs = s.ticketSeqs := rfl
@[simp] theorem State.as_tlb (s : State) (a : Agent) : (s.as a).tlb = s.tlb := rfl
@[simp] theorem State.as_fills (s : State) (a : Agent) : (s.as a).fills = s.fills := rfl
@[simp] theorem State.as_hinted (s : State) (a : Agent) : (s.as a).hinted = s.hinted := rfl
@[simp] theorem State.as_runs (s : State) (a : Agent) : (s.as a).runs = s.runs := rfl
@[simp] theorem State.as_link (s : State) (a : Agent) : (s.as a).link = s.link := rfl
@[simp] theorem State.as_sec (s : State) (a : Agent) : (s.as a).sec = s.sec := rfl
@[simp] theorem State.as_evq (s : State) (a : Agent) : (s.as a).evq = s.evq := rfl
@[simp] theorem State.as_harts (s : State) (a : Agent) : (s.as a).harts = s.harts := rfl
@[simp] theorem State.as_irqs (s : State) (a : Agent) : (s.as a).irqs = s.irqs := rfl
@[simp] theorem State.as_nextId (s : State) (a : Agent) : (s.as a).nextId = s.nextId := rfl

/-! ### State.issued -/

@[simp] theorem State.issued_env (s : State) (i : Issue) : (s.issued i).env = s.env := rfl
@[simp] theorem State.issued_clk (s : State) (i : Issue) : (s.issued i).clk = s.clk := rfl
@[simp] theorem State.issued_mem (s : State) (i : Issue) : (s.issued i).mem = s.mem := rfl
@[simp] theorem State.issued_badLines (s : State) (i : Issue) : (s.issued i).badLines = s.badLines := rfl
@[simp] theorem State.issued_cores (s : State) (i : Issue) : (s.issued i).cores = insert s.cores i.core { s.core i.core with lastAge := i.g.age } := rfl
@[simp] theorem State.issued_groups (s : State) (i : Issue) : (s.issued i).groups = s.groups := rfl
@[simp] theorem State.issued_teams (s : State) (i : Issue) : (s.issued i).teams = s.teams := rfl
@[simp] theorem State.issued_launches (s : State) (i : Issue) : (s.issued i).launches = s.launches := rfl
@[simp] theorem State.issued_jobs (s : State) (i : Issue) : (s.issued i).jobs = s.jobs := rfl
@[simp] theorem State.issued_matops (s : State) (i : Issue) : (s.issued i).matops = s.matops := rfl
@[simp] theorem State.issued_gateops (s : State) (i : Issue) : (s.issued i).gateops = s.gateops := rfl
@[simp] theorem State.issued_copies (s : State) (i : Issue) : (s.issued i).copies = s.copies := rfl
@[simp] theorem State.issued_ctxs (s : State) (i : Issue) : (s.issued i).ctxs = s.ctxs := rfl
@[simp] theorem State.issued_funcs (s : State) (i : Issue) : (s.issued i).funcs = s.funcs := rfl
@[simp] theorem State.issued_queues (s : State) (i : Issue) : (s.issued i).queues = s.queues := rfl
@[simp] theorem State.issued_faults (s : State) (i : Issue) : (s.issued i).faults = s.faults := rfl
@[simp] theorem State.issued_ticketSeqs (s : State) (i : Issue) : (s.issued i).ticketSeqs = s.ticketSeqs := rfl
@[simp] theorem State.issued_tlb (s : State) (i : Issue) : (s.issued i).tlb = s.tlb := rfl
@[simp] theorem State.issued_fills (s : State) (i : Issue) : (s.issued i).fills = s.fills := rfl
@[simp] theorem State.issued_hinted (s : State) (i : Issue) : (s.issued i).hinted = s.hinted := rfl
@[simp] theorem State.issued_runs (s : State) (i : Issue) : (s.issued i).runs = s.runs := rfl
@[simp] theorem State.issued_link (s : State) (i : Issue) : (s.issued i).link = s.link := rfl
@[simp] theorem State.issued_sec (s : State) (i : Issue) : (s.issued i).sec = s.sec := rfl
@[simp] theorem State.issued_evq (s : State) (i : Issue) : (s.issued i).evq = s.evq := rfl
@[simp] theorem State.issued_harts (s : State) (i : Issue) : (s.issued i).harts = s.harts := rfl
@[simp] theorem State.issued_irqs (s : State) (i : Issue) : (s.issued i).irqs = s.irqs := rfl
@[simp] theorem State.issued_nextId (s : State) (i : Issue) : (s.issued i).nextId = s.nextId := rfl

/-! ### State.onGroup -/

@[simp] theorem State.onGroup_env (s : State) (k : Nat) (f : Group → Group) : (s.onGroup k f).env = s.env := by unfold State.onGroup; split <;> rfl
@[simp] theorem State.onGroup_clk (s : State) (k : Nat) (f : Group → Group) : (s.onGroup k f).clk = s.clk := by unfold State.onGroup; split <;> rfl
@[simp] theorem State.onGroup_mem (s : State) (k : Nat) (f : Group → Group) : (s.onGroup k f).mem = s.mem := by unfold State.onGroup; split <;> rfl
@[simp] theorem State.onGroup_badLines (s : State) (k : Nat) (f : Group → Group) : (s.onGroup k f).badLines = s.badLines := by unfold State.onGroup; split <;> rfl
@[simp] theorem State.onGroup_cores (s : State) (k : Nat) (f : Group → Group) : (s.onGroup k f).cores = s.cores := by unfold State.onGroup; split <;> rfl
@[simp] theorem State.onGroup_teams (s : State) (k : Nat) (f : Group → Group) : (s.onGroup k f).teams = s.teams := by unfold State.onGroup; split <;> rfl
@[simp] theorem State.onGroup_launches (s : State) (k : Nat) (f : Group → Group) : (s.onGroup k f).launches = s.launches := by unfold State.onGroup; split <;> rfl
@[simp] theorem State.onGroup_jobs (s : State) (k : Nat) (f : Group → Group) : (s.onGroup k f).jobs = s.jobs := by unfold State.onGroup; split <;> rfl
@[simp] theorem State.onGroup_matops (s : State) (k : Nat) (f : Group → Group) : (s.onGroup k f).matops = s.matops := by unfold State.onGroup; split <;> rfl
@[simp] theorem State.onGroup_gateops (s : State) (k : Nat) (f : Group → Group) : (s.onGroup k f).gateops = s.gateops := by unfold State.onGroup; split <;> rfl
@[simp] theorem State.onGroup_copies (s : State) (k : Nat) (f : Group → Group) : (s.onGroup k f).copies = s.copies := by unfold State.onGroup; split <;> rfl
@[simp] theorem State.onGroup_ctxs (s : State) (k : Nat) (f : Group → Group) : (s.onGroup k f).ctxs = s.ctxs := by unfold State.onGroup; split <;> rfl
@[simp] theorem State.onGroup_funcs (s : State) (k : Nat) (f : Group → Group) : (s.onGroup k f).funcs = s.funcs := by unfold State.onGroup; split <;> rfl
@[simp] theorem State.onGroup_queues (s : State) (k : Nat) (f : Group → Group) : (s.onGroup k f).queues = s.queues := by unfold State.onGroup; split <;> rfl
@[simp] theorem State.onGroup_faults (s : State) (k : Nat) (f : Group → Group) : (s.onGroup k f).faults = s.faults := by unfold State.onGroup; split <;> rfl
@[simp] theorem State.onGroup_ticketSeqs (s : State) (k : Nat) (f : Group → Group) : (s.onGroup k f).ticketSeqs = s.ticketSeqs := by unfold State.onGroup; split <;> rfl
@[simp] theorem State.onGroup_tlb (s : State) (k : Nat) (f : Group → Group) : (s.onGroup k f).tlb = s.tlb := by unfold State.onGroup; split <;> rfl
@[simp] theorem State.onGroup_fills (s : State) (k : Nat) (f : Group → Group) : (s.onGroup k f).fills = s.fills := by unfold State.onGroup; split <;> rfl
@[simp] theorem State.onGroup_hinted (s : State) (k : Nat) (f : Group → Group) : (s.onGroup k f).hinted = s.hinted := by unfold State.onGroup; split <;> rfl
@[simp] theorem State.onGroup_runs (s : State) (k : Nat) (f : Group → Group) : (s.onGroup k f).runs = s.runs := by unfold State.onGroup; split <;> rfl
@[simp] theorem State.onGroup_link (s : State) (k : Nat) (f : Group → Group) : (s.onGroup k f).link = s.link := by unfold State.onGroup; split <;> rfl
@[simp] theorem State.onGroup_sec (s : State) (k : Nat) (f : Group → Group) : (s.onGroup k f).sec = s.sec := by unfold State.onGroup; split <;> rfl
@[simp] theorem State.onGroup_evq (s : State) (k : Nat) (f : Group → Group) : (s.onGroup k f).evq = s.evq := by unfold State.onGroup; split <;> rfl
@[simp] theorem State.onGroup_harts (s : State) (k : Nat) (f : Group → Group) : (s.onGroup k f).harts = s.harts := by unfold State.onGroup; split <;> rfl
@[simp] theorem State.onGroup_irqs (s : State) (k : Nat) (f : Group → Group) : (s.onGroup k f).irqs = s.irqs := by unfold State.onGroup; split <;> rfl
@[simp] theorem State.onGroup_nextId (s : State) (k : Nat) (f : Group → Group) : (s.onGroup k f).nextId = s.nextId := by unfold State.onGroup; split <;> rfl

/-! ### State.poke -/

@[simp] theorem State.poke_env (s : State) (k : Nat) (b : List Byte) : (s.poke k b).env = { s.env with wrote := s.env.wrote ++ [(k, b.length)] } := rfl
@[simp] theorem State.poke_clk (s : State) (k : Nat) (b : List Byte) : (s.poke k b).clk = s.clk := rfl
@[simp] theorem State.poke_mem (s : State) (k : Nat) (b : List Byte) : (s.poke k b).mem = Memory.store s.mem k b := rfl
@[simp] theorem State.poke_badLines (s : State) (k : Nat) (b : List Byte) : (s.poke k b).badLines = s.badLines := rfl
@[simp] theorem State.poke_cores (s : State) (k : Nat) (b : List Byte) : (s.poke k b).cores = s.cores := rfl
@[simp] theorem State.poke_groups (s : State) (k : Nat) (b : List Byte) : (s.poke k b).groups = s.groups := rfl
@[simp] theorem State.poke_teams (s : State) (k : Nat) (b : List Byte) : (s.poke k b).teams = s.teams := rfl
@[simp] theorem State.poke_launches (s : State) (k : Nat) (b : List Byte) : (s.poke k b).launches = s.launches := rfl
@[simp] theorem State.poke_jobs (s : State) (k : Nat) (b : List Byte) : (s.poke k b).jobs = s.jobs := rfl
@[simp] theorem State.poke_matops (s : State) (k : Nat) (b : List Byte) : (s.poke k b).matops = s.matops := rfl
@[simp] theorem State.poke_gateops (s : State) (k : Nat) (b : List Byte) : (s.poke k b).gateops = s.gateops := rfl
@[simp] theorem State.poke_copies (s : State) (k : Nat) (b : List Byte) : (s.poke k b).copies = s.copies := rfl
@[simp] theorem State.poke_ctxs (s : State) (k : Nat) (b : List Byte) : (s.poke k b).ctxs = s.ctxs := rfl
@[simp] theorem State.poke_funcs (s : State) (k : Nat) (b : List Byte) : (s.poke k b).funcs = s.funcs := rfl
@[simp] theorem State.poke_queues (s : State) (k : Nat) (b : List Byte) : (s.poke k b).queues = s.queues := rfl
@[simp] theorem State.poke_faults (s : State) (k : Nat) (b : List Byte) : (s.poke k b).faults = s.faults := rfl
@[simp] theorem State.poke_ticketSeqs (s : State) (k : Nat) (b : List Byte) : (s.poke k b).ticketSeqs = s.ticketSeqs := rfl
@[simp] theorem State.poke_tlb (s : State) (k : Nat) (b : List Byte) : (s.poke k b).tlb = s.tlb := rfl
@[simp] theorem State.poke_fills (s : State) (k : Nat) (b : List Byte) : (s.poke k b).fills = s.fills := rfl
@[simp] theorem State.poke_hinted (s : State) (k : Nat) (b : List Byte) : (s.poke k b).hinted = s.hinted := rfl
@[simp] theorem State.poke_runs (s : State) (k : Nat) (b : List Byte) : (s.poke k b).runs = s.runs := rfl
@[simp] theorem State.poke_link (s : State) (k : Nat) (b : List Byte) : (s.poke k b).link = s.link := rfl
@[simp] theorem State.poke_sec (s : State) (k : Nat) (b : List Byte) : (s.poke k b).sec = s.sec := rfl
@[simp] theorem State.poke_evq (s : State) (k : Nat) (b : List Byte) : (s.poke k b).evq = s.evq := rfl
@[simp] theorem State.poke_harts (s : State) (k : Nat) (b : List Byte) : (s.poke k b).harts = s.harts := rfl
@[simp] theorem State.poke_irqs (s : State) (k : Nat) (b : List Byte) : (s.poke k b).irqs = s.irqs := rfl
@[simp] theorem State.poke_nextId (s : State) (k : Nat) (b : List Byte) : (s.poke k b).nextId = s.nextId := rfl

/-! ### State.noteWrites -/

@[simp] theorem State.noteWrites_env (s : State) (l : List (Nat × Nat)) : (s.noteWrites l).env = { s.env with wrote := s.env.wrote ++ l } := rfl
@[simp] theorem State.noteWrites_clk (s : State) (l : List (Nat × Nat)) : (s.noteWrites l).clk = s.clk := rfl
@[simp] theorem State.noteWrites_mem (s : State) (l : List (Nat × Nat)) : (s.noteWrites l).mem = s.mem := rfl
@[simp] theorem State.noteWrites_badLines (s : State) (l : List (Nat × Nat)) : (s.noteWrites l).badLines = s.badLines := rfl
@[simp] theorem State.noteWrites_cores (s : State) (l : List (Nat × Nat)) : (s.noteWrites l).cores = s.cores := rfl
@[simp] theorem State.noteWrites_groups (s : State) (l : List (Nat × Nat)) : (s.noteWrites l).groups = s.groups := rfl
@[simp] theorem State.noteWrites_teams (s : State) (l : List (Nat × Nat)) : (s.noteWrites l).teams = s.teams := rfl
@[simp] theorem State.noteWrites_launches (s : State) (l : List (Nat × Nat)) : (s.noteWrites l).launches = s.launches := rfl
@[simp] theorem State.noteWrites_jobs (s : State) (l : List (Nat × Nat)) : (s.noteWrites l).jobs = s.jobs := rfl
@[simp] theorem State.noteWrites_matops (s : State) (l : List (Nat × Nat)) : (s.noteWrites l).matops = s.matops := rfl
@[simp] theorem State.noteWrites_gateops (s : State) (l : List (Nat × Nat)) : (s.noteWrites l).gateops = s.gateops := rfl
@[simp] theorem State.noteWrites_copies (s : State) (l : List (Nat × Nat)) : (s.noteWrites l).copies = s.copies := rfl
@[simp] theorem State.noteWrites_ctxs (s : State) (l : List (Nat × Nat)) : (s.noteWrites l).ctxs = s.ctxs := rfl
@[simp] theorem State.noteWrites_funcs (s : State) (l : List (Nat × Nat)) : (s.noteWrites l).funcs = s.funcs := rfl
@[simp] theorem State.noteWrites_queues (s : State) (l : List (Nat × Nat)) : (s.noteWrites l).queues = s.queues := rfl
@[simp] theorem State.noteWrites_faults (s : State) (l : List (Nat × Nat)) : (s.noteWrites l).faults = s.faults := rfl
@[simp] theorem State.noteWrites_ticketSeqs (s : State) (l : List (Nat × Nat)) : (s.noteWrites l).ticketSeqs = s.ticketSeqs := rfl
@[simp] theorem State.noteWrites_tlb (s : State) (l : List (Nat × Nat)) : (s.noteWrites l).tlb = s.tlb := rfl
@[simp] theorem State.noteWrites_fills (s : State) (l : List (Nat × Nat)) : (s.noteWrites l).fills = s.fills := rfl
@[simp] theorem State.noteWrites_hinted (s : State) (l : List (Nat × Nat)) : (s.noteWrites l).hinted = s.hinted := rfl
@[simp] theorem State.noteWrites_runs (s : State) (l : List (Nat × Nat)) : (s.noteWrites l).runs = s.runs := rfl
@[simp] theorem State.noteWrites_link (s : State) (l : List (Nat × Nat)) : (s.noteWrites l).link = s.link := rfl
@[simp] theorem State.noteWrites_sec (s : State) (l : List (Nat × Nat)) : (s.noteWrites l).sec = s.sec := rfl
@[simp] theorem State.noteWrites_evq (s : State) (l : List (Nat × Nat)) : (s.noteWrites l).evq = s.evq := rfl
@[simp] theorem State.noteWrites_harts (s : State) (l : List (Nat × Nat)) : (s.noteWrites l).harts = s.harts := rfl
@[simp] theorem State.noteWrites_irqs (s : State) (l : List (Nat × Nat)) : (s.noteWrites l).irqs = s.irqs := rfl
@[simp] theorem State.noteWrites_nextId (s : State) (l : List (Nat × Nat)) : (s.noteWrites l).nextId = s.nextId := rfl

/-! ### State.send -/

@[simp] theorem State.send_env (s : State) (port : Nat) (f : Flit) : (s.send port f).env = s.env := rfl
@[simp] theorem State.send_clk (s : State) (port : Nat) (f : Flit) : (s.send port f).clk = s.clk := rfl
@[simp] theorem State.send_mem (s : State) (port : Nat) (f : Flit) : (s.send port f).mem = s.mem := rfl
@[simp] theorem State.send_badLines (s : State) (port : Nat) (f : Flit) : (s.send port f).badLines = s.badLines := rfl
@[simp] theorem State.send_cores (s : State) (port : Nat) (f : Flit) : (s.send port f).cores = s.cores := rfl
@[simp] theorem State.send_groups (s : State) (port : Nat) (f : Flit) : (s.send port f).groups = s.groups := rfl
@[simp] theorem State.send_teams (s : State) (port : Nat) (f : Flit) : (s.send port f).teams = s.teams := rfl
@[simp] theorem State.send_launches (s : State) (port : Nat) (f : Flit) : (s.send port f).launches = s.launches := rfl
@[simp] theorem State.send_jobs (s : State) (port : Nat) (f : Flit) : (s.send port f).jobs = s.jobs := rfl
@[simp] theorem State.send_matops (s : State) (port : Nat) (f : Flit) : (s.send port f).matops = s.matops := rfl
@[simp] theorem State.send_gateops (s : State) (port : Nat) (f : Flit) : (s.send port f).gateops = s.gateops := rfl
@[simp] theorem State.send_copies (s : State) (port : Nat) (f : Flit) : (s.send port f).copies = s.copies := rfl
@[simp] theorem State.send_ctxs (s : State) (port : Nat) (f : Flit) : (s.send port f).ctxs = s.ctxs := rfl
@[simp] theorem State.send_funcs (s : State) (port : Nat) (f : Flit) : (s.send port f).funcs = s.funcs := rfl
@[simp] theorem State.send_queues (s : State) (port : Nat) (f : Flit) : (s.send port f).queues = s.queues := rfl
@[simp] theorem State.send_faults (s : State) (port : Nat) (f : Flit) : (s.send port f).faults = s.faults := rfl
@[simp] theorem State.send_ticketSeqs (s : State) (port : Nat) (f : Flit) : (s.send port f).ticketSeqs = s.ticketSeqs := rfl
@[simp] theorem State.send_tlb (s : State) (port : Nat) (f : Flit) : (s.send port f).tlb = s.tlb := rfl
@[simp] theorem State.send_fills (s : State) (port : Nat) (f : Flit) : (s.send port f).fills = s.fills := rfl
@[simp] theorem State.send_hinted (s : State) (port : Nat) (f : Flit) : (s.send port f).hinted = s.hinted := rfl
@[simp] theorem State.send_runs (s : State) (port : Nat) (f : Flit) : (s.send port f).runs = s.runs := rfl
@[simp] theorem State.send_link (s : State) (port : Nat) (f : Flit) : (s.send port f).link = { s.link with sent := s.link.sent ++ [(port, f.sealed)] } := rfl
@[simp] theorem State.send_sec (s : State) (port : Nat) (f : Flit) : (s.send port f).sec = s.sec := rfl
@[simp] theorem State.send_evq (s : State) (port : Nat) (f : Flit) : (s.send port f).evq = s.evq := rfl
@[simp] theorem State.send_harts (s : State) (port : Nat) (f : Flit) : (s.send port f).harts = s.harts := rfl
@[simp] theorem State.send_irqs (s : State) (port : Nat) (f : Flit) : (s.send port f).irqs = s.irqs := rfl
@[simp] theorem State.send_nextId (s : State) (port : Nat) (f : Flit) : (s.send port f).nextId = s.nextId := rfl

/-! ### State.setHart -/

@[simp] theorem State.setHart_env (s : State) (h : Nat) (x : Hart) : (s.setHart h x).env = s.env := rfl
@[simp] theorem State.setHart_clk (s : State) (h : Nat) (x : Hart) : (s.setHart h x).clk = s.clk := rfl
@[simp] theorem State.setHart_mem (s : State) (h : Nat) (x : Hart) : (s.setHart h x).mem = s.mem := rfl
@[simp] theorem State.setHart_badLines (s : State) (h : Nat) (x : Hart) : (s.setHart h x).badLines = s.badLines := rfl
@[simp] theorem State.setHart_cores (s : State) (h : Nat) (x : Hart) : (s.setHart h x).cores = s.cores := rfl
@[simp] theorem State.setHart_groups (s : State) (h : Nat) (x : Hart) : (s.setHart h x).groups = s.groups := rfl
@[simp] theorem State.setHart_teams (s : State) (h : Nat) (x : Hart) : (s.setHart h x).teams = s.teams := rfl
@[simp] theorem State.setHart_launches (s : State) (h : Nat) (x : Hart) : (s.setHart h x).launches = s.launches := rfl
@[simp] theorem State.setHart_jobs (s : State) (h : Nat) (x : Hart) : (s.setHart h x).jobs = s.jobs := rfl
@[simp] theorem State.setHart_matops (s : State) (h : Nat) (x : Hart) : (s.setHart h x).matops = s.matops := rfl
@[simp] theorem State.setHart_gateops (s : State) (h : Nat) (x : Hart) : (s.setHart h x).gateops = s.gateops := rfl
@[simp] theorem State.setHart_copies (s : State) (h : Nat) (x : Hart) : (s.setHart h x).copies = s.copies := rfl
@[simp] theorem State.setHart_ctxs (s : State) (h : Nat) (x : Hart) : (s.setHart h x).ctxs = s.ctxs := rfl
@[simp] theorem State.setHart_funcs (s : State) (h : Nat) (x : Hart) : (s.setHart h x).funcs = s.funcs := rfl
@[simp] theorem State.setHart_queues (s : State) (h : Nat) (x : Hart) : (s.setHart h x).queues = s.queues := rfl
@[simp] theorem State.setHart_faults (s : State) (h : Nat) (x : Hart) : (s.setHart h x).faults = s.faults := rfl
@[simp] theorem State.setHart_ticketSeqs (s : State) (h : Nat) (x : Hart) : (s.setHart h x).ticketSeqs = s.ticketSeqs := rfl
@[simp] theorem State.setHart_tlb (s : State) (h : Nat) (x : Hart) : (s.setHart h x).tlb = s.tlb := rfl
@[simp] theorem State.setHart_fills (s : State) (h : Nat) (x : Hart) : (s.setHart h x).fills = s.fills := rfl
@[simp] theorem State.setHart_hinted (s : State) (h : Nat) (x : Hart) : (s.setHart h x).hinted = s.hinted := rfl
@[simp] theorem State.setHart_runs (s : State) (h : Nat) (x : Hart) : (s.setHart h x).runs = s.runs := rfl
@[simp] theorem State.setHart_link (s : State) (h : Nat) (x : Hart) : (s.setHart h x).link = s.link := rfl
@[simp] theorem State.setHart_sec (s : State) (h : Nat) (x : Hart) : (s.setHart h x).sec = s.sec := rfl
@[simp] theorem State.setHart_evq (s : State) (h : Nat) (x : Hart) : (s.setHart h x).evq = s.evq := rfl
@[simp] theorem State.setHart_harts (s : State) (h : Nat) (x : Hart) : (s.setHart h x).harts = insert s.harts h x := rfl
@[simp] theorem State.setHart_irqs (s : State) (h : Nat) (x : Hart) : (s.setHart h x).irqs = s.irqs := rfl
@[simp] theorem State.setHart_nextId (s : State) (h : Nat) (x : Hart) : (s.setHart h x).nextId = s.nextId := rfl

/-! ### State.draw -/

@[simp] theorem State.draw_clk (s : State) (n : Nat) : ((s.draw n).2).clk = s.clk := by unfold State.draw; split <;> rfl
@[simp] theorem State.draw_mem (s : State) (n : Nat) : ((s.draw n).2).mem = s.mem := by unfold State.draw; split <;> rfl
@[simp] theorem State.draw_badLines (s : State) (n : Nat) : ((s.draw n).2).badLines = s.badLines := by unfold State.draw; split <;> rfl
@[simp] theorem State.draw_cores (s : State) (n : Nat) : ((s.draw n).2).cores = s.cores := by unfold State.draw; split <;> rfl
@[simp] theorem State.draw_groups (s : State) (n : Nat) : ((s.draw n).2).groups = s.groups := by unfold State.draw; split <;> rfl
@[simp] theorem State.draw_teams (s : State) (n : Nat) : ((s.draw n).2).teams = s.teams := by unfold State.draw; split <;> rfl
@[simp] theorem State.draw_launches (s : State) (n : Nat) : ((s.draw n).2).launches = s.launches := by unfold State.draw; split <;> rfl
@[simp] theorem State.draw_jobs (s : State) (n : Nat) : ((s.draw n).2).jobs = s.jobs := by unfold State.draw; split <;> rfl
@[simp] theorem State.draw_matops (s : State) (n : Nat) : ((s.draw n).2).matops = s.matops := by unfold State.draw; split <;> rfl
@[simp] theorem State.draw_gateops (s : State) (n : Nat) : ((s.draw n).2).gateops = s.gateops := by unfold State.draw; split <;> rfl
@[simp] theorem State.draw_copies (s : State) (n : Nat) : ((s.draw n).2).copies = s.copies := by unfold State.draw; split <;> rfl
@[simp] theorem State.draw_ctxs (s : State) (n : Nat) : ((s.draw n).2).ctxs = s.ctxs := by unfold State.draw; split <;> rfl
@[simp] theorem State.draw_funcs (s : State) (n : Nat) : ((s.draw n).2).funcs = s.funcs := by unfold State.draw; split <;> rfl
@[simp] theorem State.draw_queues (s : State) (n : Nat) : ((s.draw n).2).queues = s.queues := by unfold State.draw; split <;> rfl
@[simp] theorem State.draw_faults (s : State) (n : Nat) : ((s.draw n).2).faults = s.faults := by unfold State.draw; split <;> rfl
@[simp] theorem State.draw_ticketSeqs (s : State) (n : Nat) : ((s.draw n).2).ticketSeqs = s.ticketSeqs := by unfold State.draw; split <;> rfl
@[simp] theorem State.draw_tlb (s : State) (n : Nat) : ((s.draw n).2).tlb = s.tlb := by unfold State.draw; split <;> rfl
@[simp] theorem State.draw_fills (s : State) (n : Nat) : ((s.draw n).2).fills = s.fills := by unfold State.draw; split <;> rfl
@[simp] theorem State.draw_hinted (s : State) (n : Nat) : ((s.draw n).2).hinted = s.hinted := by unfold State.draw; split <;> rfl
@[simp] theorem State.draw_runs (s : State) (n : Nat) : ((s.draw n).2).runs = s.runs := by unfold State.draw; split <;> rfl
@[simp] theorem State.draw_link (s : State) (n : Nat) : ((s.draw n).2).link = s.link := by unfold State.draw; split <;> rfl
@[simp] theorem State.draw_sec (s : State) (n : Nat) : ((s.draw n).2).sec = s.sec := by unfold State.draw; split <;> rfl
@[simp] theorem State.draw_evq (s : State) (n : Nat) : ((s.draw n).2).evq = s.evq := by unfold State.draw; split <;> rfl
@[simp] theorem State.draw_harts (s : State) (n : Nat) : ((s.draw n).2).harts = s.harts := by unfold State.draw; split <;> rfl
@[simp] theorem State.draw_irqs (s : State) (n : Nat) : ((s.draw n).2).irqs = s.irqs := by unfold State.draw; split <;> rfl
@[simp] theorem State.draw_nextId (s : State) (n : Nat) : ((s.draw n).2).nextId = s.nextId := by unfold State.draw; split <;> rfl

/-! ### State.free -/

@[simp] theorem State.free_env (s : State) : (s.free.2).env = { s.env with tick := s.env.tick + 1 } := rfl
@[simp] theorem State.free_clk (s : State) : (s.free.2).clk = s.clk := rfl
@[simp] theorem State.free_mem (s : State) : (s.free.2).mem = s.mem := rfl
@[simp] theorem State.free_badLines (s : State) : (s.free.2).badLines = s.badLines := rfl
@[simp] theorem State.free_cores (s : State) : (s.free.2).cores = s.cores := rfl
@[simp] theorem State.free_groups (s : State) : (s.free.2).groups = s.groups := rfl
@[simp] theorem State.free_teams (s : State) : (s.free.2).teams = s.teams := rfl
@[simp] theorem State.free_launches (s : State) : (s.free.2).launches = s.launches := rfl
@[simp] theorem State.free_jobs (s : State) : (s.free.2).jobs = s.jobs := rfl
@[simp] theorem State.free_matops (s : State) : (s.free.2).matops = s.matops := rfl
@[simp] theorem State.free_gateops (s : State) : (s.free.2).gateops = s.gateops := rfl
@[simp] theorem State.free_copies (s : State) : (s.free.2).copies = s.copies := rfl
@[simp] theorem State.free_ctxs (s : State) : (s.free.2).ctxs = s.ctxs := rfl
@[simp] theorem State.free_funcs (s : State) : (s.free.2).funcs = s.funcs := rfl
@[simp] theorem State.free_queues (s : State) : (s.free.2).queues = s.queues := rfl
@[simp] theorem State.free_faults (s : State) : (s.free.2).faults = s.faults := rfl
@[simp] theorem State.free_ticketSeqs (s : State) : (s.free.2).ticketSeqs = s.ticketSeqs := rfl
@[simp] theorem State.free_tlb (s : State) : (s.free.2).tlb = s.tlb := rfl
@[simp] theorem State.free_fills (s : State) : (s.free.2).fills = s.fills := rfl
@[simp] theorem State.free_hinted (s : State) : (s.free.2).hinted = s.hinted := rfl
@[simp] theorem State.free_runs (s : State) : (s.free.2).runs = s.runs := rfl
@[simp] theorem State.free_link (s : State) : (s.free.2).link = s.link := rfl
@[simp] theorem State.free_sec (s : State) : (s.free.2).sec = s.sec := rfl
@[simp] theorem State.free_evq (s : State) : (s.free.2).evq = s.evq := rfl
@[simp] theorem State.free_harts (s : State) : (s.free.2).harts = s.harts := rfl
@[simp] theorem State.free_irqs (s : State) : (s.free.2).irqs = s.irqs := rfl
@[simp] theorem State.free_nextId (s : State) : (s.free.2).nextId = s.nextId := rfl

/-! ### State.fresh -/

@[simp] theorem State.fresh_env (s : State) : (s.fresh.2).env = s.env := rfl
@[simp] theorem State.fresh_clk (s : State) : (s.fresh.2).clk = s.clk := rfl
@[simp] theorem State.fresh_mem (s : State) : (s.fresh.2).mem = s.mem := rfl
@[simp] theorem State.fresh_badLines (s : State) : (s.fresh.2).badLines = s.badLines := rfl
@[simp] theorem State.fresh_cores (s : State) : (s.fresh.2).cores = s.cores := rfl
@[simp] theorem State.fresh_groups (s : State) : (s.fresh.2).groups = s.groups := rfl
@[simp] theorem State.fresh_teams (s : State) : (s.fresh.2).teams = s.teams := rfl
@[simp] theorem State.fresh_launches (s : State) : (s.fresh.2).launches = s.launches := rfl
@[simp] theorem State.fresh_jobs (s : State) : (s.fresh.2).jobs = s.jobs := rfl
@[simp] theorem State.fresh_matops (s : State) : (s.fresh.2).matops = s.matops := rfl
@[simp] theorem State.fresh_gateops (s : State) : (s.fresh.2).gateops = s.gateops := rfl
@[simp] theorem State.fresh_copies (s : State) : (s.fresh.2).copies = s.copies := rfl
@[simp] theorem State.fresh_ctxs (s : State) : (s.fresh.2).ctxs = s.ctxs := rfl
@[simp] theorem State.fresh_funcs (s : State) : (s.fresh.2).funcs = s.funcs := rfl
@[simp] theorem State.fresh_queues (s : State) : (s.fresh.2).queues = s.queues := rfl
@[simp] theorem State.fresh_faults (s : State) : (s.fresh.2).faults = s.faults := rfl
@[simp] theorem State.fresh_ticketSeqs (s : State) : (s.fresh.2).ticketSeqs = s.ticketSeqs := rfl
@[simp] theorem State.fresh_tlb (s : State) : (s.fresh.2).tlb = s.tlb := rfl
@[simp] theorem State.fresh_fills (s : State) : (s.fresh.2).fills = s.fills := rfl
@[simp] theorem State.fresh_hinted (s : State) : (s.fresh.2).hinted = s.hinted := rfl
@[simp] theorem State.fresh_runs (s : State) : (s.fresh.2).runs = s.runs := rfl
@[simp] theorem State.fresh_link (s : State) : (s.fresh.2).link = s.link := rfl
@[simp] theorem State.fresh_sec (s : State) : (s.fresh.2).sec = s.sec := rfl
@[simp] theorem State.fresh_evq (s : State) : (s.fresh.2).evq = s.evq := rfl
@[simp] theorem State.fresh_harts (s : State) : (s.fresh.2).harts = s.harts := rfl
@[simp] theorem State.fresh_irqs (s : State) : (s.fresh.2).irqs = s.irqs := rfl
@[simp] theorem State.fresh_nextId (s : State) : (s.fresh.2).nextId = s.nextId + 1 := rfl

/-! ### Group.setLanes -/

@[simp] theorem Group.setLanes_ctx (g : Group) (m : Mask) (x : LaneState) : (g.setLanes m x).ctx = g.ctx := rfl
@[simp] theorem Group.setLanes_launch (g : Group) (m : Mask) (x : LaneState) : (g.setLanes m x).launch = g.launch := rfl
@[simp] theorem Group.setLanes_team (g : Group) (m : Mask) (x : LaneState) : (g.setLanes m x).team = g.team := rfl
@[simp] theorem Group.setLanes_index (g : Group) (m : Mask) (x : LaneState) : (g.setLanes m x).index = g.index := rfl
@[simp] theorem Group.setLanes_width (g : Group) (m : Mask) (x : LaneState) : (g.setLanes m x).width = g.width := rfl
@[simp] theorem Group.setLanes_age (g : Group) (m : Mask) (x : LaneState) : (g.setLanes m x).age = g.age := rfl
@[simp] theorem Group.setLanes_regs (g : Group) (m : Mask) (x : LaneState) : (g.setLanes m x).regs = g.regs := rfl
@[simp] theorem Group.setLanes_lanes (g : Group) (m : Mask) (x : LaneState) : (g.setLanes m x).lanes = onLanes m (fun _ => x) g.lanes := rfl
@[simp] theorem Group.setLanes_yields (g : Group) (m : Mask) (x : LaneState) : (g.setLanes m x).yields = g.yields := rfl
@[simp] theorem Group.setLanes_pausedUntil (g : Group) (m : Mask) (x : LaneState) : (g.setLanes m x).pausedUntil = g.pausedUntil := rfl
@[simp] theorem Group.setLanes_handler (g : Group) (m : Mask) (x : LaneState) : (g.setLanes m x).handler = g.handler := rfl
@[simp] theorem Group.setLanes_halted (g : Group) (m : Mask) (x : LaneState) : (g.setLanes m x).halted = g.halted := rfl
@[simp] theorem Group.setLanes_pend (g : Group) (m : Mask) (x : LaneState) : (g.setLanes m x).pend = g.pend := rfl
@[simp] theorem Group.setLanes_chainWaits (g : Group) (m : Mask) (x : LaneState) : (g.setLanes m x).chainWaits = g.chainWaits := rfl
@[simp] theorem Group.setLanes_nextSeq (g : Group) (m : Mask) (x : LaneState) : (g.setLanes m x).nextSeq = g.nextSeq := rfl
@[simp] theorem Group.setLanes_line (g : Group) (m : Mask) (x : LaneState) : (g.setLanes m x).line = g.line := rfl
@[simp] theorem Group.setLanes_refetch (g : Group) (m : Mask) (x : LaneState) : (g.setLanes m x).refetch = g.refetch := rfl
@[simp] theorem Group.setLanes_entering (g : Group) (m : Mask) (x : LaneState) : (g.setLanes m x).entering = g.entering := rfl
@[simp] theorem Group.setLanes_barrier (g : Group) (m : Mask) (x : LaneState) : (g.setLanes m x).barrier = g.barrier := rfl
@[simp] theorem Group.setLanes_partition (g : Group) (m : Mask) (x : LaneState) : (g.setLanes m x).partition = g.partition := rfl
@[simp] theorem Group.setLanes_staged (g : Group) (m : Mask) (x : LaneState) : (g.setLanes m x).staged = g.staged := rfl
@[simp] theorem Group.setLanes_evicted (g : Group) (m : Mask) (x : LaneState) : (g.setLanes m x).evicted = g.evicted := rfl
@[simp] theorem Group.setLanes_saved (g : Group) (m : Mask) (x : LaneState) : (g.setLanes m x).saved = g.saved := rfl
@[simp] theorem Group.setLanes_integrity (g : Group) (m : Mask) (x : LaneState) : (g.setLanes m x).integrity = g.integrity := rfl
@[simp] theorem Group.setLanes_conflicts (g : Group) (m : Mask) (x : LaneState) : (g.setLanes m x).conflicts = g.conflicts := rfl
@[simp] theorem Group.setLanes_inbox (g : Group) (m : Mask) (x : LaneState) : (g.setLanes m x).inbox = g.inbox := rfl
@[simp] theorem Group.setLanes_pumps (g : Group) (m : Mask) (x : LaneState) : (g.setLanes m x).pumps = g.pumps := rfl
@[simp] theorem Group.setLanes_stalled (g : Group) (m : Mask) (x : LaneState) : (g.setLanes m x).stalled = g.stalled := rfl
@[simp] theorem Group.setLanes_since (g : Group) (m : Mask) (x : LaneState) : (g.setLanes m x).since = g.since := rfl

/-! ### Group.setLpc -/

@[simp] theorem Group.setLpc_ctx (g : Group) (m : Mask) (f : Nat → Dword) : (g.setLpc m f).ctx = g.ctx := rfl
@[simp] theorem Group.setLpc_launch (g : Group) (m : Mask) (f : Nat → Dword) : (g.setLpc m f).launch = g.launch := rfl
@[simp] theorem Group.setLpc_team (g : Group) (m : Mask) (f : Nat → Dword) : (g.setLpc m f).team = g.team := rfl
@[simp] theorem Group.setLpc_index (g : Group) (m : Mask) (f : Nat → Dword) : (g.setLpc m f).index = g.index := rfl
@[simp] theorem Group.setLpc_width (g : Group) (m : Mask) (f : Nat → Dword) : (g.setLpc m f).width = g.width := rfl
@[simp] theorem Group.setLpc_age (g : Group) (m : Mask) (f : Nat → Dword) : (g.setLpc m f).age = g.age := rfl
@[simp] theorem Group.setLpc_regs (g : Group) (m : Mask) (f : Nat → Dword) : (g.setLpc m f).regs = { g.regs with lpc := onLanes m f g.regs.lpc } := rfl
@[simp] theorem Group.setLpc_lanes (g : Group) (m : Mask) (f : Nat → Dword) : (g.setLpc m f).lanes = g.lanes := rfl
@[simp] theorem Group.setLpc_yields (g : Group) (m : Mask) (f : Nat → Dword) : (g.setLpc m f).yields = g.yields := rfl
@[simp] theorem Group.setLpc_pausedUntil (g : Group) (m : Mask) (f : Nat → Dword) : (g.setLpc m f).pausedUntil = g.pausedUntil := rfl
@[simp] theorem Group.setLpc_handler (g : Group) (m : Mask) (f : Nat → Dword) : (g.setLpc m f).handler = g.handler := rfl
@[simp] theorem Group.setLpc_halted (g : Group) (m : Mask) (f : Nat → Dword) : (g.setLpc m f).halted = g.halted := rfl
@[simp] theorem Group.setLpc_pend (g : Group) (m : Mask) (f : Nat → Dword) : (g.setLpc m f).pend = g.pend := rfl
@[simp] theorem Group.setLpc_chainWaits (g : Group) (m : Mask) (f : Nat → Dword) : (g.setLpc m f).chainWaits = g.chainWaits := rfl
@[simp] theorem Group.setLpc_nextSeq (g : Group) (m : Mask) (f : Nat → Dword) : (g.setLpc m f).nextSeq = g.nextSeq := rfl
@[simp] theorem Group.setLpc_line (g : Group) (m : Mask) (f : Nat → Dword) : (g.setLpc m f).line = g.line := rfl
@[simp] theorem Group.setLpc_refetch (g : Group) (m : Mask) (f : Nat → Dword) : (g.setLpc m f).refetch = g.refetch := rfl
@[simp] theorem Group.setLpc_entering (g : Group) (m : Mask) (f : Nat → Dword) : (g.setLpc m f).entering = g.entering := rfl
@[simp] theorem Group.setLpc_barrier (g : Group) (m : Mask) (f : Nat → Dword) : (g.setLpc m f).barrier = g.barrier := rfl
@[simp] theorem Group.setLpc_partition (g : Group) (m : Mask) (f : Nat → Dword) : (g.setLpc m f).partition = g.partition := rfl
@[simp] theorem Group.setLpc_staged (g : Group) (m : Mask) (f : Nat → Dword) : (g.setLpc m f).staged = g.staged := rfl
@[simp] theorem Group.setLpc_evicted (g : Group) (m : Mask) (f : Nat → Dword) : (g.setLpc m f).evicted = g.evicted := rfl
@[simp] theorem Group.setLpc_saved (g : Group) (m : Mask) (f : Nat → Dword) : (g.setLpc m f).saved = g.saved := rfl
@[simp] theorem Group.setLpc_conflicts (g : Group) (m : Mask) (f : Nat → Dword) : (g.setLpc m f).conflicts = g.conflicts := rfl
@[simp] theorem Group.setLpc_inbox (g : Group) (m : Mask) (f : Nat → Dword) : (g.setLpc m f).inbox = g.inbox := rfl
@[simp] theorem Group.setLpc_pumps (g : Group) (m : Mask) (f : Nat → Dword) : (g.setLpc m f).pumps = g.pumps := rfl
@[simp] theorem Group.setLpc_stalled (g : Group) (m : Mask) (f : Nat → Dword) : (g.setLpc m f).stalled = g.stalled := rfl
@[simp] theorem Group.setLpc_since (g : Group) (m : Mask) (f : Nat → Dword) : (g.setLpc m f).since = g.since := rfl

/-! ### Group.orFlags -/

@[simp] theorem Group.orFlags_ctx (g : Group) (f : Word) : (g.orFlags f).ctx = g.ctx := rfl
@[simp] theorem Group.orFlags_launch (g : Group) (f : Word) : (g.orFlags f).launch = g.launch := rfl
@[simp] theorem Group.orFlags_team (g : Group) (f : Word) : (g.orFlags f).team = g.team := rfl
@[simp] theorem Group.orFlags_index (g : Group) (f : Word) : (g.orFlags f).index = g.index := rfl
@[simp] theorem Group.orFlags_width (g : Group) (f : Word) : (g.orFlags f).width = g.width := rfl
@[simp] theorem Group.orFlags_age (g : Group) (f : Word) : (g.orFlags f).age = g.age := rfl
@[simp] theorem Group.orFlags_regs (g : Group) (f : Word) : (g.orFlags f).regs = { g.regs with gs := g.regs.gs ||| f.zeroExtend 64 } := rfl
@[simp] theorem Group.orFlags_lanes (g : Group) (f : Word) : (g.orFlags f).lanes = g.lanes := rfl
@[simp] theorem Group.orFlags_yields (g : Group) (f : Word) : (g.orFlags f).yields = g.yields := rfl
@[simp] theorem Group.orFlags_pausedUntil (g : Group) (f : Word) : (g.orFlags f).pausedUntil = g.pausedUntil := rfl
@[simp] theorem Group.orFlags_handler (g : Group) (f : Word) : (g.orFlags f).handler = g.handler := rfl
@[simp] theorem Group.orFlags_halted (g : Group) (f : Word) : (g.orFlags f).halted = g.halted := rfl
@[simp] theorem Group.orFlags_pend (g : Group) (f : Word) : (g.orFlags f).pend = g.pend := rfl
@[simp] theorem Group.orFlags_chainWaits (g : Group) (f : Word) : (g.orFlags f).chainWaits = g.chainWaits := rfl
@[simp] theorem Group.orFlags_nextSeq (g : Group) (f : Word) : (g.orFlags f).nextSeq = g.nextSeq := rfl
@[simp] theorem Group.orFlags_line (g : Group) (f : Word) : (g.orFlags f).line = g.line := rfl
@[simp] theorem Group.orFlags_refetch (g : Group) (f : Word) : (g.orFlags f).refetch = g.refetch := rfl
@[simp] theorem Group.orFlags_entering (g : Group) (f : Word) : (g.orFlags f).entering = g.entering := rfl
@[simp] theorem Group.orFlags_barrier (g : Group) (f : Word) : (g.orFlags f).barrier = g.barrier := rfl
@[simp] theorem Group.orFlags_partition (g : Group) (f : Word) : (g.orFlags f).partition = g.partition := rfl
@[simp] theorem Group.orFlags_staged (g : Group) (f : Word) : (g.orFlags f).staged = g.staged := rfl
@[simp] theorem Group.orFlags_evicted (g : Group) (f : Word) : (g.orFlags f).evicted = g.evicted := rfl
@[simp] theorem Group.orFlags_saved (g : Group) (f : Word) : (g.orFlags f).saved = g.saved := rfl
@[simp] theorem Group.orFlags_integrity (g : Group) (f : Word) : (g.orFlags f).integrity = g.integrity := rfl
@[simp] theorem Group.orFlags_conflicts (g : Group) (f : Word) : (g.orFlags f).conflicts = g.conflicts := rfl
@[simp] theorem Group.orFlags_inbox (g : Group) (f : Word) : (g.orFlags f).inbox = g.inbox := rfl
@[simp] theorem Group.orFlags_pumps (g : Group) (f : Word) : (g.orFlags f).pumps = g.pumps := rfl
@[simp] theorem Group.orFlags_stalled (g : Group) (f : Word) : (g.orFlags f).stalled = g.stalled := rfl
@[simp] theorem Group.orFlags_since (g : Group) (f : Word) : (g.orFlags f).since = g.since := rfl

/-! ### Group.writeS -/

@[simp] theorem Group.writeS_ctx (g : Group) (n : Nat) (x : Dword) : (g.writeS n x).ctx = g.ctx := rfl
@[simp] theorem Group.writeS_launch (g : Group) (n : Nat) (x : Dword) : (g.writeS n x).launch = g.launch := rfl
@[simp] theorem Group.writeS_team (g : Group) (n : Nat) (x : Dword) : (g.writeS n x).team = g.team := rfl
@[simp] theorem Group.writeS_index (g : Group) (n : Nat) (x : Dword) : (g.writeS n x).index = g.index := rfl
@[simp] theorem Group.writeS_width (g : Group) (n : Nat) (x : Dword) : (g.writeS n x).width = g.width := rfl
@[simp] theorem Group.writeS_age (g : Group) (n : Nat) (x : Dword) : (g.writeS n x).age = g.age := rfl
@[simp] theorem Group.writeS_lanes (g : Group) (n : Nat) (x : Dword) : (g.writeS n x).lanes = g.lanes := rfl
@[simp] theorem Group.writeS_yields (g : Group) (n : Nat) (x : Dword) : (g.writeS n x).yields = g.yields := rfl
@[simp] theorem Group.writeS_pausedUntil (g : Group) (n : Nat) (x : Dword) : (g.writeS n x).pausedUntil = g.pausedUntil := rfl
@[simp] theorem Group.writeS_handler (g : Group) (n : Nat) (x : Dword) : (g.writeS n x).handler = g.handler := rfl
@[simp] theorem Group.writeS_halted (g : Group) (n : Nat) (x : Dword) : (g.writeS n x).halted = g.halted := rfl
@[simp] theorem Group.writeS_chainWaits (g : Group) (n : Nat) (x : Dword) : (g.writeS n x).chainWaits = g.chainWaits := rfl
@[simp] theorem Group.writeS_nextSeq (g : Group) (n : Nat) (x : Dword) : (g.writeS n x).nextSeq = g.nextSeq := rfl
@[simp] theorem Group.writeS_line (g : Group) (n : Nat) (x : Dword) : (g.writeS n x).line = g.line := rfl
@[simp] theorem Group.writeS_refetch (g : Group) (n : Nat) (x : Dword) : (g.writeS n x).refetch = g.refetch := rfl
@[simp] theorem Group.writeS_entering (g : Group) (n : Nat) (x : Dword) : (g.writeS n x).entering = g.entering := rfl
@[simp] theorem Group.writeS_barrier (g : Group) (n : Nat) (x : Dword) : (g.writeS n x).barrier = g.barrier := rfl
@[simp] theorem Group.writeS_partition (g : Group) (n : Nat) (x : Dword) : (g.writeS n x).partition = g.partition := rfl
@[simp] theorem Group.writeS_staged (g : Group) (n : Nat) (x : Dword) : (g.writeS n x).staged = g.staged := rfl
@[simp] theorem Group.writeS_evicted (g : Group) (n : Nat) (x : Dword) : (g.writeS n x).evicted = g.evicted := rfl
@[simp] theorem Group.writeS_saved (g : Group) (n : Nat) (x : Dword) : (g.writeS n x).saved = g.saved := rfl
@[simp] theorem Group.writeS_conflicts (g : Group) (n : Nat) (x : Dword) : (g.writeS n x).conflicts = g.conflicts := rfl
@[simp] theorem Group.writeS_inbox (g : Group) (n : Nat) (x : Dword) : (g.writeS n x).inbox = g.inbox := rfl
@[simp] theorem Group.writeS_pumps (g : Group) (n : Nat) (x : Dword) : (g.writeS n x).pumps = g.pumps := rfl
@[simp] theorem Group.writeS_stalled (g : Group) (n : Nat) (x : Dword) : (g.writeS n x).stalled = g.stalled := rfl
@[simp] theorem Group.writeS_since (g : Group) (n : Nat) (x : Dword) : (g.writeS n x).since = g.since := rfl

/-! ### Group.writeP -/

@[simp] theorem Group.writeP_ctx (g : Group) (n : Nat) (m x : Mask) : (g.writeP n m x).ctx = g.ctx := by unfold Group.writeP; split <;> rfl
@[simp] theorem Group.writeP_launch (g : Group) (n : Nat) (m x : Mask) : (g.writeP n m x).launch = g.launch := by unfold Group.writeP; split <;> rfl
@[simp] theorem Group.writeP_team (g : Group) (n : Nat) (m x : Mask) : (g.writeP n m x).team = g.team := by unfold Group.writeP; split <;> rfl
@[simp] theorem Group.writeP_index (g : Group) (n : Nat) (m x : Mask) : (g.writeP n m x).index = g.index := by unfold Group.writeP; split <;> rfl
@[simp] theorem Group.writeP_width (g : Group) (n : Nat) (m x : Mask) : (g.writeP n m x).width = g.width := by unfold Group.writeP; split <;> rfl
@[simp] theorem Group.writeP_age (g : Group) (n : Nat) (m x : Mask) : (g.writeP n m x).age = g.age := by unfold Group.writeP; split <;> rfl
@[simp] theorem Group.writeP_lanes (g : Group) (n : Nat) (m x : Mask) : (g.writeP n m x).lanes = g.lanes := by unfold Group.writeP; split <;> rfl
@[simp] theorem Group.writeP_yields (g : Group) (n : Nat) (m x : Mask) : (g.writeP n m x).yields = g.yields := by unfold Group.writeP; split <;> rfl
@[simp] theorem Group.writeP_pausedUntil (g : Group) (n : Nat) (m x : Mask) : (g.writeP n m x).pausedUntil = g.pausedUntil := by unfold Group.writeP; split <;> rfl
@[simp] theorem Group.writeP_handler (g : Group) (n : Nat) (m x : Mask) : (g.writeP n m x).handler = g.handler := by unfold Group.writeP; split <;> rfl
@[simp] theorem Group.writeP_halted (g : Group) (n : Nat) (m x : Mask) : (g.writeP n m x).halted = g.halted := by unfold Group.writeP; split <;> rfl
@[simp] theorem Group.writeP_pend (g : Group) (n : Nat) (m x : Mask) : (g.writeP n m x).pend = g.pend := by unfold Group.writeP; split <;> rfl
@[simp] theorem Group.writeP_chainWaits (g : Group) (n : Nat) (m x : Mask) : (g.writeP n m x).chainWaits = g.chainWaits := by unfold Group.writeP; split <;> rfl
@[simp] theorem Group.writeP_nextSeq (g : Group) (n : Nat) (m x : Mask) : (g.writeP n m x).nextSeq = g.nextSeq := by unfold Group.writeP; split <;> rfl
@[simp] theorem Group.writeP_line (g : Group) (n : Nat) (m x : Mask) : (g.writeP n m x).line = g.line := by unfold Group.writeP; split <;> rfl
@[simp] theorem Group.writeP_refetch (g : Group) (n : Nat) (m x : Mask) : (g.writeP n m x).refetch = g.refetch := by unfold Group.writeP; split <;> rfl
@[simp] theorem Group.writeP_entering (g : Group) (n : Nat) (m x : Mask) : (g.writeP n m x).entering = g.entering := by unfold Group.writeP; split <;> rfl
@[simp] theorem Group.writeP_barrier (g : Group) (n : Nat) (m x : Mask) : (g.writeP n m x).barrier = g.barrier := by unfold Group.writeP; split <;> rfl
@[simp] theorem Group.writeP_partition (g : Group) (n : Nat) (m x : Mask) : (g.writeP n m x).partition = g.partition := by unfold Group.writeP; split <;> rfl
@[simp] theorem Group.writeP_staged (g : Group) (n : Nat) (m x : Mask) : (g.writeP n m x).staged = g.staged := by unfold Group.writeP; split <;> rfl
@[simp] theorem Group.writeP_evicted (g : Group) (n : Nat) (m x : Mask) : (g.writeP n m x).evicted = g.evicted := by unfold Group.writeP; split <;> rfl
@[simp] theorem Group.writeP_saved (g : Group) (n : Nat) (m x : Mask) : (g.writeP n m x).saved = g.saved := by unfold Group.writeP; split <;> rfl
@[simp] theorem Group.writeP_integrity (g : Group) (n : Nat) (m x : Mask) : (g.writeP n m x).integrity = g.integrity := by unfold Group.writeP; split <;> rfl
@[simp] theorem Group.writeP_conflicts (g : Group) (n : Nat) (m x : Mask) : (g.writeP n m x).conflicts = g.conflicts := by unfold Group.writeP; split <;> rfl
@[simp] theorem Group.writeP_inbox (g : Group) (n : Nat) (m x : Mask) : (g.writeP n m x).inbox = g.inbox := by unfold Group.writeP; split <;> rfl
@[simp] theorem Group.writeP_pumps (g : Group) (n : Nat) (m x : Mask) : (g.writeP n m x).pumps = g.pumps := by unfold Group.writeP; split <;> rfl
@[simp] theorem Group.writeP_stalled (g : Group) (n : Nat) (m x : Mask) : (g.writeP n m x).stalled = g.stalled := by unfold Group.writeP; split <;> rfl
@[simp] theorem Group.writeP_since (g : Group) (n : Nat) (m x : Mask) : (g.writeP n m x).since = g.since := by unfold Group.writeP; split <;> rfl

/-! ### Group.restage -/

@[simp] theorem Group.restage_ctx (g : Group) (n : Nat) (m : Mask) (was : Bool) : (g.restage n m was).ctx = g.ctx := by unfold Group.restage; split; rfl; dsimp only; split <;> rfl
@[simp] theorem Group.restage_launch (g : Group) (n : Nat) (m : Mask) (was : Bool) : (g.restage n m was).launch = g.launch := by unfold Group.restage; split; rfl; dsimp only; split <;> rfl
@[simp] theorem Group.restage_team (g : Group) (n : Nat) (m : Mask) (was : Bool) : (g.restage n m was).team = g.team := by unfold Group.restage; split; rfl; dsimp only; split <;> rfl
@[simp] theorem Group.restage_index (g : Group) (n : Nat) (m : Mask) (was : Bool) : (g.restage n m was).index = g.index := by unfold Group.restage; split; rfl; dsimp only; split <;> rfl
@[simp] theorem Group.restage_width (g : Group) (n : Nat) (m : Mask) (was : Bool) : (g.restage n m was).width = g.width := by unfold Group.restage; split; rfl; dsimp only; split <;> rfl
@[simp] theorem Group.restage_age (g : Group) (n : Nat) (m : Mask) (was : Bool) : (g.restage n m was).age = g.age := by unfold Group.restage; split; rfl; dsimp only; split <;> rfl
@[simp] theorem Group.restage_regs (g : Group) (n : Nat) (m : Mask) (was : Bool) : (g.restage n m was).regs = g.regs := by unfold Group.restage; split; rfl; dsimp only; split <;> rfl
@[simp] theorem Group.restage_lanes (g : Group) (n : Nat) (m : Mask) (was : Bool) : (g.restage n m was).lanes = g.lanes := by unfold Group.restage; split; rfl; dsimp only; split <;> rfl
@[simp] theorem Group.restage_yields (g : Group) (n : Nat) (m : Mask) (was : Bool) : (g.restage n m was).yields = g.yields := by unfold Group.restage; split; rfl; dsimp only; split <;> rfl
@[simp] theorem Group.restage_pausedUntil (g : Group) (n : Nat) (m : Mask) (was : Bool) : (g.restage n m was).pausedUntil = g.pausedUntil := by unfold Group.restage; split; rfl; dsimp only; split <;> rfl
@[simp] theorem Group.restage_handler (g : Group) (n : Nat) (m : Mask) (was : Bool) : (g.restage n m was).handler = g.handler := by unfold Group.restage; split; rfl; dsimp only; split <;> rfl
@[simp] theorem Group.restage_halted (g : Group) (n : Nat) (m : Mask) (was : Bool) : (g.restage n m was).halted = g.halted := by unfold Group.restage; split; rfl; dsimp only; split <;> rfl
@[simp] theorem Group.restage_pend (g : Group) (n : Nat) (m : Mask) (was : Bool) : (g.restage n m was).pend = g.pend := by unfold Group.restage; split; rfl; dsimp only; split <;> rfl
@[simp] theorem Group.restage_chainWaits (g : Group) (n : Nat) (m : Mask) (was : Bool) : (g.restage n m was).chainWaits = g.chainWaits := by unfold Group.restage; split; rfl; dsimp only; split <;> rfl
@[simp] theorem Group.restage_nextSeq (g : Group) (n : Nat) (m : Mask) (was : Bool) : (g.restage n m was).nextSeq = g.nextSeq := by unfold Group.restage; split; rfl; dsimp only; split <;> rfl
@[simp] theorem Group.restage_line (g : Group) (n : Nat) (m : Mask) (was : Bool) : (g.restage n m was).line = g.line := by unfold Group.restage; split; rfl; dsimp only; split <;> rfl
@[simp] theorem Group.restage_refetch (g : Group) (n : Nat) (m : Mask) (was : Bool) : (g.restage n m was).refetch = g.refetch := by unfold Group.restage; split; rfl; dsimp only; split <;> rfl
@[simp] theorem Group.restage_entering (g : Group) (n : Nat) (m : Mask) (was : Bool) : (g.restage n m was).entering = g.entering := by unfold Group.restage; split; rfl; dsimp only; split <;> rfl
@[simp] theorem Group.restage_barrier (g : Group) (n : Nat) (m : Mask) (was : Bool) : (g.restage n m was).barrier = g.barrier := by unfold Group.restage; split; rfl; dsimp only; split <;> rfl
@[simp] theorem Group.restage_partition (g : Group) (n : Nat) (m : Mask) (was : Bool) : (g.restage n m was).partition = g.partition := by unfold Group.restage; split; rfl; dsimp only; split <;> rfl
@[simp] theorem Group.restage_evicted (g : Group) (n : Nat) (m : Mask) (was : Bool) : (g.restage n m was).evicted = g.evicted := by unfold Group.restage; split; rfl; dsimp only; split <;> rfl
@[simp] theorem Group.restage_saved (g : Group) (n : Nat) (m : Mask) (was : Bool) : (g.restage n m was).saved = g.saved := by unfold Group.restage; split; rfl; dsimp only; split <;> rfl
@[simp] theorem Group.restage_conflicts (g : Group) (n : Nat) (m : Mask) (was : Bool) : (g.restage n m was).conflicts = g.conflicts := by unfold Group.restage; split; rfl; dsimp only; split <;> rfl
@[simp] theorem Group.restage_inbox (g : Group) (n : Nat) (m : Mask) (was : Bool) : (g.restage n m was).inbox = g.inbox := by unfold Group.restage; split; rfl; dsimp only; split <;> rfl
@[simp] theorem Group.restage_pumps (g : Group) (n : Nat) (m : Mask) (was : Bool) : (g.restage n m was).pumps = g.pumps := by unfold Group.restage; split; rfl; dsimp only; split <;> rfl
@[simp] theorem Group.restage_stalled (g : Group) (n : Nat) (m : Mask) (was : Bool) : (g.restage n m was).stalled = g.stalled := by unfold Group.restage; split; rfl; dsimp only; split <;> rfl
@[simp] theorem Group.restage_since (g : Group) (n : Nat) (m : Mask) (was : Bool) : (g.restage n m was).since = g.since := by unfold Group.restage; split; rfl; dsimp only; split <;> rfl

/-! ### Group.writeV -/

@[simp] theorem Group.writeV_ctx (g : Group) (n : Nat) (m : Mask) (sh : Shape) (x : Nat → Word) : (g.writeV n m sh x).ctx = g.ctx := by unfold Group.writeV; simp
@[simp] theorem Group.writeV_launch (g : Group) (n : Nat) (m : Mask) (sh : Shape) (x : Nat → Word) : (g.writeV n m sh x).launch = g.launch := by unfold Group.writeV; simp
@[simp] theorem Group.writeV_team (g : Group) (n : Nat) (m : Mask) (sh : Shape) (x : Nat → Word) : (g.writeV n m sh x).team = g.team := by unfold Group.writeV; simp
@[simp] theorem Group.writeV_index (g : Group) (n : Nat) (m : Mask) (sh : Shape) (x : Nat → Word) : (g.writeV n m sh x).index = g.index := by unfold Group.writeV; simp
@[simp] theorem Group.writeV_width (g : Group) (n : Nat) (m : Mask) (sh : Shape) (x : Nat → Word) : (g.writeV n m sh x).width = g.width := by unfold Group.writeV; simp
@[simp] theorem Group.writeV_age (g : Group) (n : Nat) (m : Mask) (sh : Shape) (x : Nat → Word) : (g.writeV n m sh x).age = g.age := by unfold Group.writeV; simp
@[simp] theorem Group.writeV_lanes (g : Group) (n : Nat) (m : Mask) (sh : Shape) (x : Nat → Word) : (g.writeV n m sh x).lanes = g.lanes := by unfold Group.writeV; simp
@[simp] theorem Group.writeV_yields (g : Group) (n : Nat) (m : Mask) (sh : Shape) (x : Nat → Word) : (g.writeV n m sh x).yields = g.yields := by unfold Group.writeV; simp
@[simp] theorem Group.writeV_pausedUntil (g : Group) (n : Nat) (m : Mask) (sh : Shape) (x : Nat → Word) : (g.writeV n m sh x).pausedUntil = g.pausedUntil := by unfold Group.writeV; simp
@[simp] theorem Group.writeV_handler (g : Group) (n : Nat) (m : Mask) (sh : Shape) (x : Nat → Word) : (g.writeV n m sh x).handler = g.handler := by unfold Group.writeV; simp
@[simp] theorem Group.writeV_halted (g : Group) (n : Nat) (m : Mask) (sh : Shape) (x : Nat → Word) : (g.writeV n m sh x).halted = g.halted := by unfold Group.writeV; simp
@[simp] theorem Group.writeV_chainWaits (g : Group) (n : Nat) (m : Mask) (sh : Shape) (x : Nat → Word) : (g.writeV n m sh x).chainWaits = g.chainWaits := by unfold Group.writeV; simp
@[simp] theorem Group.writeV_nextSeq (g : Group) (n : Nat) (m : Mask) (sh : Shape) (x : Nat → Word) : (g.writeV n m sh x).nextSeq = g.nextSeq := by unfold Group.writeV; simp
@[simp] theorem Group.writeV_line (g : Group) (n : Nat) (m : Mask) (sh : Shape) (x : Nat → Word) : (g.writeV n m sh x).line = g.line := by unfold Group.writeV; simp
@[simp] theorem Group.writeV_refetch (g : Group) (n : Nat) (m : Mask) (sh : Shape) (x : Nat → Word) : (g.writeV n m sh x).refetch = g.refetch := by unfold Group.writeV; simp
@[simp] theorem Group.writeV_entering (g : Group) (n : Nat) (m : Mask) (sh : Shape) (x : Nat → Word) : (g.writeV n m sh x).entering = g.entering := by unfold Group.writeV; simp
@[simp] theorem Group.writeV_barrier (g : Group) (n : Nat) (m : Mask) (sh : Shape) (x : Nat → Word) : (g.writeV n m sh x).barrier = g.barrier := by unfold Group.writeV; simp
@[simp] theorem Group.writeV_partition (g : Group) (n : Nat) (m : Mask) (sh : Shape) (x : Nat → Word) : (g.writeV n m sh x).partition = g.partition := by unfold Group.writeV; simp
@[simp] theorem Group.writeV_evicted (g : Group) (n : Nat) (m : Mask) (sh : Shape) (x : Nat → Word) : (g.writeV n m sh x).evicted = g.evicted := by unfold Group.writeV; simp
@[simp] theorem Group.writeV_saved (g : Group) (n : Nat) (m : Mask) (sh : Shape) (x : Nat → Word) : (g.writeV n m sh x).saved = g.saved := by unfold Group.writeV; simp
@[simp] theorem Group.writeV_conflicts (g : Group) (n : Nat) (m : Mask) (sh : Shape) (x : Nat → Word) : (g.writeV n m sh x).conflicts = g.conflicts := by unfold Group.writeV; simp
@[simp] theorem Group.writeV_inbox (g : Group) (n : Nat) (m : Mask) (sh : Shape) (x : Nat → Word) : (g.writeV n m sh x).inbox = g.inbox := by unfold Group.writeV; simp
@[simp] theorem Group.writeV_pumps (g : Group) (n : Nat) (m : Mask) (sh : Shape) (x : Nat → Word) : (g.writeV n m sh x).pumps = g.pumps := by unfold Group.writeV; simp
@[simp] theorem Group.writeV_stalled (g : Group) (n : Nat) (m : Mask) (sh : Shape) (x : Nat → Word) : (g.writeV n m sh x).stalled = g.stalled := by unfold Group.writeV; simp
@[simp] theorem Group.writeV_since (g : Group) (n : Nat) (m : Mask) (sh : Shape) (x : Nat → Word) : (g.writeV n m sh x).since = g.since := by unfold Group.writeV; simp

/-! ### Group.chainwait -/

@[simp] theorem Group.chainwait_ctx (g : Group) (m : Mask) (w : List (Nat × ChainWait)) : (g.chainwait m w).ctx = g.ctx := rfl
@[simp] theorem Group.chainwait_launch (g : Group) (m : Mask) (w : List (Nat × ChainWait)) : (g.chainwait m w).launch = g.launch := rfl
@[simp] theorem Group.chainwait_team (g : Group) (m : Mask) (w : List (Nat × ChainWait)) : (g.chainwait m w).team = g.team := rfl
@[simp] theorem Group.chainwait_index (g : Group) (m : Mask) (w : List (Nat × ChainWait)) : (g.chainwait m w).index = g.index := rfl
@[simp] theorem Group.chainwait_width (g : Group) (m : Mask) (w : List (Nat × ChainWait)) : (g.chainwait m w).width = g.width := rfl
@[simp] theorem Group.chainwait_age (g : Group) (m : Mask) (w : List (Nat × ChainWait)) : (g.chainwait m w).age = g.age := rfl
@[simp] theorem Group.chainwait_regs (g : Group) (m : Mask) (w : List (Nat × ChainWait)) : (g.chainwait m w).regs = g.regs := rfl
@[simp] theorem Group.chainwait_yields (g : Group) (m : Mask) (w : List (Nat × ChainWait)) : (g.chainwait m w).yields = g.yields := rfl
@[simp] theorem Group.chainwait_pausedUntil (g : Group) (m : Mask) (w : List (Nat × ChainWait)) : (g.chainwait m w).pausedUntil = g.pausedUntil := rfl
@[simp] theorem Group.chainwait_handler (g : Group) (m : Mask) (w : List (Nat × ChainWait)) : (g.chainwait m w).handler = g.handler := rfl
@[simp] theorem Group.chainwait_halted (g : Group) (m : Mask) (w : List (Nat × ChainWait)) : (g.chainwait m w).halted = g.halted := rfl
@[simp] theorem Group.chainwait_pend (g : Group) (m : Mask) (w : List (Nat × ChainWait)) : (g.chainwait m w).pend = g.pend := rfl
@[simp] theorem Group.chainwait_nextSeq (g : Group) (m : Mask) (w : List (Nat × ChainWait)) : (g.chainwait m w).nextSeq = g.nextSeq := rfl
@[simp] theorem Group.chainwait_line (g : Group) (m : Mask) (w : List (Nat × ChainWait)) : (g.chainwait m w).line = g.line := rfl
@[simp] theorem Group.chainwait_refetch (g : Group) (m : Mask) (w : List (Nat × ChainWait)) : (g.chainwait m w).refetch = g.refetch := rfl
@[simp] theorem Group.chainwait_entering (g : Group) (m : Mask) (w : List (Nat × ChainWait)) : (g.chainwait m w).entering = g.entering := rfl
@[simp] theorem Group.chainwait_barrier (g : Group) (m : Mask) (w : List (Nat × ChainWait)) : (g.chainwait m w).barrier = g.barrier := rfl
@[simp] theorem Group.chainwait_partition (g : Group) (m : Mask) (w : List (Nat × ChainWait)) : (g.chainwait m w).partition = g.partition := rfl
@[simp] theorem Group.chainwait_staged (g : Group) (m : Mask) (w : List (Nat × ChainWait)) : (g.chainwait m w).staged = g.staged := rfl
@[simp] theorem Group.chainwait_evicted (g : Group) (m : Mask) (w : List (Nat × ChainWait)) : (g.chainwait m w).evicted = g.evicted := rfl
@[simp] theorem Group.chainwait_saved (g : Group) (m : Mask) (w : List (Nat × ChainWait)) : (g.chainwait m w).saved = g.saved := rfl
@[simp] theorem Group.chainwait_integrity (g : Group) (m : Mask) (w : List (Nat × ChainWait)) : (g.chainwait m w).integrity = g.integrity := rfl
@[simp] theorem Group.chainwait_conflicts (g : Group) (m : Mask) (w : List (Nat × ChainWait)) : (g.chainwait m w).conflicts = g.conflicts := rfl
@[simp] theorem Group.chainwait_inbox (g : Group) (m : Mask) (w : List (Nat × ChainWait)) : (g.chainwait m w).inbox = g.inbox := rfl
@[simp] theorem Group.chainwait_pumps (g : Group) (m : Mask) (w : List (Nat × ChainWait)) : (g.chainwait m w).pumps = g.pumps := rfl
@[simp] theorem Group.chainwait_stalled (g : Group) (m : Mask) (w : List (Nat × ChainWait)) : (g.chainwait m w).stalled = g.stalled := rfl
@[simp] theorem Group.chainwait_since (g : Group) (m : Mask) (w : List (Nat × ChainWait)) : (g.chainwait m w).since = g.since := rfl

/-! ### A group that is there -/

@[simp] theorem State.onGroup_groups (s : State) (k : Nat) (f : Group → Group) (g : Group) (h : lookup s.groups k = some g) :
    (s.onGroup k f).groups = insert s.groups k (f g) := by unfold State.onGroup; rw [h]; rfl

end Sys2Proof.Machine
end

