-- ==== Sys2Proof/Laws/Table.lean ====
section
/-! SUPPORT. Laws/Table: the small lemmas of tables, lane masks and lists changed lane by lane. -/
namespace Sys2Proof.Machine

/-! ### Tables -/

@[simp] theorem lookup_insert_same {α : Type} (t : List (Nat × α)) (k : Nat) (x : α) : lookup (insert t k x) k = some x := by
  induction t with
  | nil => simp [insert, lookup]
  | cons c r ih =>
    obtain ⟨a, y⟩ := c
    by_cases h : a = k <;> simp [insert, lookup, h, ih]

theorem lookup_insert_other {α : Type} (t : List (Nat × α)) (k j : Nat) (x : α) (h : j ≠ k) : lookup (insert t k x) j = lookup t j := by
  induction t with
  | nil => simp [insert, lookup, Ne.symm h]
  | cons c r ih =>
    obtain ⟨a, y⟩ := c
    by_cases hk : a = k
    · simp [insert, lookup, hk, Ne.symm h]
    · by_cases hj : a = j <;> simp [insert, lookup, hk, hj, ih, h]

theorem insert_lookup_self {α : Type} (t : List (Nat × α)) (k : Nat) (x : α) (h : lookup t k = some x) : insert t k x = t := by
  induction t with
  | nil => simp [lookup] at h
  | cons c r ih =>
    obtain ⟨a, y⟩ := c
    by_cases hk : a = k
    · simp [lookup, hk] at h
      simp [insert, hk, h]
    · simp [lookup, hk] at h
      simp [insert, hk, ih h]

theorem insert_insert {α : Type} (t : List (Nat × α)) (k : Nat) (x y : α) : insert (insert t k x) k y = insert t k y := by
  induction t with
  | nil => simp [insert]
  | cons c r ih =>
    obtain ⟨a, z⟩ := c
    by_cases hk : a = k <;> simp [insert, hk, ih]

theorem lookup_erase_same {α : Type} (t : List (Nat × α)) (k : Nat) : lookup (erase t k) k = none := by
  induction t with
  | nil => simp [erase, lookup]
  | cons c r ih =>
    obtain ⟨a, z⟩ := c
    by_cases hk : a = k <;> simp [erase, lookup, hk, ih]

theorem lookup_erase_other {α : Type} (t : List (Nat × α)) (k j : Nat) (h : j ≠ k) : lookup (erase t k) j = lookup t j := by
  induction t with
  | nil => simp [erase]
  | cons c r ih =>
    obtain ⟨a, z⟩ := c
    by_cases hk : a = k
    · simp [erase, lookup, hk, ih, Ne.symm h]
    · by_cases hj : a = j <;> simp [erase, lookup, hk, hj, ih, h]

/-! ### Lane masks -/

@[simp] theorem Mask.has_and (a b : Mask) (l : Nat) : (a &&& b).has l = (a.has l && b.has l) := by simp [Mask.has]
@[simp] theorem Mask.has_or (a b : Mask) (l : Nat) : (a ||| b).has l = (a.has l || b.has l) := by simp [Mask.has]
theorem Mask.has_not (a : Mask) (l : Nat) : (~~~a).has l = (decide (l < 64) && !a.has l) := by simp [Mask.has]
@[simp] theorem Mask.has_zero (l : Nat) : Mask.has 0#64 l = false := by simp [Mask.has]

@[simp] theorem Mask.and_ones (m : Mask) : m &&& 18446744073709551615#64 = m := BitVec.and_allOnes
theorem Mask.and_not_zero (m : Mask) : m &&& ~~~(0 : Mask) = m := BitVec.and_allOnes

theorem Mask.has_bit (k l : Nat) : (Mask.bit k).has l = (decide (l < 64) && decide (k = l)) := by
  simp [Mask.has, Mask.bit]
  by_cases h : l < 64 <;> simp [h]
  by_cases hk : k = l
  · simp [hk]
  · by_cases hl : l < k
    · simp [hl, hk]
    · have : 0 < l - k := by omega
      simp [hl, hk]
      omega

theorem Mask.has_add (m : Mask) (k l : Nat) : (m.add k).has l = (m.has l || (decide (l < 64) && decide (k = l))) := by
  simp [Mask.add, Mask.has_bit]

/-- The bits a fold of tests leaves. -/
theorem Mask.has_foldl (f : Nat → Bool) (xs : List Nat) (m : Mask) (l : Nat) :
    (xs.foldl (fun m l => if f l then Mask.add m l else m) m).has l = (m.has l || (decide (l < 64) && (xs.contains l && f l))) := by
  induction xs generalizing m with
  | nil => simp
  | cons x r ih =>
    rw [List.foldl_cons, ih]
    by_cases hx : x = l
    · subst hx
      by_cases hf : f x <;> by_cases h64 : x < 64 <;> simp [hf, h64, Mask.has_add]
    · by_cases hf : f x <;> by_cases h64 : l < 64 <;> simp [hf, h64, Mask.has_add, hx, Ne.symm hx]

theorem Mask.has_of (w : Nat) (f : Nat → Bool) (l : Nat) : (Mask.of w f).has l = (decide (l < 64) && (decide (l < w) && f l)) := by
  simp [Mask.of, Mask.has_foldl]

theorem Mask.mem_lanes (m : Mask) (w l : Nat) : l ∈ m.lanes w ↔ l < w ∧ m.has l = true := by
  simp [Mask.lanes, Mask.has]

theorem Mask.has_lt (m : Mask) (l : Nat) (h : m.has l = true) : l < 64 := by
  apply Decidable.byContradiction
  intro hl
  simp [Mask.has, BitVec.getLsbD_of_ge m l (by omega)] at h

theorem Mask.ext_has {a b : Mask} (h : ∀ l, a.has l = b.has l) : a = b := by
  apply BitVec.eq_of_getLsbD_eq
  intro i _
  exact h i

theorem Mask.within_iff (a b : Mask) : a.within b = true ↔ ∀ l, a.has l = true → b.has l = true := by
  constructor
  · intro h l hl
    simp [Mask.within] at h
    have h' : (a &&& ~~~b).has l = false := by rw [h]; exact Mask.has_zero l
    have := Mask.has_lt a l hl
    simp [Mask.has_not, hl, this] at h'
    exact h'
  · intro h
    simp [Mask.within]
    apply Mask.ext_has
    intro l
    by_cases hl : a.has l = true
    · simp [Mask.has_not, hl, h l hl]
    · simp [Mask.has_not, hl]

/-! ### Lists changed lane by lane -/

@[simp] theorem mapFrom_length {α : Type} (f : Nat → α → α) (k : Nat) (l : List α) : (mapFrom f k l).length = l.length := by
  induction l generalizing k with
  | nil => simp [mapFrom]
  | cons x r ih => simp [mapFrom, ih]

theorem mapFrom_get {α : Type} (f : Nat → α → α) (k i : Nat) (l : List α) : (mapFrom f k l)[i]? = l[i]?.map (f (k + i)) := by
  induction l generalizing k i with
  | nil => simp [mapFrom]
  | cons x r ih =>
    cases i with
    | zero => simp [mapFrom]
    | succ i => simp [mapFrom, ih]; congr 2; omega

theorem onLanes_get {α : Type} (m : Mask) (f : Nat → α) (l : List α) (i : Nat) :
    (onLanes m f l)[i]? = l[i]?.map (fun x => if m.has i then f i else x) := by
  simp [onLanes, mapFrom_get]

@[simp] theorem onLanes_zero {α : Type} (f : Nat → α) (l : List α) : onLanes 0 f l = l := by
  apply List.ext_getElem?
  intro i
  simp [onLanes_get]

end Sys2Proof.Machine
end

