-- ==== Sys2Proof/Laws/Issue.lean ====
section
/-! SUPPORT. Laws/Issue: what the common frame of a group's instruction does when nothing stands in its way. -/
namespace Sys2Proof.Claims
open Sys2Proof.Machine

/-- What an issue is made of. -/
theorem Issues.parts {s : State} {pred : Fin 8} {neg : Bool} {is : Issue} (h : Issues s pred neg is) :
    s.group is.key = some is.g ∧ lookup s.teams is.g.team = some is.t ∧ lookup s.launches is.g.launch = some is.l ∧
      is.g.issuePc = some is.pc ∧ is.ex = is.g.executing is.pc ∧ is.gd = is.g.guarded is.ex pred neg ∧
      s.env.cur = .group is.core is.slot ∧ is.key = groupKey is.core is.slot := by
  have hi := h.issue
  have hr : ∀ g, s.reading g = g := by intro g; simp [State.reading, h.single]
  unfold State.issue at hi
  split at hi
  · dsimp only at hi
    split at hi
    · simp at hi
    · split at hi
      · simp only [hr, Option.some.injEq] at hi
        subst hi
        simp_all
      · simp at hi
  · simp at hi

/-- Nothing that the instruction names awaits a result, and no trap does. -/
theorem mustAwait_none {s : State} {pred : Fin 8} {neg : Bool} {is : Issue} (h : Issues s pred neg is) (regs : List RegCode) : mustAwait is regs = false := by
  simp [mustAwait, busy, h.pend]

/-- With nothing pending, a trap waits for what a plain store waits for. -/
theorem trapAwaits_eq {s : State} {pred : Fin 8} {neg : Bool} {is : Issue} (h : Issues s pred neg is) (t : State) :
    trapAwaits t is.key is.g = mustWait t is.key .plain true := by
  simp [trapAwaits, h.pend]

/-- No register that the instruction reads fails its parity. -/
theorem checkRegs_ok {s : State} {pred : Fin 8} {neg : Bool} {is : Issue} (h : Issues s pred neg is) (t : State) (reads : List RegCode) :
    checkRegs t is reads = (t, 0) := by
  simp [checkRegs, soundStore, h.words, h.tables, h.staged]

@[simp] theorem conclude_commit (is : Issue) (s t : State) (stay moved : Mask) : is.conclude s (.commit t stay moved) = is.finish (.commit t stay moved) := rfl

@[simp] theorem conclude_hold (is : Issue) (s t : State) : is.conclude s (.hold t) = is.finish (.hold t) := rfl

/-- Where no store of the group has to wait, neither does a trap. -/
theorem conclude_eq {s : State} {pred : Fin 8} {neg : Bool} {is : Issue} (h : Issues s pred neg is) (t : State)
    (hw : mustWait t is.key .plain true = false) (v : Verdict) : is.conclude t v = is.finish v := by
  cases v <;> simp [Issue.conclude, trapAwaits_eq h, hw]

/-- An instruction whose issue has nothing in its way takes the faults of R95 first, and then does what its own description says. -/
theorem run_ahead {s : State} {pred : Fin 8} {neg : Bool} {is : Issue} (h : Issues s pred neg is) (reads writes : List RegCode)
    (body : Issue → State → Verdict) (ahead : Ahead) :
    s.run pred neg reads writes body ahead = is.conclude s (match ahead.first is with
      | some code => .trap s code 0 0 is.ex
      | none => match ahead.second is s with
        | some v => v
        | none => body is s) := by
  unfold State.run
  simp only [h.issue, mustAwait_none h, afterParity, checkRegs_ok h, h.resume]
  cases ahead.first is with
  | some code => simp
  | none =>
    cases hq : ahead.second is s with
    | some x => simp
    | none => simp

/-- An instruction whose issue has nothing in its way does what its own description says. -/
theorem run_eq {s : State} {pred : Fin 8} {neg : Bool} {is : Issue} (h : Issues s pred neg is) (reads writes : List RegCode)
    (body : Issue → State → Verdict) : s.run pred neg reads writes body = is.conclude s (body is s) := by
  rw [run_ahead h]

/-- With nothing pending, the end of an issue moves the lanes on and empties the inbox. -/
theorem advance_eq (g : Group) (is : Issue) (stay moved : Mask) (hp : g.pend = []) (hy : g.yields = []) (hb : g.integrity.bad = []) :
    g.advance is stay moved =
      { g with regs := { g.regs with lpc := onLanes (is.ex &&& ~~~stay &&& ~~~moved) (fun l => g.withPc l (nextPc is.pc)) g.regs.lpc }
               inbox := [] } := by
  obtain ⟨⟩ := g
  rename Integrity => i
  obtain ⟨⟩ := i
  simp only at hp hy hb
  subst hp hy hb
  simp [Group.advance, settle, settlePends, settleYields, countWindows, Group.setLpc]

/-- The end of an issue that changed only its group. -/
theorem finish_group {s : State} {pred : Fin 8} {neg : Bool} {is : Issue} (h : Issues s pred neg is) (f : Group → Group) (stay moved : Mask) :
    is.finish (.commit (s.onGroup is.key f) stay moved) = .next (became s is ((f is.g).advance is stay moved)) := by
  have hg := h.parts.1
  unfold State.group at hg
  simp [Issue.finish, State.onGroup, hg, State.setGroup, State.issued, State.setCore, State.core, became, insert_insert]

/-- The end of an issue that changed nothing. -/
theorem finish_same {s : State} {pred : Fin 8} {neg : Bool} {is : Issue} (h : Issues s pred neg is) (stay moved : Mask) :
    is.finish (.commit s stay moved) = .next (became s is (is.g.advance is stay moved)) := by
  have hg := h.parts.1
  unfold State.group at hg
  simp [Issue.finish, State.onGroup, hg, State.setGroup, State.issued, State.setCore, State.core, became]

end Sys2Proof.Claims
end

