-- ==== Sys2Proof/Laws/Memory.lean ====
section
/-! SUPPORT. Laws/Memory: reading after writing, and that every memory operation keeps the canonical form. -/
namespace Sys2Proof.Machine.Memory

/-- A key below every listed one reads as the unlisted byte. -/
theorem read_below (m : List Host.Cell) (lo k : Nat) (h : wfFrom lo m = true) (hk : k < lo) : read m k = unlisted := by
  cases m with
  | nil => rfl
  | cons c r =>
    obtain ⟨a, x⟩ := c
    simp [wfFrom] at h
    have h1 : ¬ a < k := by omega
    have h2 : ¬ a = k := by omega
    simp [read, h1, h2]

theorem wfFrom_mono (m : List Host.Cell) (lo lo' : Nat) (h : wfFrom lo m = true) (hl : lo' ≤ lo) : wfFrom lo' m = true := by
  cases m with
  | nil => rfl
  | cons c r =>
    obtain ⟨a, x⟩ := c
    simp [wfFrom] at h ⊢
    exact ⟨⟨by omega, h.1.2⟩, h.2⟩

theorem cons_wf (m : List Host.Cell) (lo k : Nat) (b : Byte) (h : wfFrom (k + 1) m = true) (hk : lo ≤ k) : wfFrom lo (cons k b m) = true := by
  by_cases hb : b = unlisted
  · simp [cons, hb]
    exact wfFrom_mono m (k + 1) lo h (by omega)
  · simp [cons, hb, wfFrom, h, hk]

theorem write_wfFrom (m : List Host.Cell) (lo k : Nat) (b : Byte) (h : wfFrom lo m = true) (hk : lo ≤ k) : wfFrom lo (write m k b) = true := by
  induction m generalizing lo with
  | nil => exact cons_wf [] lo k b rfl hk
  | cons c r ih =>
    obtain ⟨a, x⟩ := c
    simp [wfFrom] at h
    by_cases h1 : a < k
    · simp [write, h1, wfFrom, h.1]
      exact ih (a + 1) h.2 (by omega)
    · by_cases h2 : a = k
      · subst h2
        simpa [write] using cons_wf r lo a b h.2 hk
      · simp only [write, h1, h2, if_false, beq_iff_eq]
        apply cons_wf _ lo k b _ hk
        simp [wfFrom, h]
        omega

/-- Writing one byte keeps the canonical form. -/
theorem write_wf (m : List Host.Cell) (k : Nat) (b : Byte) (h : wf m = true) : wf (write m k b) = true :=
  write_wfFrom m 0 k b h (Nat.zero_le k)

/-- Writing bytes keeps the canonical form. -/
theorem store_wf (m : List Host.Cell) (k : Nat) (l : List Byte) (h : wf m = true) : wf (store m k l) = true := by
  induction l generalizing m k with
  | nil => exact h
  | cons b r ih => exact ih _ _ (write_wf m k b h)

theorem filter_wfFrom (m : List Host.Cell) (f : Host.Cell → Bool) (lo : Nat) (h : wfFrom lo m = true) : wfFrom lo (m.filter f) = true := by
  induction m generalizing lo with
  | nil => rfl
  | cons c r ih =>
    obtain ⟨a, x⟩ := c
    simp [wfFrom] at h
    by_cases hf : f (a, x) = true
    · simp [List.filter, hf, wfFrom, h.1]
      exact ih (a + 1) h.2
    · simp [List.filter, hf]
      exact ih lo (wfFrom_mono r (a + 1) lo h.2 (by omega))

/-- Dropping cells keeps the canonical form. -/
theorem filter_wf (m : List Host.Cell) (f : Host.Cell → Bool) (h : wf m = true) : wf (m.filter f) = true := filter_wfFrom m f 0 h

theorem clear_wf (m : List Host.Cell) (lo hi : Nat) (h : wf m = true) : wf (clear m lo hi) = true := filter_wf m _ h

theorem within_wf (m : List Host.Cell) (lo hi : Nat) (h : wf m = true) : wf (within m lo hi) = true := filter_wf m _ h

theorem read_cons_same (m : List Host.Cell) (k : Nat) (b : Byte) (h : wfFrom (k + 1) m = true) : read (cons k b m) k = b := by
  by_cases hb : b = unlisted
  · simp [cons, hb, read_below m (k + 1) k h (by omega)]
  · simp [cons, hb, read]

theorem read_cons_other (m : List Host.Cell) (k j : Nat) (b : Byte) (h : wfFrom (k + 1) m = true) (hj : j ≠ k) : read (cons k b m) j = read m j := by
  by_cases hb : b = unlisted
  · simp [cons, hb]
  · by_cases h1 : k < j
    · simp [cons, hb, read, h1]
    · simp [cons, hb, read, h1, Ne.symm hj, read_below m (k + 1) j h (by omega)]

/-- A byte written is the byte read back. -/
theorem read_write_same (m : List Host.Cell) (k : Nat) (b : Byte) (h : wf m = true) : read (write m k b) k = b := by
  suffices ∀ lo, wfFrom lo m = true → read (write m k b) k = b from this 0 h
  intro lo hm
  clear h
  induction m generalizing lo with
  | nil => exact read_cons_same [] k b rfl
  | cons c r ih =>
    obtain ⟨a, x⟩ := c
    simp [wfFrom] at hm
    by_cases h1 : a < k
    · simp [write, h1, read, ih (a + 1) hm.2]
    · by_cases h2 : a = k
      · subst h2
        simpa [write] using read_cons_same r a b hm.2
      · simp only [write, h1, h2, if_false, beq_iff_eq]
        apply read_cons_same
        simp [wfFrom, hm]
        omega

/-- A byte elsewhere keeps its value. -/
theorem read_write_other (m : List Host.Cell) (k j : Nat) (b : Byte) (h : wf m = true) (hj : j ≠ k) : read (write m k b) j = read m j := by
  suffices ∀ lo, wfFrom lo m = true → read (write m k b) j = read m j from this 0 h
  intro lo hm
  clear h
  induction m generalizing lo with
  | nil => exact read_cons_other [] k j b rfl hj
  | cons c r ih =>
    obtain ⟨a, x⟩ := c
    simp [wfFrom] at hm
    by_cases h1 : a < k
    · by_cases h3 : a < j
      · simp [write, h1, read, h3, ih (a + 1) hm.2]
      · simp [write, h1, read, h3]
    · by_cases h2 : a = k
      · subst h2
        simp only [write, h1, if_false, beq_self_eq_true, if_true]
        rw [read_cons_other r a j b hm.2 hj]
        by_cases h3 : a < j
        · simp [read, h3]
        · simp [read, h3, Ne.symm hj, read_below r (a + 1) j hm.2 (by omega)]
      · simp only [write, h1, h2, if_false, beq_iff_eq]
        apply read_cons_other _ k j b _ hj
        simp [wfFrom, hm]
        omega

/-- Bytes outside a stored range keep their values. -/
theorem read_store_outside (m : List Host.Cell) (k j : Nat) (l : List Byte) (h : wf m = true) (hj : j < k ∨ k + l.length ≤ j) :
    read (store m k l) j = read m j := by
  induction l generalizing m k with
  | nil => rfl
  | cons b r ih =>
    simp only [store, List.length_cons] at hj ⊢
    rw [ih _ _ (write_wf m k b h) (by omega), read_write_other m k j b h (by omega)]

/-- A stored byte is the byte read back. -/
theorem read_store_inside (m : List Host.Cell) (k i : Nat) (l : List Byte) (h : wf m = true) (hi : i < l.length) :
    read (store m k l) (k + i) = l[i] := by
  induction l generalizing m k i with
  | nil => simp at hi
  | cons b r ih =>
    cases i with
    | zero =>
      simp only [store, Nat.add_zero, List.getElem_cons_zero]
      rw [read_store_outside _ _ _ _ (write_wf m k b h) (by omega), read_write_same m k b h]
    | succ i =>
      simp only [store, List.getElem_cons_succ]
      have := ih (write m k b) (k + 1) i (write_wf m k b h) (by simpa using hi)
      rwa [show k + 1 + i = k + (i + 1) by omega] at this

end Sys2Proof.Machine.Memory
end

