-- ==== Sys2Proof/Laws/PerInstr.lean ====
section
/-! SUPPORT. Laws/PerInstr: the word of every instruction has its width (R76, R149, R167). -/
namespace Sys2Proof.Laws

/-- Fields of total width `n` fit `n` bits. -/
theorem packFields_lt (l : List (Nat × Nat)) : packFields l < 2 ^ (l.map (·.1)).sum := by
  induction l with
  | nil => simp [packFields]
  | cons x r ih =>
    obtain ⟨n, v⟩ := x
    simp only [packFields, List.map_cons, List.sum_cons, Nat.pow_add]
    have h := Nat.mod_lt v (Nat.two_pow_pos n)
    have h2 : 2 ^ n * packFields r + 2 ^ n ≤ 2 ^ n * 2 ^ (r.map (·.1)).sum := by
      rw [← Nat.mul_succ]; exact Nat.mul_le_mul_left _ ih
    omega

/-- The word of an instruction, where it has one, is of 96 or of 32 bits and fits them. -/
def Form.Statement (i : Instr) : Prop := ∀ n w, encode i = some (n, w) → (n = 96 ∨ n = 32) ∧ w < 2 ^ n

/-- An instruction without a word. -/
theorem form_event (i : Instr) (h : encode i = none) : Form.Statement i := by
  intro n w e
  simp [h] at e

/-- A slot whose fields have 78 bits. -/
theorem form_slot (i : Instr) (major minor look : Nat) (f : List (Nat × Nat)) (h : encode i = some (96, word96 major minor look f))
    (k : (f.map (·.1)).sum = 78) : Form.Statement i := by
  intro n w e
  simp only [h, Option.some.injEq, Prod.mk.injEq] at e
  obtain ⟨rfl, rfl⟩ := e
  have := packFields_lt (f ++ [(6, minor), (4, look), (8, major)])
  simp only [List.map_append, List.sum_append, k] at this
  exact ⟨.inl rfl, this⟩

/-- A word of the queues or the harts whose fields have 32 bits. -/
theorem form_word (i : Instr) (f : List (Nat × Nat)) (h : encode i = some (32, packFields f)) (k : (f.map (·.1)).sum = 32) :
    Form.Statement i := by
  intro n w e
  simp only [h, Option.some.injEq, Prod.mk.injEq] at e
  obtain ⟨rfl, rfl⟩ := e
  have := packFields_lt f
  rw [k] at this
  exact ⟨.inr rfl, this⟩

theorem VOps.fields_sum (o : VOps) : (o.fields.map (·.1)).sum = 78 := rfl
theorem IOps.fields_sum (o : IOps) : (o.fields.map (·.1)).sum = 78 := rfl
theorem SOps.fields_sum (o : SOps) : (o.fields.map (·.1)).sum = 78 := rfl
theorem MOps.fields_sum (o : MOps) : (o.fields.map (·.1)).sum = 78 := rfl
theorem BOps.fields_sum (o : BOps) : (o.fields.map (·.1)).sum = 78 := rfl
theorem EOps.fields_sum (o : EOps) : (o.fields.map (·.1)).sum = 78 := rfl
theorem QA.fields_sum (o : QA) : (o.fields.map (·.1)).sum = 26 := rfl
theorem QK.fields_sum (o : QK) : (o.fields.map (·.1)).sum = 26 := rfl
theorem QM.fields_sum (o : QM) : (o.fields.map (·.1)).sum = 26 := rfl
theorem QJ.fields_sum (o : QJ) : (o.fields.map (·.1)).sum = 26 := rfl

/-- A Busoron word. -/
theorem form_queue (i : Instr) (op : Nat) (f : List (Nat × Nat)) (h : encode i = some (32, word32 op f)) (k : (f.map (·.1)).sum = 26) :
    Form.Statement i := by
  refine form_word i (f ++ [(6, op)]) h ?_
  simp [k]

theorem Form.reset : Form.Statement .reset := form_event _ rfl
theorem Form.stackTrainingComplete (x : BringUp) : Form.Statement (.stackTrainingComplete x) := form_event _ rfl
theorem Form.autoRestore (ctx : Nat) : Form.Statement (.autoRestore ctx) := form_event _ rfl
theorem Form.planeArrayIdle (core : Nat) : Form.Statement (.planeArrayIdle core) := form_event _ rfl
theorem Form.rampStep (core : Nat) : Form.Statement (.rampStep core) := form_event _ rfl
theorem Form.coreIdle (core : Nat) : Form.Statement (.coreIdle core) := form_event _ rfl
theorem Form.placementRateLimitEnd (core : Nat) : Form.Statement (.placementRateLimitEnd core) := form_event _ rfl
theorem Form.teamPlacement (launch : Nat) (slots : List Nat) : Form.Statement (.teamPlacement launch slots) := form_event _ rfl
theorem Form.groupRetire (core : Nat) (slot : Nat) : Form.Statement (.groupRetire core slot) := form_event _ rfl
theorem Form.lineRefetch (core : Nat) (slot : Nat) : Form.Statement (.lineRefetch core slot) := form_event _ rfl
theorem Form.longLatencyResult (core : Nat) (slot : Nat) : Form.Statement (.longLatencyResult core slot) := form_event _ rfl
theorem Form.standpipeRotation (core : Nat) : Form.Statement (.standpipeRotation core) := form_event _ rfl
theorem Form.partitionHandover (core : Nat) (holder : Nat) (taker : Nat) : Form.Statement (.partitionHandover core holder taker) := form_event _ rfl
theorem Form.evictedGroupRestore (core : Nat) (slot : Nat) : Form.Statement (.evictedGroupRestore core slot) := form_event _ rfl
theorem Form.duplicateCopy (core : Nat) (slot : Nat) (reg : Opnd) : Form.Statement (.duplicateCopy core slot reg) := form_event _ rfl
theorem Form.create (fn : Nat) (ctx : Nat) : Form.Statement (.create fn ctx) := form_event _ rfl
theorem Form.resume (fn : Nat) (ctx : Nat) : Form.Statement (.resume fn ctx) := form_event _ rfl
theorem Form.suspend (fn : Nat) (ctx : Nat) : Form.Statement (.suspend fn ctx) := form_event _ rfl
theorem Form.kill (fn : Nat) (ctx : Nat) : Form.Statement (.kill fn ctx) := form_event _ rfl
theorem Form.killComplete (ctx : Nat) : Form.Statement (.killComplete ctx) := form_event _ rfl
theorem Form.checkpoint (fn : Nat) (ctx : Nat) : Form.Statement (.checkpoint fn ctx) := form_event _ rfl
theorem Form.checkpointInterval (ctx : Nat) : Form.Statement (.checkpointInterval ctx) := form_event _ rfl
theorem Form.checkpointComplete (ctx : Nat) : Form.Statement (.checkpointComplete ctx) := form_event _ rfl
theorem Form.sliceInstant (ctx : Nat) : Form.Statement (.sliceInstant ctx) := form_event _ rfl
theorem Form.saveComplete (ctx : Nat) : Form.Statement (.saveComplete ctx) := form_event _ rfl
theorem Form.deadline (launch : Nat) : Form.Statement (.deadline launch) := form_event _ rfl
theorem Form.sliceTableExchange (ctx : Nat) (gang : List Nat) : Form.Statement (.sliceTableExchange ctx gang) := form_event _ rfl
theorem Form.timeSyncLost : Form.Statement .timeSyncLost := form_event _ rfl
theorem Form.errqHeadPoll (ctx : Option Nat) : Form.Statement (.errqHeadPoll ctx) := form_event _ rfl
theorem Form.registerWrite (fn : Nat) (off : Nat) (value : Dword) : Form.Statement (.registerWrite fn off value) := form_event _ rfl
theorem Form.enable (fn : Nat) (queue : Nat) : Form.Statement (.enable fn queue) := form_event _ rfl
theorem Form.disable (fn : Nat) (queue : Nat) : Form.Statement (.disable fn queue) := form_event _ rfl
theorem Form.restart (fn : Nat) (queue : Nat) : Form.Statement (.restart fn queue) := form_event _ rfl
theorem Form.drainComplete (queue : Nat) : Form.Statement (.drainComplete queue) := form_event _ rfl
theorem Form.doorbell (queue : Nat) : Form.Statement (.doorbell queue) := form_event _ rfl
theorem Form.queuePoll (queue : Nat) : Form.Statement (.queuePoll queue) := form_event _ rfl
theorem Form.unitAssignment (unit : Nat) : Form.Statement (.unitAssignment unit) := form_event _ rfl
theorem Form.packetFetch (queue : Nat) : Form.Statement (.packetFetch queue) := form_event _ rfl
theorem Form.nopPacket (queue : Nat) : Form.Statement (.nopPacket queue) := form_event _ rfl
theorem Form.launch (queue : Nat) : Form.Statement (.launch queue) := form_event _ rfl
theorem Form.copy (queue : Nat) : Form.Statement (.copy queue) := form_event _ rfl
theorem Form.copyComplete (id : Nat) : Form.Statement (.copyComplete id) := form_event _ rfl
theorem Form.waitval (queue : Nat) : Form.Statement (.waitval queue) := form_event _ rfl
theorem Form.waitvalRecheck (queue : Nat) : Form.Statement (.waitvalRecheck queue) := form_event _ rfl
theorem Form.writeval (queue : Nat) : Form.Statement (.writeval queue) := form_event _ rfl
theorem Form.run (queue : Nat) : Form.Statement (.run queue) := form_event _ rfl
theorem Form.program (queue : Nat) : Form.Statement (.program queue) := form_event _ rfl
theorem Form.programRerun (queue : Nat) : Form.Statement (.programRerun queue) := form_event _ rfl
theorem Form.qli (o : QK) : Form.Statement (.qli o) := form_queue _ 0x01 o.fields rfl (QK.fields_sum o)
theorem Form.qlis (o : QK) : Form.Statement (.qlis o) := form_queue _ 0x02 o.fields rfl (QK.fields_sum o)
theorem Form.qadd (o : QA) : Form.Statement (.qadd o) := form_queue _ 0x03 o.fields rfl (QA.fields_sum o)
theorem Form.qsub (o : QA) : Form.Statement (.qsub o) := form_queue _ 0x04 o.fields rfl (QA.fields_sum o)
theorem Form.qand (o : QA) : Form.Statement (.qand o) := form_queue _ 0x05 o.fields rfl (QA.fields_sum o)
theorem Form.qor (o : QA) : Form.Statement (.qor o) := form_queue _ 0x06 o.fields rfl (QA.fields_sum o)
theorem Form.qxor (o : QA) : Form.Statement (.qxor o) := form_queue _ 0x07 o.fields rfl (QA.fields_sum o)
theorem Form.qshl (o : QA) : Form.Statement (.qshl o) := form_queue _ 0x08 o.fields rfl (QA.fields_sum o)
theorem Form.qshr (o : QA) : Form.Statement (.qshr o) := form_queue _ 0x09 o.fields rfl (QA.fields_sum o)
theorem Form.qmul (o : QA) : Form.Statement (.qmul o) := form_queue _ 0x0a o.fields rfl (QA.fields_sum o)
theorem Form.qminu (o : QA) : Form.Statement (.qminu o) := form_queue _ 0x0b o.fields rfl (QA.fields_sum o)
theorem Form.qmaxu (o : QA) : Form.Statement (.qmaxu o) := form_queue _ 0x0c o.fields rfl (QA.fields_sum o)
theorem Form.qaddi (o : QK) : Form.Statement (.qaddi o) := form_queue _ 0x10 o.fields rfl (QK.fields_sum o)
theorem Form.qandi (o : QK) : Form.Statement (.qandi o) := form_queue _ 0x11 o.fields rfl (QK.fields_sum o)
theorem Form.qshli (o : QK) : Form.Statement (.qshli o) := form_queue _ 0x12 o.fields rfl (QK.fields_sum o)
theorem Form.qshri (o : QK) : Form.Statement (.qshri o) := form_queue _ 0x13 o.fields rfl (QK.fields_sum o)
theorem Form.qld (o : QM) : Form.Statement (.qld o) := form_queue _ 0x18 o.fields rfl (QM.fields_sum o)
theorem Form.qst (o : QM) : Form.Statement (.qst o) := form_queue _ 0x19 o.fields rfl (QM.fields_sum o)
theorem Form.qldp (o : QM) : Form.Statement (.qldp o) := form_queue _ 0x1a o.fields rfl (QM.fields_sum o)
theorem Form.qstp (o : QM) : Form.Statement (.qstp o) := form_queue _ 0x1b o.fields rfl (QM.fields_sum o)
theorem Form.qbeq (o : QJ) : Form.Statement (.qbeq o) := form_queue _ 0x20 o.fields rfl (QJ.fields_sum o)
theorem Form.qbne (o : QJ) : Form.Statement (.qbne o) := form_queue _ 0x21 o.fields rfl (QJ.fields_sum o)
theorem Form.qbltu (o : QJ) : Form.Statement (.qbltu o) := form_queue _ 0x22 o.fields rfl (QJ.fields_sum o)
theorem Form.qbgeu (o : QJ) : Form.Statement (.qbgeu o) := form_queue _ 0x23 o.fields rfl (QJ.fields_sum o)
theorem Form.qjmp (o : QJ) : Form.Statement (.qjmp o) := form_queue _ 0x24 o.fields rfl (QJ.fields_sum o)
theorem Form.qrep (o : QK) : Form.Statement (.qrep o) := form_queue _ 0x28 o.fields rfl (QK.fields_sum o)
theorem Form.qbucket (o : QA) : Form.Statement (.qbucket o) := form_queue _ 0x30 o.fields rfl (QA.fields_sum o)
theorem Form.qact : Form.Statement .qact := form_queue _ 0x31 [(26, 0)] rfl rfl
theorem Form.qnvme (o : QM) : Form.Statement (.qnvme o) := form_queue _ 0x32 o.fields rfl (QM.fields_sum o)
theorem Form.qdone : Form.Statement .qdone := form_queue _ 0x38 [(26, 0)] rfl rfl
theorem Form.qpass : Form.Statement .qpass := form_queue _ 0x39 [(26, 0)] rfl rfl
theorem Form.qhold : Form.Statement .qhold := form_queue _ 0x3a [(26, 0)] rfl rfl
theorem Form.qfail (ra : Fin 16) : Form.Statement (.qfail ra) := form_queue _ 0x3b (QA.fields { rd := 0, ra := ra, rb := 0 }) rfl rfl
theorem Form.spawn (rd : Fin 32) (rs1 : Fin 32) : Form.Statement (.spawn rd rs1) := form_word _ ([(7, 0x0b), (5, rd.val), (3, 1), (5, rs1.val), (5, 0), (7, 0)]) rfl rfl
theorem Form.nop (o : SOps) : Form.Statement (.nop o) := form_slot _ 0x00 0 0 o.fields rfl (SOps.fields_sum o)
theorem Form.trap (o : SOps) : Form.Statement (.trap o) := form_slot _ 0x00 1 0 o.fields rfl (SOps.fields_sum o)
theorem Form.tret (o : SOps) : Form.Statement (.tret o) := form_slot _ 0x00 2 0 o.fields rfl (SOps.fields_sum o)
theorem Form.rsp (o : SOps) : Form.Statement (.rsp o) := form_slot _ 0x00 3 0 o.fields rfl (SOps.fields_sum o)
theorem Form.wsp (o : SOps) : Form.Statement (.wsp o) := form_slot _ 0x00 4 0 o.fields rfl (SOps.fields_sum o)
theorem Form.rgn (o : SOps) : Form.Statement (.rgn o) := form_slot _ 0x00 5 0 o.fields rfl (SOps.fields_sum o)
theorem Form.pause (o : SOps) : Form.Statement (.pause o) := form_slot _ 0x00 6 0 o.fields rfl (SOps.fields_sum o)
theorem Form.pauseExpiry (core : Nat) (slot : Nat) : Form.Statement (.pauseExpiry core slot) := form_event _ rfl
theorem Form.bra (o : BOps) : Form.Statement (.bra o) := form_slot _ 0x01 0 0 o.fields rfl (BOps.fields_sum o)
theorem Form.brx (o : BOps) : Form.Statement (.brx o) := form_slot _ 0x01 1 0 o.fields rfl (BOps.fields_sum o)
theorem Form.call (o : BOps) : Form.Statement (.call o) := form_slot _ 0x01 2 0 o.fields rfl (BOps.fields_sum o)
theorem Form.callx (o : BOps) : Form.Statement (.callx o) := form_slot _ 0x01 3 0 o.fields rfl (BOps.fields_sum o)
theorem Form.ret (o : BOps) : Form.Statement (.ret o) := form_slot _ 0x01 4 0 o.fields rfl (BOps.fields_sum o)
theorem Form.exit (o : BOps) : Form.Statement (.exit o) := form_slot _ 0x01 5 0 o.fields rfl (BOps.fields_sum o)
theorem Form.jenter (o : VOps) : Form.Statement (.jenter o) := form_slot _ 0x02 0 o.look.toNat o.fields rfl (VOps.fields_sum o)
theorem Form.jquit (o : VOps) : Form.Statement (.jquit o) := form_slot _ 0x02 1 o.look.toNat o.fields rfl (VOps.fields_sum o)
theorem Form.jwait (o : VOps) : Form.Statement (.jwait o) := form_slot _ 0x02 2 o.look.toNat o.fields rfl (VOps.fields_sum o)
theorem Form.jget (o : VOps) : Form.Statement (.jget o) := form_slot _ 0x02 3 o.look.toNat o.fields rfl (VOps.fields_sum o)
theorem Form.jsave (o : VOps) : Form.Statement (.jsave o) := form_slot _ 0x02 4 o.look.toNat o.fields rfl (VOps.fields_sum o)
theorem Form.jrest (o : VOps) : Form.Statement (.jrest o) := form_slot _ 0x02 5 o.look.toNat o.fields rfl (VOps.fields_sum o)
theorem Form.vote (o : VOps) : Form.Statement (.vote o) := form_slot _ 0x03 0 o.look.toNat o.fields rfl (VOps.fields_sum o)
theorem Form.ballot (o : VOps) : Form.Statement (.ballot o) := form_slot _ 0x03 1 o.look.toNat o.fields rfl (VOps.fields_sum o)
theorem Form.shfl (o : VOps) : Form.Statement (.shfl o) := form_slot _ 0x03 2 o.look.toNat o.fields rfl (VOps.fields_sum o)
theorem Form.lanes (o : VOps) : Form.Statement (.lanes o) := form_slot _ 0x03 3 o.look.toNat o.fields rfl (VOps.fields_sum o)
theorem Form.pub (o : VOps) : Form.Statement (.pub o) := form_slot _ 0x03 4 o.look.toNat o.fields rfl (VOps.fields_sum o)
theorem Form.chst (o : VOps) : Form.Statement (.chst o) := form_slot _ 0x03 5 o.look.toNat o.fields rfl (VOps.fields_sum o)
theorem Form.shape (o : VOps) : Form.Statement (.shape o) := form_slot _ 0x03 6 o.look.toNat o.fields rfl (VOps.fields_sum o)
theorem Form.chainValueArrival (core : Nat) (slot : Nat) : Form.Statement (.chainValueArrival core slot) := form_event _ rfl
theorem Form.add (o : VOps) : Form.Statement (.add o) := form_slot _ 0x10 0 o.look.toNat o.fields rfl (VOps.fields_sum o)
theorem Form.sub (o : VOps) : Form.Statement (.sub o) := form_slot _ 0x10 1 o.look.toNat o.fields rfl (VOps.fields_sum o)
theorem Form.mul (o : VOps) : Form.Statement (.mul o) := form_slot _ 0x10 2 o.look.toNat o.fields rfl (VOps.fields_sum o)
theorem Form.mulhi (o : VOps) : Form.Statement (.mulhi o) := form_slot _ 0x10 3 o.look.toNat o.fields rfl (VOps.fields_sum o)
theorem Form.mad (o : VOps) : Form.Statement (.mad o) := form_slot _ 0x10 4 o.look.toNat o.fields rfl (VOps.fields_sum o)
theorem Form.div (o : VOps) : Form.Statement (.div o) := form_slot _ 0x10 5 o.look.toNat o.fields rfl (VOps.fields_sum o)
theorem Form.rem (o : VOps) : Form.Statement (.rem o) := form_slot _ 0x10 6 o.look.toNat o.fields rfl (VOps.fields_sum o)
theorem Form.min (o : VOps) : Form.Statement (.min o) := form_slot _ 0x10 7 o.look.toNat o.fields rfl (VOps.fields_sum o)
theorem Form.max (o : VOps) : Form.Statement (.max o) := form_slot _ 0x10 8 o.look.toNat o.fields rfl (VOps.fields_sum o)
theorem Form.abs (o : VOps) : Form.Statement (.abs o) := form_slot _ 0x10 9 o.look.toNat o.fields rfl (VOps.fields_sum o)
theorem Form.neg (o : VOps) : Form.Statement (.neg o) := form_slot _ 0x10 10 o.look.toNat o.fields rfl (VOps.fields_sum o)
theorem Form.and (o : VOps) : Form.Statement (.and o) := form_slot _ 0x10 11 o.look.toNat o.fields rfl (VOps.fields_sum o)
theorem Form.or (o : VOps) : Form.Statement (.or o) := form_slot _ 0x10 12 o.look.toNat o.fields rfl (VOps.fields_sum o)
theorem Form.xor (o : VOps) : Form.Statement (.xor o) := form_slot _ 0x10 13 o.look.toNat o.fields rfl (VOps.fields_sum o)
theorem Form.andn (o : VOps) : Form.Statement (.andn o) := form_slot _ 0x10 14 o.look.toNat o.fields rfl (VOps.fields_sum o)
theorem Form.shl (o : VOps) : Form.Statement (.shl o) := form_slot _ 0x10 15 o.look.toNat o.fields rfl (VOps.fields_sum o)
theorem Form.shr (o : VOps) : Form.Statement (.shr o) := form_slot _ 0x10 16 o.look.toNat o.fields rfl (VOps.fields_sum o)
theorem Form.sar (o : VOps) : Form.Statement (.sar o) := form_slot _ 0x10 17 o.look.toNat o.fields rfl (VOps.fields_sum o)
theorem Form.rot (o : VOps) : Form.Statement (.rot o) := form_slot _ 0x10 18 o.look.toNat o.fields rfl (VOps.fields_sum o)
theorem Form.clz (o : VOps) : Form.Statement (.clz o) := form_slot _ 0x10 19 o.look.toNat o.fields rfl (VOps.fields_sum o)
theorem Form.popc (o : VOps) : Form.Statement (.popc o) := form_slot _ 0x10 20 o.look.toNat o.fields rfl (VOps.fields_sum o)
theorem Form.brev (o : VOps) : Form.Statement (.brev o) := form_slot _ 0x10 21 o.look.toNat o.fields rfl (VOps.fields_sum o)
theorem Form.bfe (o : VOps) : Form.Statement (.bfe o) := form_slot _ 0x10 22 o.look.toNat o.fields rfl (VOps.fields_sum o)
theorem Form.bfi (o : VOps) : Form.Statement (.bfi o) := form_slot _ 0x10 23 o.look.toNat o.fields rfl (VOps.fields_sum o)
theorem Form.cmp (o : VOps) : Form.Statement (.cmp o) := form_slot _ 0x10 24 o.look.toNat o.fields rfl (VOps.fields_sum o)
theorem Form.sel (o : VOps) : Form.Statement (.sel o) := form_slot _ 0x10 25 o.look.toNat o.fields rfl (VOps.fields_sum o)
theorem Form.mov (o : VOps) : Form.Statement (.mov o) := form_slot _ 0x10 26 o.look.toNat o.fields rfl (VOps.fields_sum o)
theorem Form.lea (o : VOps) : Form.Statement (.lea o) := form_slot _ 0x10 27 o.look.toNat o.fields rfl (VOps.fields_sum o)
theorem Form.movi (o : IOps) : Form.Statement (.movi o) := form_slot _ 0x11 0 0 o.fields rfl (IOps.fields_sum o)
theorem Form.fadd (o : VOps) : Form.Statement (.fadd o) := form_slot _ 0x20 0 o.look.toNat o.fields rfl (VOps.fields_sum o)
theorem Form.fsub (o : VOps) : Form.Statement (.fsub o) := form_slot _ 0x20 1 o.look.toNat o.fields rfl (VOps.fields_sum o)
theorem Form.fmul (o : VOps) : Form.Statement (.fmul o) := form_slot _ 0x20 2 o.look.toNat o.fields rfl (VOps.fields_sum o)
theorem Form.fma (o : VOps) : Form.Statement (.fma o) := form_slot _ 0x20 3 o.look.toNat o.fields rfl (VOps.fields_sum o)
theorem Form.fmin (o : VOps) : Form.Statement (.fmin o) := form_slot _ 0x20 4 o.look.toNat o.fields rfl (VOps.fields_sum o)
theorem Form.fmax (o : VOps) : Form.Statement (.fmax o) := form_slot _ 0x20 5 o.look.toNat o.fields rfl (VOps.fields_sum o)
theorem Form.fdiv (o : VOps) : Form.Statement (.fdiv o) := form_slot _ 0x20 6 o.look.toNat o.fields rfl (VOps.fields_sum o)
theorem Form.fsqrt (o : VOps) : Form.Statement (.fsqrt o) := form_slot _ 0x20 7 o.look.toNat o.fields rfl (VOps.fields_sum o)
theorem Form.frcp (o : VOps) : Form.Statement (.frcp o) := form_slot _ 0x20 8 o.look.toNat o.fields rfl (VOps.fields_sum o)
theorem Form.frsq (o : VOps) : Form.Statement (.frsq o) := form_slot _ 0x20 9 o.look.toNat o.fields rfl (VOps.fields_sum o)
theorem Form.fexp2 (o : VOps) : Form.Statement (.fexp2 o) := form_slot _ 0x20 10 o.look.toNat o.fields rfl (VOps.fields_sum o)
theorem Form.flog2 (o : VOps) : Form.Statement (.flog2 o) := form_slot _ 0x20 11 o.look.toNat o.fields rfl (VOps.fields_sum o)
theorem Form.fsin (o : VOps) : Form.Statement (.fsin o) := form_slot _ 0x20 12 o.look.toNat o.fields rfl (VOps.fields_sum o)
theorem Form.fcos (o : VOps) : Form.Statement (.fcos o) := form_slot _ 0x20 13 o.look.toNat o.fields rfl (VOps.fields_sum o)
theorem Form.fround (o : VOps) : Form.Statement (.fround o) := form_slot _ 0x20 14 o.look.toNat o.fields rfl (VOps.fields_sum o)
theorem Form.fscale (o : VOps) : Form.Statement (.fscale o) := form_slot _ 0x20 15 o.look.toNat o.fields rfl (VOps.fields_sum o)
theorem Form.fclass (o : VOps) : Form.Statement (.fclass o) := form_slot _ 0x20 16 o.look.toNat o.fields rfl (VOps.fields_sum o)
theorem Form.fdot2 (o : VOps) : Form.Statement (.fdot2 o) := form_slot _ 0x20 17 o.look.toNat o.fields rfl (VOps.fields_sum o)
theorem Form.cvt (o : VOps) : Form.Statement (.cvt o) := form_slot _ 0x30 0 o.look.toNat o.fields rfl (VOps.fields_sum o)
theorem Form.cvtPlane (o : VOps) : Form.Statement (.cvtPlane o) := form_slot _ 0x30 0 o.look.toNat o.fields rfl (VOps.fields_sum o)
theorem Form.pk (o : VOps) : Form.Statement (.pk o) := form_slot _ 0x30 1 o.look.toNat o.fields rfl (VOps.fields_sum o)
theorem Form.unpk (o : VOps) : Form.Statement (.unpk o) := form_slot _ 0x30 2 o.look.toNat o.fields rfl (VOps.fields_sum o)
theorem Form.mxun (o : VOps) : Form.Statement (.mxun o) := form_slot _ 0x30 3 o.look.toNat o.fields rfl (VOps.fields_sum o)
theorem Form.tern (o : VOps) : Form.Statement (.tern o) := form_slot _ 0x30 4 o.look.toNat o.fields rfl (VOps.fields_sum o)
theorem Form.dist (o : VOps) : Form.Statement (.dist o) := form_slot _ 0x38 0 o.look.toNat o.fields rfl (VOps.fields_sum o)
theorem Form.topk (o : VOps) : Form.Statement (.topk o) := form_slot _ 0x38 1 o.look.toNat o.fields rfl (VOps.fields_sum o)
theorem Form.topm (o : VOps) : Form.Statement (.topm o) := form_slot _ 0x38 2 o.look.toNat o.fields rfl (VOps.fields_sum o)
theorem Form.redadd (o : VOps) : Form.Statement (.redadd o) := form_slot _ 0x38 3 o.look.toNat o.fields rfl (VOps.fields_sum o)
theorem Form.redmax (o : VOps) : Form.Statement (.redmax o) := form_slot _ 0x38 4 o.look.toNat o.fields rfl (VOps.fields_sum o)
theorem Form.redmin (o : VOps) : Form.Statement (.redmin o) := form_slot _ 0x38 5 o.look.toNat o.fields rfl (VOps.fields_sum o)
theorem Form.scan (o : VOps) : Form.Statement (.scan o) := form_slot _ 0x38 6 o.look.toNat o.fields rfl (VOps.fields_sum o)
theorem Form.ld (o : MOps) : Form.Statement (.ld o) := form_slot _ 0x40 0 o.look.toNat o.fields rfl (MOps.fields_sum o)
theorem Form.st (o : MOps) : Form.Statement (.st o) := form_slot _ 0x40 1 o.look.toNat o.fields rfl (MOps.fields_sum o)
theorem Form.ldb (o : MOps) : Form.Statement (.ldb o) := form_slot _ 0x40 2 o.look.toNat o.fields rfl (MOps.fields_sum o)
theorem Form.stb (o : MOps) : Form.Statement (.stb o) := form_slot _ 0x40 3 o.look.toNat o.fields rfl (MOps.fields_sum o)
theorem Form.prf (o : MOps) : Form.Statement (.prf o) := form_slot _ 0x40 4 o.look.toNat o.fields rfl (MOps.fields_sum o)
theorem Form.ctag (o : MOps) : Form.Statement (.ctag o) := form_slot _ 0x41 0 o.look.toNat o.fields rfl (MOps.fields_sum o)
theorem Form.cins (o : MOps) : Form.Statement (.cins o) := form_slot _ 0x41 1 o.look.toNat o.fields rfl (MOps.fields_sum o)
theorem Form.cinv (o : MOps) : Form.Statement (.cinv o) := form_slot _ 0x41 2 o.look.toNat o.fields rfl (MOps.fields_sum o)
theorem Form.halloc (o : MOps) : Form.Statement (.halloc o) := form_slot _ 0x42 0 o.look.toNat o.fields rfl (MOps.fields_sum o)
theorem Form.hfree (o : MOps) : Form.Statement (.hfree o) := form_slot _ 0x42 1 o.look.toNat o.fields rfl (MOps.fields_sum o)
theorem Form.atom (o : MOps) : Form.Statement (.atom o) := form_slot _ 0x48 0 o.look.toNat o.fields rfl (MOps.fields_sum o)
theorem Form.red (o : MOps) : Form.Statement (.red o) := form_slot _ 0x48 1 o.look.toNat o.fields rfl (MOps.fields_sum o)
theorem Form.fence (o : MOps) : Form.Statement (.fence o) := form_slot _ 0x48 2 o.look.toNat o.fields rfl (MOps.fields_sum o)
theorem Form.ratom (o : MOps) : Form.Statement (.ratom o) := form_slot _ 0x48 3 o.look.toNat o.fields rfl (MOps.fields_sum o)
theorem Form.rpoll (o : MOps) : Form.Statement (.rpoll o) := form_slot _ 0x48 4 o.look.toNat o.fields rfl (MOps.fields_sum o)
theorem Form.ratomTimeout (req : Nat) : Form.Statement (.ratomTimeout req) := form_event _ rfl
theorem Form.tcfg (o : EOps) : Form.Statement (.tcfg o) := form_slot _ 0x50 0 o.look.toNat o.fields rfl (EOps.fields_sum o)
theorem Form.tget (o : EOps) : Form.Statement (.tget o) := form_slot _ 0x50 1 o.look.toNat o.fields rfl (EOps.fields_sum o)
theorem Form.tset (o : EOps) : Form.Statement (.tset o) := form_slot _ 0x50 2 o.look.toNat o.fields rfl (EOps.fields_sum o)
theorem Form.trel (o : EOps) : Form.Statement (.trel o) := form_slot _ 0x50 3 o.look.toNat o.fields rfl (EOps.fields_sum o)
theorem Form.tld (o : EOps) : Form.Statement (.tld o) := form_slot _ 0x50 4 o.look.toNat o.fields rfl (EOps.fields_sum o)
theorem Form.tst (o : EOps) : Form.Statement (.tst o) := form_slot _ 0x50 5 o.look.toNat o.fields rfl (EOps.fields_sum o)
theorem Form.tidw (o : EOps) : Form.Statement (.tidw o) := form_slot _ 0x50 6 o.look.toNat o.fields rfl (EOps.fields_sum o)
theorem Form.tidr (o : EOps) : Form.Statement (.tidr o) := form_slot _ 0x50 7 o.look.toNat o.fields rfl (EOps.fields_sum o)
theorem Form.tidv (o : EOps) : Form.Statement (.tidv o) := form_slot _ 0x50 8 o.look.toNat o.fields rfl (EOps.fields_sum o)
theorem Form.mma (o : EOps) : Form.Statement (.mma o) := form_slot _ 0x58 0 o.look.toNat o.fields rfl (EOps.fields_sum o)
theorem Form.mmaz (o : EOps) : Form.Statement (.mmaz o) := form_slot _ 0x58 1 o.look.toNat o.fields rfl (EOps.fields_sum o)
theorem Form.matrixOpComplete (op : Nat) : Form.Statement (.matrixOpComplete op) := form_event _ rfl
theorem Form.mbank (o : EOps) : Form.Statement (.mbank o) := form_slot _ 0x58 2 o.look.toNat o.fields rfl (EOps.fields_sum o)
theorem Form.gate (o : EOps) : Form.Statement (.gate o) := form_slot _ 0x58 3 o.look.toNat o.fields rfl (EOps.fields_sum o)
theorem Form.gateOpComplete (core : Nat) : Form.Statement (.gateOpComplete core) := form_event _ rfl
theorem Form.gcfg (o : EOps) : Form.Statement (.gcfg o) := form_slot _ 0x58 4 o.look.toNat o.fields rfl (EOps.fields_sum o)
theorem Form.cpy (o : EOps) : Form.Statement (.cpy o) := form_slot _ 0x60 0 o.look.toNat o.fields rfl (EOps.fields_sum o)
theorem Form.plane (o : EOps) : Form.Statement (.plane o) := form_slot _ 0x60 1 o.look.toNat o.fields rfl (EOps.fields_sum o)
theorem Form.ccget (o : EOps) : Form.Statement (.ccget o) := form_slot _ 0x60 2 o.look.toNat o.fields rfl (EOps.fields_sum o)
theorem Form.ccwait (o : EOps) : Form.Statement (.ccwait o) := form_slot _ 0x60 3 o.look.toNat o.fields rfl (EOps.fields_sum o)
theorem Form.ccset (o : EOps) : Form.Statement (.ccset o) := form_slot _ 0x60 4 o.look.toNat o.fields rfl (EOps.fields_sum o)
theorem Form.sexp (o : EOps) : Form.Statement (.sexp o) := form_slot _ 0x60 5 o.look.toNat o.fields rfl (EOps.fields_sum o)
theorem Form.simp (o : EOps) : Form.Statement (.simp o) := form_slot _ 0x60 6 o.look.toNat o.fields rfl (EOps.fields_sum o)
theorem Form.srst (o : EOps) : Form.Statement (.srst o) := form_slot _ 0x60 7 o.look.toNat o.fields rfl (EOps.fields_sum o)
theorem Form.jobStart (job : Nat) : Form.Statement (.jobStart job) := form_event _ rfl
theorem Form.pumpSector (job : Nat) : Form.Statement (.pumpSector job) := form_event _ rfl
theorem Form.streamJobComplete (job : Nat) : Form.Statement (.streamJobComplete job) := form_event _ rfl
theorem Form.bar (o : EOps) : Form.Statement (.bar o) := form_slot _ 0x68 0 o.look.toNat o.fields rfl (EOps.fields_sum o)
theorem Form.barv (o : EOps) : Form.Statement (.barv o) := form_slot _ 0x68 1 o.look.toNat o.fields rfl (EOps.fields_sum o)
theorem Form.barw (o : EOps) : Form.Statement (.barw o) := form_slot _ 0x68 2 o.look.toNat o.fields rfl (EOps.fields_sum o)
theorem Form.barp (o : EOps) : Form.Statement (.barp o) := form_slot _ 0x68 3 o.look.toNat o.fields rfl (EOps.fields_sum o)
theorem Form.qcfg (o : EOps) : Form.Statement (.qcfg o) := form_slot _ 0x68 4 o.look.toNat o.fields rfl (EOps.fields_sum o)
theorem Form.qpush (o : EOps) : Form.Statement (.qpush o) := form_slot _ 0x68 5 o.look.toNat o.fields rfl (EOps.fields_sum o)
theorem Form.qpop (o : EOps) : Form.Statement (.qpop o) := form_slot _ 0x68 6 o.look.toNat o.fields rfl (EOps.fields_sum o)
theorem Form.inval (fn : Nat) (ctx : Nat) : Form.Statement (.inval fn ctx) := form_event _ rfl
theorem Form.replayRetry (fn : Nat) (ticket : Word) : Form.Statement (.replayRetry fn ticket) := form_event _ rfl
theorem Form.replayFail (fn : Nat) (ticket : Word) : Form.Statement (.replayFail fn ticket) := form_event _ rfl
theorem Form.pin (fn : Nat) (ctx : Nat) : Form.Statement (.pin fn ctx) := form_event _ rfl
theorem Form.unpin (fn : Nat) (ctx : Nat) : Form.Statement (.unpin fn ctx) := form_event _ rfl
theorem Form.faultRecordWrite (fn : Nat) : Form.Statement (.faultRecordWrite fn) := form_event _ rfl
theorem Form.placementHint (ctx : Nat) (page : Nat) : Form.Statement (.placementHint ctx page) := form_event _ rfl
theorem Form.ivtab (o : EOps) : Form.Statement (.ivtab o) := form_slot _ 0x70 0 o.look.toNat o.fields rfl (EOps.fields_sum o)
theorem Form.ivopen (o : EOps) : Form.Statement (.ivopen o) := form_slot _ 0x70 1 o.look.toNat o.fields rfl (EOps.fields_sum o)
theorem Form.ivgo (o : EOps) : Form.Statement (.ivgo o) := form_slot _ 0x70 2 o.look.toNat o.fields rfl (EOps.fields_sum o)
theorem Form.ivq (o : EOps) : Form.Statement (.ivq o) := form_slot _ 0x70 3 o.look.toNat o.fields rfl (EOps.fields_sum o)
theorem Form.ivstat (o : EOps) : Form.Statement (.ivstat o) := form_slot _ 0x70 4 o.look.toNat o.fields rfl (EOps.fields_sum o)
theorem Form.ivwait (o : EOps) : Form.Statement (.ivwait o) := form_slot _ 0x70 5 o.look.toNat o.fields rfl (EOps.fields_sum o)
theorem Form.ivarg (o : EOps) : Form.Statement (.ivarg o) := form_slot _ 0x70 6 o.look.toNat o.fields rfl (EOps.fields_sum o)
theorem Form.ivclose (o : EOps) : Form.Statement (.ivclose o) := form_slot _ 0x70 7 o.look.toNat o.fields rfl (EOps.fields_sum o)
theorem Form.stageFormed (run : Nat) : Form.Statement (.stageFormed run) := form_event _ rfl
theorem Form.stageLaunchDone (run : Nat) : Form.Statement (.stageLaunchDone run) := form_event _ rfl
theorem Form.solveLaunchDone (run : Nat) : Form.Statement (.solveLaunchDone run) := form_event _ rfl
theorem Form.estimateFormed (run : Nat) : Form.Statement (.estimateFormed run) := form_event _ rfl
theorem Form.eventLaunchDone (run : Nat) : Form.Statement (.eventLaunchDone run) := form_event _ rfl
theorem Form.dieLinkBeat (link : Nat) (crcOk : Bool) : Form.Statement (.dieLinkBeat link crcOk) := form_event _ rfl
theorem Form.fabricPortTraining (port : Nat) (lanes : Nat) : Form.Statement (.fabricPortTraining port lanes) := form_event _ rfl
theorem Form.flitWrite (port : Nat) (f : Flit) : Form.Statement (.flitWrite port f) := form_event _ rfl
theorem Form.flitReadRequest (port : Nat) (f : Flit) : Form.Statement (.flitReadRequest port f) := form_event _ rfl
theorem Form.flitReadReply (port : Nat) (f : Flit) : Form.Statement (.flitReadReply port f) := form_event _ rfl
theorem Form.flitAtomicRequest (port : Nat) (f : Flit) : Form.Statement (.flitAtomicRequest port f) := form_event _ rfl
theorem Form.flitAtomicReply (port : Nat) (f : Flit) : Form.Statement (.flitAtomicReply port f) := form_event _ rfl
theorem Form.flitContribution (port : Nat) (f : Flit) : Form.Statement (.flitContribution port f) := form_event _ rfl
theorem Form.flitResult (port : Nat) (f : Flit) : Form.Statement (.flitResult port f) := form_event _ rfl
theorem Form.flitExchangeToken (port : Nat) (f : Flit) : Form.Statement (.flitExchangeToken port f) := form_event _ rfl
theorem Form.flitTime (port : Nat) (f : Flit) : Form.Statement (.flitTime port f) := form_event _ rfl
theorem Form.flitControl (port : Nat) (f : Flit) : Form.Statement (.flitControl port f) := form_event _ rfl
theorem Form.collectiveTimeout (gid : Nat) (off : Nat) : Form.Statement (.collectiveTimeout gid off) := form_event _ rfl
theorem Form.bind (fn : Nat) (gid : Nat) : Form.Statement (.bind fn gid) := form_event _ rfl
theorem Form.free (fn : Nat) (gid : Nat) : Form.Statement (.free fn gid) := form_event _ rfl
theorem Form.exchange (fn : Nat) : Form.Statement (.exchange fn) := form_event _ rfl
theorem Form.assign (fn : Nat) (target : Nat) : Form.Statement (.assign fn target) := form_event _ rfl
theorem Form.load (fn : Nat) : Form.Statement (.load fn) := form_event _ rfl
theorem Form.portFirmwareStart : Form.Statement .portFirmwareStart := form_event _ rfl
theorem Form.fuse (fn : Nat) (kind : Nat) : Form.Statement (.fuse fn kind) := form_event _ rfl
theorem Form.attest (fn : Nat) : Form.Statement (.attest fn) := form_event _ rfl
theorem Form.cert (fn : Nat) : Form.Statement (.cert fn) := form_event _ rfl
theorem Form.fabcfgInboundLoad (fn : Nat) : Form.Statement (.fabcfgInboundLoad fn) := form_event _ rfl
theorem Form.cxlCacheDown (linkUp : Bool) : Form.Statement (.cxlCacheDown linkUp) := form_event _ rfl
theorem Form.hostWrite (t : HostTarget) (bytes : List Byte) : Form.Statement (.hostWrite t bytes) := form_event _ rfl
theorem Form.cxlCacheUp : Form.Statement .cxlCacheUp := form_event _ rfl
theorem Form.peerRequestTimeout (req : Nat) : Form.Statement (.peerRequestTimeout req) := form_event _ rfl

end Sys2Proof.Laws
end

