-- ==== Sys2Proof/Laws/VExec.lean ====
section
/-! SUPPORT. Laws/VExec: what a format V instruction without chain operands does when nothing stands in its way, and that a result's tag never changes a value (R104). -/
namespace Sys2Proof.Claims
open Sys2Proof.Machine

/-- What a lane of an unchained instruction computes. -/
def laneResult (is : Issue) (o : VOps) (f : Form) (fn : LaneFn) (l : Nat) : Nat × Word :=
  fn l (opValue is o.a f.wideA f.imm l) (opValue is o.b f.wideB f.imm l) (opValue is o.c f.wideC f.imm l)
    (if f.readsD then opValue is o.d f.wide 0 l else 0)

theorem chainReads_plain (l : Launch) (a b c : Opnd) : chainReads l [(a, 0), (b, 0), (c, 0)] = some [none, none, none] := by
  simp [chainReads]

theorem vLane_plain (s : State) (is : Issue) (o : VOps) (f : Form) (fn : LaneFn) (p : Prog) (l : Nat) :
    vLane s is o f fn [none, none, none] none p l =
      { p with out := p.out ++ [(l, (laneResult is o f fn l).1)], flags := p.flags ||| (laneResult is o f fn l).2 } := by
  simp [vLane, chainSlots, firstMissing, chainOr, laneResult]

theorem fold_plain (s : State) (is : Issue) (o : VOps) (f : Form) (fn : LaneFn) (ls : List Nat) (p : Prog) :
    ls.foldl (vLane s is o f fn [none, none, none] none) p =
      { p with out := p.out ++ ls.map (fun l => (l, (laneResult is o f fn l).1))
               flags := ls.foldl (fun x l => x ||| (laneResult is o f fn l).2) p.flags } := by
  induction ls generalizing p with
  | nil => simp
  | cons l r ih => simp [vLane_plain, ih]

theorem lookup_map (f : Nat → Nat) (ls : List Nat) (l : Nat) (h : l ∈ ls) : lookup (ls.map (fun k => (k, f k))) l = some (f l) := by
  induction ls with
  | nil => simp at h
  | cons k r ih =>
    by_cases hk : k = l
    · simp [lookup, hk]
    · simp [lookup, hk]
      exact ih (by simpa [Ne.symm hk] using h)

theorem outAt_map (f : Nat → Nat) (ls : List Nat) (l : Nat) (h : l ∈ ls) : outAt (ls.map (fun k => (k, f k))) l = f l := by
  simp [outAt, lookup_map f ls l h]

/-! ### Writes depend on the values of the written lanes alone -/

theorem after_congr (w : Nat) (live m : Mask) (sh : Shape) (old : VReg) (a b : Nat → Word) (h : ∀ l ∈ m.lanes w, a l = b l) :
    VReg.after w live m sh old a = VReg.after w live m sh old b := by
  have hg : (List.range w).map (fun l => if m.has l then a l else old.get l) = (List.range w).map (fun l => if m.has l then b l else old.get l) := by
    apply List.map_congr_left
    intro l hl
    by_cases hm : m.has l = true
    · simp [hm, h l ((Mask.mem_lanes m w l).2 ⟨by simpa using hl, hm⟩)]
    · simp [hm]
  unfold VReg.after
  simp only [hg]
  cases hm : m.lanes w with
  | nil => rfl
  | cons l r => simp [h l (by simp [hm])]

/-- What a write does to the standpipe: only its entries and the group's failing words may change. -/
theorem restage_changes (g : Group) (n : Nat) (m : Mask) (was : Bool) :
    ∃ staged bad, g.restage n m was = { g with staged := staged, integrity := { g.integrity with bad := bad } } := by
  unfold Group.restage
  split
  · exact ⟨g.staged, g.integrity.bad, rfl⟩
  · dsimp only
    split
    · exact ⟨_, g.integrity.bad, rfl⟩
    · exact ⟨_, _, rfl⟩

/-- Where no standpipe entry fails its parity, none does after a write, and the group's failing words stay as they are. -/
theorem restage_sound (g : Group) (n : Nat) (m : Mask) (was : Bool) (hb : g.integrity.bad = []) (hs : g.staged.all (fun x => x.bad.isEmpty) = true) :
    ∃ staged, staged.all (fun x => x.bad.isEmpty) = true ∧ g.restage n m was = { g with staged := staged } := by
  unfold Group.restage
  split
  · exact ⟨g.staged, hs, rfl⟩
  · rename_i e he
    have hall : ∀ x ∈ g.staged, x.bad = [] := fun x hx => by simpa using List.all_eq_true.1 hs x hx
    have hbad : e.bad = [] := hall e (List.mem_of_find?_eq_some he)
    simp only [hbad, failing, List.isEmpty_nil, Bool.true_or, if_true]
    split
    · refine ⟨_, ?_, rfl⟩
      simp only [List.all_map, List.all_eq_true, Function.comp_apply]
      intro x hx
      split
      · rfl
      · simp [hall x hx]
    · refine ⟨g.staged.filter (fun x => x.reg != n), ?_, ?_⟩
      rotate_left
      · simp only [badOf, hb, List.filter_nil, List.map_nil, List.isEmpty_nil, Bool.and_self, if_true]
        rw [← hb]
      · simp only [List.all_eq_true, List.mem_filter]
        intro x hx
        simp [hall x hx.1]

@[simp] theorem restage_pend (g : Group) (n : Nat) (m : Mask) (was : Bool) : (g.restage n m was).pend = g.pend := by
  obtain ⟨_, _, h⟩ := restage_changes g n m was
  rw [h]

@[simp] theorem restage_width (g : Group) (n : Nat) (m : Mask) (was : Bool) : (g.restage n m was).width = g.width := by
  obtain ⟨_, _, h⟩ := restage_changes g n m was
  rw [h]

@[simp] theorem restage_shadow (g : Group) (n : Nat) (m : Mask) (was : Bool) : (g.restage n m was).integrity.shadow = g.integrity.shadow := by
  obtain ⟨_, _, h⟩ := restage_changes g n m was
  rw [h]

@[simp] theorem writeV_width (g : Group) (n : Nat) (m : Mask) (sh : Shape) (x : Nat → Word) : (g.writeV n m sh x).width = g.width := by
  simp [Group.writeV]

theorem writeV_pend (g : Group) (n : Nat) (m : Mask) (sh : Shape) (x : Nat → Word) (hp : g.pend = []) : (g.writeV n m sh x).pend = [] := by
  simp [Group.writeV, hp]

@[simp] theorem writeV_shadow (g : Group) (n : Nat) (m : Mask) (sh : Shape) (x : Nat → Word) : (g.writeV n m sh x).integrity.shadow = g.integrity.shadow := by
  simp [Group.writeV]

theorem writeV_congr (g : Group) (n : Nat) (m : Mask) (sh : Shape) (a b : Nat → Word) (hp : g.pend = []) (h : ∀ l ∈ m.lanes g.width, a l = b l) :
    g.writeV n m sh a = g.writeV n m sh b := by
  unfold Group.writeV
  simp only [Group.vpend, hp]
  simp [after_congr _ _ _ _ _ a b h]

theorem writeD_congr (g : Group) (d : Opnd) (wide sgn : Bool) (m : Mask) (sh high : Shape) (a b : Nat → Nat) (hp : g.pend = [])
    (h : ∀ l ∈ m.lanes g.width, a l = b l) : g.writeD d wide sgn m sh a high = g.writeD d wide sgn m sh b high := by
  unfold Group.writeD
  split
  · rename_i n
    have h1 : ∀ l ∈ m.lanes g.width, BitVec.ofNat 32 (a l) = BitVec.ofNat 32 (b l) := fun l hl => by rw [h l hl]
    have h2 : ∀ l ∈ m.lanes g.width, BitVec.ofNat 32 (a l / 2 ^ 32) = BitVec.ofNat 32 (b l / 2 ^ 32) := fun l hl => by rw [h l hl]
    rw [writeV_congr g n.val m sh _ _ hp h1]
    dsimp only
    split
    · exact writeV_congr _ _ _ _ _ _ (writeV_pend _ _ _ _ _ hp) (by simpa using h2)
    · rfl
  · cases hm : m.lanes g.width with
    | nil => rfl
    | cons l r => simp [h l (by simp [hm])]
  · have hx : Mask.of g.width (fun l => a l != 0) &&& m = Mask.of g.width (fun l => b l != 0) &&& m := by
      apply Mask.ext_has
      intro l
      by_cases hm : m.has l = true
      · by_cases hw : l < g.width
        · simp [Mask.has_of, hm, hw, h l ((Mask.mem_lanes m g.width l).2 ⟨hw, hm⟩)]
        · simp [Mask.has_of, hw]
      · simp [hm]
    simp [Group.writeP, hx]
  · rfl

/-! ### The executor -/

/-- The group an unchained short-latency instruction leaves, before its lanes step. -/
def vGroup (is : Issue) (o : VOps) (f : Form) (fn : LaneFn) : Group :=
  if is.gd == 0 then is.g
  else (is.g.writeD o.d f.wide f.signed is.gd (resultShapes is o f).1 (fun l => (laneResult is o f fn l).1) (resultShapes is o f).2).orFlags
    (orLanes is (fun l => (laneResult is o f fn l).2))

theorem onGroup_congr (s : State) (k : Nat) (g : Group) (f f' : Group → Group) (hg : s.group k = some g) (h : f g = f' g) :
    s.onGroup k f = s.onGroup k f' := by
  unfold State.group at hg
  simp [State.onGroup, hg, h]

theorem mask_and_not_zero (m : Mask) : m &&& ~~~0#64 = m := Mask.and_not_zero m

theorem setLaunch_self {s : State} {pred : Fin 8} {neg : Bool} {is : Issue} (h : Issues s pred neg is) : s.setLaunch is.g.launch is.l = s := by
  simp [State.setLaunch, insert_lookup_self _ _ _ h.parts.2.2.1]

/-- Without a lane in shadow error, a shadowed issue commits (R189, R190). -/
theorem shadowed_none {s : State} {pred : Fin 8} {neg : Bool} {is : Issue} (h : Issues s pred neg is) (t : State) (stay primaries wrote : Mask) (val : Nat → Nat) :
    shadowed is t stay primaries wrote val = .commit t stay 0 := by
  have hm : shadowMisses is primaries wrote val = [] := by
    unfold shadowMisses
    split
    · rfl
    · simp [h.shadow, lookup]
  simp [shadowed, shadowsDone, hm, h.shadow]

/-- An unchained instruction has no fault of R182. -/
theorem chainAhead_none {is : Issue} {o : VOps} (hc : unchained o) (s : State) :
    (chainAhead o (VOps.chain o)).first is = none ∧ (chainAhead o (VOps.chain o)).second is s = none := by
  obtain ⟨hp, ha, hb, hcc⟩ := hc
  have hm : Mask.of is.g.width (fun _ => false) = 0 := Mask.ext_has fun l => by simp [Mask.has_of]
  constructor
  · simp [chainAhead, chainBad, VOps.chain, VOps.chained, chainReads, hp, ha, hb, hcc]
  · simp [chainAhead, beyondCounts, VOps.chain, VOps.pubSlot, chainReads, chainSlots, hp, ha, hb, hcc, hm]

/-- What an unchained instruction's lanes compute, put into the state. -/
theorem vBody_unchained {s : State} {is : Issue} {o : VOps} (hc : unchained o) (f : Form) (fn : LaneFn) (long : Bool) :
    vBody o f long fn is s = vCommit s is o f (if long then some o.look.toNat else none) false
      { l := is.l, out := (is.gd.lanes is.g.width).map (fun l => (l, (laneResult is o f fn l).1)), flags := orLanes is (fun l => (laneResult is o f fn l).2) } := by
  obtain ⟨hp, ha, hb, hcc⟩ := hc
  have hw : pubWaits o is s = false := by simp [pubWaits, hp]
  have hs : VOps.pubSlot o is.l = none := by simp [VOps.pubSlot, hp]
  have hr : VOps.chain o = [(o.a, 0), (o.b, 0), (o.c, 0)] := by simp [VOps.chain, ha, hb, hcc]
  simp only [vBody, hw, hs, hr, chainReads_plain, Option.getD_some, fold_plain, Bool.false_eq_true, if_false, List.nil_append]
  rfl

theorem vBody_plain {s : State} {is : Issue} {o : VOps} (h : Issues s o.pred o.neg is) (hc : unchained o) (f : Form) (fn : LaneFn) :
    vBody o f false fn is s = .commit (s.onGroup is.key (fun _ => vGroup is o f fn)) 0 0 := by
  rw [vBody_unchained hc]
  unfold vCommit
  simp only [List.foldl_nil, setLaunch_self h, shadowed_none h, Bool.false_eq_true, if_false, ite_self]
  congr 1
  apply onGroup_congr s is.key is.g _ _ h.parts.1
  have hw := writeD_congr is.g o.d f.wide f.signed is.gd (resultShapes is o f).1 (resultShapes is o f).2
    (outAt ((is.gd.lanes is.g.width).map (fun l => (l, (laneResult is o f fn l).1)))) (fun l => (laneResult is o f fn l).1) h.pend
    (fun l hl => outAt_map (fun l => (laneResult is o f fn l).1) _ l hl)
  simp only [BitVec.ofNat_eq_ofNat, mask_and_not_zero, hw, beq_self_eq_true, if_true]
  rfl

/-- An unchained short-latency instruction of format V. -/
theorem execV_plain {s : State} {is : Issue} {o : VOps} (h : Issues s o.pred o.neg is) (hc : unchained o) (f : Form) (fn : LaneFn) :
    execV o f fn s = .next (became s is ((vGroup is o f fn).advance is 0 0)) := by
  unfold execV
  rw [run_ahead h, (chainAhead_none hc s).1, (chainAhead_none hc s).2]
  simp only [vBody_plain h hc, finish_group h, conclude_commit]

/-! ### A tag never changes a value (R104) -/

/-- The shape a register is given fits its values. -/
def shapeFits (is : Issue) (sh : Shape) (x : Nat → Word) : Prop :=
  match sh with
  | .u => ∀ l ∈ is.gd.lanes is.g.width, ∀ k ∈ is.gd.lanes is.g.width, x l = x k
  | .a base stride => ∀ l ∈ is.gd.lanes is.g.width, x l = base + BitVec.ofNat 32 l * stride
  | .g => True

/-- The words of a result's registers. -/
def lowWord (val : Nat → Nat) (l : Nat) : Word := BitVec.ofNat 32 (val l)
def highWord (val : Nat → Nat) (l : Nat) : Word := BitVec.ofNat 32 (val l / 2 ^ 32)

/-- The shapes a result's registers are given fit its values. -/
def resultFits (is : Issue) (wide : Bool) (sh : Shape × Shape) (val : Nat → Nat) : Prop :=
  shapeFits is sh.1 (lowWord val) ∧ (wide = true → shapeFits is sh.2 (highWord val))

theorem after_holds (is : Issue) (sh : Shape) (old : VReg) (val : Nat → Word) (hs : shapeFits is sh val) :
    holds is is.gd old (old.after is.g.width is.g.live is.gd sh val) val := by
  unfold shapeFits at hs
  generalize is.gd = m at hs ⊢
  intro l hl
  have hgen : (VReg.g ((List.range is.g.width).map (fun l => if m.has l then val l else old.get l))).get l =
      if m.has l then val l else old.get l := by simp [VReg.get, List.getD, hl]
  by_cases hin : is.g.live.within m = true
  · have hlive : is.g.live.has l = true → m.has l = true := (Mask.within_iff _ _).1 hin l
    unfold VReg.after
    simp only [hin, if_true]
    cases sh with
    | u =>
      dsimp only at hs ⊢
      by_cases hm : m.has l = true
      · simp only [hm, if_true]
        have hmem := (Mask.mem_lanes m is.g.width l).2 ⟨hl, hm⟩
        cases hq : m.lanes is.g.width with
        | nil => simp [hq] at hmem
        | cons k r => exact hs k (by simp [hq]) l hmem
      · simp only [hm]
        intro h'
        exact absurd (hlive h') hm
    | a base stride =>
      dsimp only at hs ⊢
      by_cases hm : m.has l = true
      · simp only [hm, if_true]
        exact (hs l ((Mask.mem_lanes m is.g.width l).2 ⟨hl, hm⟩)).symm
      · simp only [hm]
        intro h'
        exact absurd (hlive h') hm
    | g =>
      dsimp only
      rw [hgen]
      by_cases hm : m.has l = true <;> simp [hm]
  · unfold VReg.after
    simp only [hin, Bool.false_eq_true, if_false]
    by_cases hnil : m.lanes is.g.width = []
    · have hnot : ¬ m.has l = true := fun hm => by
        have := (Mask.mem_lanes m is.g.width l).2 ⟨hl, hm⟩
        simp [hnil] at this
      simp [hnil, hnot]
    · simp only [beq_iff_eq, hnil, if_false]
      rw [hgen]
      by_cases hm : m.has l = true <;> simp [hm]

theorem writeV_plain (g : Group) (n : Nat) (m : Mask) (sh : Shape) (x : Nat → Word) (hp : g.pend = []) (hb : g.integrity.bad = [])
    (hs : g.staged.all (fun x => x.bad.isEmpty) = true) :
    ∃ staged dups, staged.all (fun x => x.bad.isEmpty) = true ∧ g.writeV n m sh x =
      { g with regs := { g.regs with v := g.regs.v.set n ((g.regs.v.getD n (.u 0)).after g.width g.live m sh x) }
               staged := staged, integrity := { g.integrity with dups := dups } } := by
  unfold Group.writeV
  obtain ⟨st, hst, he⟩ := restage_sound { g with
      regs := { g.regs with v := g.regs.v.set n ((g.regs.v.getD n (.u 0)).after g.width g.live m sh x) }
      integrity := { g.integrity with dups := g.integrity.dups.filter (fun w => !(w.reg == n)) } } n m (g.regs.v.getD n (.u 0)).general hb hs
  refine ⟨st, g.integrity.dups.filter (fun w => !(w.reg == n)), hst, Eq.trans ?_ he⟩
  clear he hst hs
  obtain ⟨⟩ := g
  rename Integrity => i
  obtain ⟨⟩ := i
  simp only at hp hb
  subst hp hb
  rfl

/-- What writing a destination does to the register files. -/
theorem writeD_written {s : State} {pred : Fin 8} {neg : Bool} {is : Issue} (h : Issues s pred neg is) (d : Opnd) (wide sgn : Bool) (sh : Shape × Shape)
    (val : Nat → Nat) (hs : resultFits is wide sh val) (hgd : is.gd ≠ 0) :
    ∃ v sc p staged dups, filesWritten is d wide sgn is.gd val v sc p ∧
      is.g.writeD d wide sgn is.gd sh.1 val sh.2 = { is.g with
        regs := { is.g.regs with v := v, s := sc, p := p }, staged := staged, integrity := { is.g.integrity with dups := dups } } := by
  have hp := h.pend
  have hb := h.words
  cases d with
  | v n =>
    have h1 := after_holds is sh.1 (is.g.regs.v.getD n.val (.u 0)) (lowWord val) hs.1
    obtain ⟨st, du, hst, e1⟩ := writeV_plain is.g n.val is.gd sh.1 (lowWord val) hp hb h.staged
    cases wide with
    | true =>
      obtain ⟨st2, du2, -, e2⟩ := writeV_plain (is.g.writeV n.val is.gd sh.1 (lowWord val)) (n.val + 1) is.gd sh.2 (highWord val)
        (by rw [e1]; exact hp) (by rw [e1]; exact hb) (by rw [e1]; exact hst)
      refine ⟨_, is.g.regs.s, is.g.regs.p, st2, du2, ⟨rfl, rfl, _, h1, _, after_holds is sh.2 _ (highWord val) (hs.2 rfl), rfl⟩, ?_⟩
      show (is.g.writeV n.val is.gd sh.1 (lowWord val)).writeV (n.val + 1) is.gd sh.2 (highWord val) = _
      rw [e2, e1]
      rfl
    | false => exact ⟨_, is.g.regs.s, is.g.regs.p, st, du, ⟨rfl, rfl, _, h1, rfl⟩, e1⟩
  | s n =>
    unfold Group.writeD
    cases hl : is.gd.lanes is.g.width with
    | nil => exact ⟨is.g.regs.v, is.g.regs.s, is.g.regs.p, is.g.staged, is.g.integrity.dups, ⟨rfl, rfl, by simp [hl]⟩, rfl⟩
    | cons l r =>
      refine ⟨is.g.regs.v, _, is.g.regs.p, is.g.staged, is.g.integrity.dups.filter (fun w => !(w.reg == 128 + n.val)), ⟨rfl, rfl, rfl⟩, ?_⟩
      simp [Group.writeS, Group.spend, hp, hb, hl, scalarOf]
  | p n =>
    refine ⟨is.g.regs.v, is.g.regs.s, _, is.g.staged, is.g.integrity.dups, ⟨rfl, rfl, rfl⟩, ?_⟩
    by_cases hn : n.val = 0
    · simp [Group.writeD, Group.writeP, hn]
    · have hm' : ¬ is.gd = 0#64 := hgd
      simp [Group.writeD, Group.writeP, hn, hm']
  | _ => exact ⟨_, _, _, _, _, ⟨rfl, rfl, rfl⟩, rfl⟩

@[simp] theorem lanes_zero (w : Nat) : Mask.lanes 0#64 w = [] := by
  rw [List.eq_nil_iff_forall_not_mem]
  intro l hl
  simpa using (Mask.mem_lanes 0#64 w l).1 hl

theorem set_self {α : Type} (l : List α) (n : Nat) (d : α) : l.set n (l.getD n d) = l := by
  apply List.ext_getElem?
  intro i
  by_cases h : n = i
  · subst h
    by_cases hn : n < l.length <;> simp [hn]
  · simp [h]

/-- With no lane whose guard is true, nothing is written. -/
theorem filesWritten_none {is : Issue} (d : Opnd) (wide sgn : Bool) (val : Nat → Nat) (hd : is.gd = 0) :
    filesWritten is d wide sgn is.gd val is.g.regs.v is.g.regs.s is.g.regs.p := by
  have hl : is.gd.lanes is.g.width = [] := by rw [hd]; exact lanes_zero _
  have hh : ∀ (x : VReg) (val : Nat → Word), holds is is.gd x x val := by
    intro x val l _
    simp [hd]
  unfold filesWritten
  cases d with
  | v n =>
    refine ⟨rfl, rfl, is.g.regs.v.getD n.val (.u 0), hh _ _, ?_⟩
    split
    · exact ⟨_, hh _ _, by rw [set_self, set_self]⟩
    · rw [set_self]
  | s n => exact ⟨rfl, rfl, by simp [hl]⟩
  | p n => exact ⟨rfl, rfl, by simp [hd]⟩
  | _ => exact ⟨rfl, rfl, rfl⟩

/-- What an unchained short-latency instruction of format V gives, where its result's tag fits its values. -/
theorem execV_gives {s : State} {is : Issue} {o : VOps} {i : Instr} (h : Issues s o.pred o.neg is) (hc : unchained o) (f : Form) (fn : LaneFn)
    (hi : exec i s = execV o f fn s) (hs : resultFits is f.wide (resultShapes is o f) (fun l => (laneResult is o f fn l).1)) :
    Gives i s is o.d f.wide f.signed (fun l => (laneResult is o f fn l).1) (orLanes is (fun l => (laneResult is o f fn l).2)) := by
  have hstep : ∀ m : Mask, m &&& ~~~(0 : Mask) &&& ~~~(0 : Mask) = m := fun m => by rw [Mask.and_not_zero, Mask.and_not_zero]
  by_cases hd : is.gd = 0
  · refine ⟨is.g.regs.v, is.g.regs.s, is.g.regs.p, is.g.staged, is.g.integrity.dups, filesWritten_none _ _ _ _ hd, ?_⟩
    rw [hi, execV_plain h hc, advance_eq _ _ _ _ (by simp [vGroup, hd, h.pend]) (by simp [vGroup, hd, h.yields]) (by simp [vGroup, hd, h.words])]
    have hz : orLanes is (fun l => (laneResult is o f fn l).2) = 0 := by simp [orLanes, hd]
    have hv : vGroup is o f fn = is.g := by simp [vGroup, hd]
    simp only [hstep, hz, hv]
    simp [stepped]
  · obtain ⟨v, sc, p, st, du, hw, he⟩ := writeD_written h o.d f.wide f.signed _ _ hs hd
    refine ⟨v, sc, p, st, du, hw, ?_⟩
    have hv : vGroup is o f fn = (is.g.writeD o.d f.wide f.signed is.gd (resultShapes is o f).1 (fun l => (laneResult is o f fn l).1) (resultShapes is o f).2).orFlags
        (orLanes is (fun l => (laneResult is o f fn l).2)) := by
      have hd' : ¬ is.gd = 0#64 := hd
      simp [vGroup, hd']
    rw [hi, execV_plain h hc, hv, he, advance_eq _ _ _ _ (by simp [h.pend]) (by simp [h.yields]) (by simp [h.words])]
    simp only [hstep]
    rfl

/-! ### Long-latency instructions (R90) -/

theorem pendV_congr (g : Group) (n look : Nat) (m : Mask) (sh : Shape) (a b : Nat → Word) (fl : Word) (h : ∀ l ∈ m.lanes g.width, a l = b l) :
    pendV g n look m sh a fl = pendV g n look m sh b fl := by
  unfold pendV
  simp only [after_congr _ _ _ _ _ a b h]

theorem pendD_congr (g : Group) (d : Opnd) (wide sgn : Bool) (look : Nat) (m : Mask) (sh : Shape) (fl : Word) (a b : Nat → Nat)
    (h : ∀ l ∈ m.lanes g.width, a l = b l) : g.pendD d wide sgn look m sh fl a = g.pendD d wide sgn look m sh fl b := by
  unfold Group.pendD
  split
  · rename_i n
    have h1 : ∀ l ∈ m.lanes g.width, BitVec.ofNat 32 (a l) = BitVec.ofNat 32 (b l) := fun l hl => by rw [h l hl]
    have h2 : ∀ l ∈ m.lanes g.width, BitVec.ofNat 32 (a l / 2 ^ 32) = BitVec.ofNat 32 (b l / 2 ^ 32) := fun l hl => by rw [h l hl]
    rw [pendV_congr g n.val look m sh _ _ fl h1]
    cases wide with
    | false => rfl
    | true =>
      exact congrArg (fun x : Group => { x with nextSeq := g.nextSeq + 1 })
        (pendV_congr (pendV g n.val look m sh (fun l => BitVec.ofNat 32 (b l)) fl) (n.val + 1) look m sh _ _ 0 h2)
  · cases hm : m.lanes g.width with
    | nil => rfl
    | cons l r => simp [h l (by simp [hm])]
  · rfl

/-- The group an unchained long-latency instruction leaves, before its lanes step. -/
def vGroupLong (is : Issue) (o : VOps) (f : Form) (fn : LaneFn) : Group :=
  if is.gd == 0 then is.g
  else is.g.pendD o.d f.wide f.signed o.look.toNat is.gd (resultShapes is o f).1 (orLanes is (fun l => (laneResult is o f fn l).2))
    (fun l => (laneResult is o f fn l).1)

theorem vBody_long {s : State} {is : Issue} {o : VOps} (h : Issues s o.pred o.neg is) (hc : unchained o) (f : Form) (fn : LaneFn) :
    vBody o f true fn is s = .commit (s.onGroup is.key (fun _ => vGroupLong is o f fn)) 0 0 := by
  rw [vBody_unchained hc]
  unfold vCommit
  simp only [List.foldl_nil, setLaunch_self h, shadowed_none h, if_true, ite_self]
  congr 1
  apply onGroup_congr s is.key is.g _ _ h.parts.1
  have hw := pendD_congr is.g o.d f.wide f.signed o.look.toNat is.gd (resultShapes is o f).1 (orLanes is (fun l => (laneResult is o f fn l).2))
    (outAt ((is.gd.lanes is.g.width).map (fun l => (l, (laneResult is o f fn l).1)))) (fun l => (laneResult is o f fn l).1)
    (fun l hl => outAt_map (fun l => (laneResult is o f fn l).1) _ l hl)
  simp only [BitVec.ofNat_eq_ofNat, mask_and_not_zero, hw, beq_self_eq_true, if_true]
  rfl

/-- An unchained long-latency instruction of format V. -/
theorem execV_long {s : State} {is : Issue} {o : VOps} (h : Issues s o.pred o.neg is) (hc : unchained o) (f : Form) (fn : LaneFn) :
    execV o f fn s true = .next (became s is ((vGroupLong is o f fn).advance is 0 0)) := by
  unfold execV
  rw [run_ahead h, (chainAhead_none hc s).1, (chainAhead_none hc s).2]
  simp only [vBody_long h hc, finish_group h, conclude_commit]

/-- Results just issued neither count nor settle at the end of their own issue. -/
theorem advance_new (g : Group) (is : Issue) (hn : ∀ p ∈ g.pend, p.seq = is.g.nextSeq ∧ p.arrived = false) (hy : g.yields = [])
    (hb : g.integrity.bad = []) :
    g.advance is 0 0 = { g with regs := { g.regs with lpc := onLanes is.ex (fun l => g.withPc l (nextPc is.pc)) g.regs.lpc }, inbox := [] } := by
  have hcount : ∀ l : List Pend, (∀ p ∈ l, p.seq = is.g.nextSeq ∧ p.arrived = false) → l.map (fun p => if p.seq < is.g.nextSeq then
      { p with left := mapFrom (fun i n => if (0 : Mask).has i then 0 else if (is.ex).has i then n - 1 else n) 0 p.left } else p) = l := by
    intro l hl
    conv => rhs; rw [← List.map_id l]
    exact List.map_congr_left (fun p hp => by simp [(hl p hp).1])
  have hset : ∀ (l : List Pend) (b : List (Bool × Nat)) (r : Regs), (∀ p ∈ l, p.seq = is.g.nextSeq ∧ p.arrived = false) → settlePends l b r = (l, r) := by
    intro l
    induction l with
    | nil => intro b r _; rfl
    | cons p q ih =>
      intro b r hl
      simp [settlePends, (hl p (by simp)).2, ih _ _ (fun x hx => hl x (by simp [hx]))]
  have hgone : ∀ l : List Pend, l.filter (fun p => !l.any (fun q => q.seq == p.seq && q.reg == p.reg && q.scalar == p.scalar)) = [] := by
    intro l
    rw [List.filter_eq_nil_iff]
    intro p hp
    simp only [Bool.not_eq_true', Bool.not_eq_false, List.any_eq_true]
    exact ⟨p, hp, by simp⟩
  have hstep : is.ex &&& ~~~(0 : Mask) = is.ex := Mask.and_not_zero _
  obtain ⟨⟩ := g
  rename Integrity => i
  obtain ⟨⟩ := i
  simp only at hn hy hb
  subst hy hb
  simp only [Group.advance, hstep, settleYields, countWindows, Group.setLpc, settle]
  simp only [hcount _ hn, hset _ _ _ hn, hgone]
  simp

/-- A guard that is true in some lane is true in a lane of the group. -/
theorem Issues.some_lane {s : State} {pred : Fin 8} {neg : Bool} {is : Issue} (h : Issues s pred neg is) (hd : is.gd ≠ 0) :
    ∃ l r, is.gd.lanes is.g.width = l :: r := by
  obtain ⟨-, -, -, -, hex, hgd, -⟩ := h.parts
  cases hl : is.gd.lanes is.g.width with
  | cons l r => exact ⟨l, r, rfl⟩
  | nil =>
    refine absurd (Mask.ext_has (fun k => ?_)) hd
    cases hk : is.gd.has k with
    | false => exact (Mask.has_zero k).symm
    | true =>
      have hk' := hk
      rw [hgd, Group.guarded, Mask.has_and, hex, Group.executing, Mask.has_of] at hk
      simp only [Bool.and_eq_true, decide_eq_true_eq] at hk
      have := (Mask.mem_lanes is.gd is.g.width k).2 ⟨hk.1.2.1, hk'⟩
      simp [hl] at this

/-- What leaving a result pending does. -/
theorem pendD_results {s : State} {pred : Fin 8} {neg : Bool} {is : Issue} (h : Issues s pred neg is) (d : Opnd) (wide sgn : Bool) (look : Nat)
    (sh : Shape) (fl : Word) (val : Nat → Nat) (hs : resultFits is wide (sh, sh) val) (hd : is.gd ≠ 0) :
    ∃ pend seq dups, resultsFor is d wide sgn look val fl pend ∧
      is.g.pendD d wide sgn look is.gd sh fl val = { is.g with pend := pend, nextSeq := seq, integrity := { is.g.integrity with dups := dups } } := by
  have hp := h.pend
  cases d with
  | v n =>
    have h1 := fun old => after_holds is sh old (lowWord val) hs.1
    cases wide with
    | true =>
      refine ⟨_, is.g.nextSeq + 1, (is.g.integrity.dups.filter (fun w => w.reg != n.val)).filter (fun w => w.reg != n.val + 1),
        ⟨_, h1 _, _, after_holds is sh _ (highWord val) (hs.2 rfl), rfl⟩, ?_⟩
      simp only [Group.pendD, pendV, Group.vlast, Group.vpend, hp, if_true]
      simp [onItsWay, Group.live, Group.lane]
      exact ⟨rfl, rfl⟩
    | false =>
      refine ⟨_, is.g.nextSeq + 1, is.g.integrity.dups.filter (fun w => w.reg != n.val), ⟨_, h1 _, rfl⟩, ?_⟩
      simp only [Group.pendD, pendV, Group.vlast, Group.vpend, hp]
      simp [onItsWay]
      rfl
  | s n =>
    obtain ⟨l, r, hl⟩ := h.some_lane hd
    refine ⟨_, is.g.nextSeq + 1, is.g.integrity.dups.filter (fun w => w.reg != 128 + n.val), ⟨l, r, hl, rfl⟩, ?_⟩
    simp only [Group.pendD, hl, pendS, hp]
    simp [onItsWay, scalarOf]
  | _ =>
    refine ⟨[], is.g.nextSeq, is.g.integrity.dups, rfl, ?_⟩
    have hp' := hp
    cases hg : is.g
    rw [hg] at hp'
    simp only at hp'
    simp [Group.pendD, hp']

/-- What an unchained long-latency instruction of format V starts, where its result's tag fits its values. -/
theorem execV_starts {s : State} {is : Issue} {o : VOps} {i : Instr} (h : Issues s o.pred o.neg is) (hc : unchained o) (f : Form) (fn : LaneFn)
    (hi : exec i s = execV o f fn s true) (hs : resultFits is f.wide ((resultShapes is o f).1, (resultShapes is o f).1) (fun l => (laneResult is o f fn l).1)) :
    Starts i s is o.d f.wide f.signed o.look.toNat (fun l => (laneResult is o f fn l).1) (orLanes is (fun l => (laneResult is o f fn l).2)) := by
  by_cases hd : is.gd = 0
  · refine ⟨[], is.g.nextSeq, is.g.integrity.dups, by simp [hd], ?_⟩
    have hv : vGroupLong is o f fn = is.g := by simp [vGroupLong, hd]
    rw [hi, execV_long h hc, hv, advance_new _ _ (by simp [h.pend]) h.yields h.words]
    have hp := h.pend
    congr 2
    cases hg : is.g
    rw [hg] at hp
    simp only at hp
    simp [stepped, hg, hp]
  · have hd' : ¬ is.gd = 0#64 := hd
    have hv : vGroupLong is o f fn = is.g.pendD o.d f.wide f.signed o.look.toNat is.gd (resultShapes is o f).1
        (orLanes is (fun l => (laneResult is o f fn l).2)) (fun l => (laneResult is o f fn l).1) := by simp [vGroupLong, hd']
    obtain ⟨pend, seq, dups, hr, he⟩ := pendD_results h o.d f.wide f.signed o.look.toNat (resultShapes is o f).1
      (orLanes is (fun l => (laneResult is o f fn l).2)) _ hs hd
    have hnew : ∀ p ∈ pend, p.seq = is.g.nextSeq ∧ p.arrived = false := by
      intro p hp
      unfold resultsFor at hr
      split at hr
      · obtain ⟨x, -, hr⟩ := hr
        split at hr
        · obtain ⟨y, -, hr⟩ := hr
          rw [hr] at hp
          simp only [List.mem_cons, List.not_mem_nil, or_false] at hp
          rcases hp with hp | hp <;> simp [hp, onItsWay]
        · rw [hr] at hp
          simp [List.mem_singleton.1 hp, onItsWay]
      · obtain ⟨l, r, -, hr⟩ := hr
        rw [hr] at hp
        simp [List.mem_singleton.1 hp, onItsWay]
      · simp [hr] at hp
    refine ⟨pend, seq, dups, by simpa [hd'] using hr, ?_⟩
    rw [hi, execV_long h hc, hv, he, advance_new _ _ (by simpa using hnew) (by simp [h.yields]) (by simp [h.words])]
    rfl

end Sys2Proof.Claims
end

