-- ==== Sys2Proof/Laws/Shape.lean ====
section
/-! SUPPORT. Laws/Shape: a source whose tag is U has one value in every live lane, one whose tag is A has base + lane × stride, and the tag that R104 gives a result fits the values it computes. -/
namespace Sys2Proof.Claims
open Sys2Proof.Machine

/-- Lanes whose guard is true are live lanes of the group. -/
theorem Issues.guarded_live {s : State} {pred : Fin 8} {neg : Bool} {is : Issue} (h : Issues s pred neg is) {l : Nat} (hl : is.gd.has l = true) :
    l < is.g.width ∧ is.g.live.has l = true ∧ is.ex.has l = true := by
  obtain ⟨-, -, -, -, hex, hgd, -⟩ := h.parts
  have hx : is.ex.has l = true := by
    rw [hgd, Group.guarded, Mask.has_and] at hl
    simpa using (Bool.and_eq_true _ _ ▸ hl : _ ∧ _).1
  have hx' := hx
  rw [hex, Group.executing, Mask.has_of] at hx
  simp only [Bool.and_eq_true, decide_eq_true_eq] at hx
  obtain ⟨h64, hw, hr, -⟩ := hx
  refine ⟨hw, ?_, hx'⟩
  rw [Group.ready, Mask.has_and, Group.mayRun, Mask.has_of] at hr
  simp only [Bool.and_eq_true, decide_eq_true_eq, beq_iff_eq] at hr
  rw [Group.live, Mask.has_of]
  simp [h64, hw, hr.1.2.2.1]

/-- Without pending results a lane reads its register. -/
theorem vlane_eq (g : Group) (n l : Nat) (hp : g.pend = []) : g.vlane n l = (g.regs.v.getD n (.u 0)).get l := by
  simp [Group.vlane, Group.vpend, hp]

theorem vreg_eq (g : Group) (n : Nat) (hp : g.pend = []) : g.vreg n = g.regs.v.getD n (.u 0) := by
  simp [Group.vreg, Group.vpend, hp]

/-- A source tagged U has one value in every live lane (R102, R104). -/
theorem opValue_u {is : Issue} (hp : is.g.pend = []) (o : Opnd) (wide : Bool) (imm : Nat) (hu : (opTag is o wide imm).isU = true)
    {l k : Nat} (hl : l < is.g.width ∧ is.g.live.has l = true) (hk : k < is.g.width ∧ is.g.live.has k = true) :
    opValue is o wide imm l = opValue is o wide imm k := by
  have hreg : ∀ n, (is.g.vreg n).shape.isU = true → is.g.vlane n l = is.g.vlane n k := by
    intro n hn
    rw [vreg_eq _ _ hp] at hn
    rw [vlane_eq _ _ _ hp, vlane_eq _ _ _ hp]
    cases hv : is.g.regs.v.getD n (.u 0) <;> simp_all [VReg.shape, Tag.isU, VReg.get]
  cases o with
  | v n =>
    unfold opTag at hu
    unfold opValue
    dsimp only at hu ⊢
    cases wide with
    | true =>
      simp only [if_true, uOr] at hu
      split at hu
      · rename_i h'
        simp only [Bool.and_eq_true] at h'
        simp only [if_true]
        rw [hreg _ h'.1, hreg _ h'.2]
      · simp [Tag.isU] at hu
    | false =>
      simp only [Bool.false_eq_true, if_false] at hu ⊢
      rw [hreg _ hu]
  | p n =>
    unfold opTag at hu
    unfold opValue
    simp only [uOr] at hu
    split at hu
    · rename_i h'
      simp only [Bool.or_eq_true, beq_iff_eq] at h'
      rcases h' with h' | h'
      · have := (Mask.within_iff _ _).1 h'
        simp [this l hl.2, this k hk.2]
      · have hz : ∀ i, is.g.live.has i = true → (is.g.pred n.val).has i = false := by
          intro i hi
          have hb : (is.g.live &&& is.g.pred n.val).has i = false := by rw [h']; exact Mask.has_zero i
          simpa [hi] using hb
        simp [hz l hl.2, hz k hk.2]
    · simp [Tag.isU] at hu
  | lpc =>
    unfold opTag at hu
    unfold opValue
    simp only [uOr] at hu
    split at hu
    · rename_i h'
      unfold Group.lpcUniform at h'
      have hl' := (Mask.mem_lanes is.g.live is.g.width l).2 hl
      have hk' := (Mask.mem_lanes is.g.live is.g.width k).2 hk
      cases hq : is.g.live.lanes is.g.width with
      | nil => simp [hq] at hl'
      | cons a r =>
        simp only [hq, List.all_eq_true, beq_iff_eq] at h'
        have hall : ∀ i ∈ is.g.live.lanes is.g.width, is.g.regs.lpc.getD i 0 = is.g.regs.lpc.getD a 0 := by
          intro i hi
          rw [hq] at hi
          rcases List.mem_cons.1 hi with hi | hi
          · rw [hi]
          · exact h' i hi
        rw [hall l hl', hall k hk']
    · simp [Tag.isU] at hu
  | lsp =>
    unfold opTag at hu
    unfold opValue
    simp only [uOr, lspUniform] at hu
    cases hr : is.g.regs.lsp <;> simp_all [LReg.get, LReg.general, Tag.isU]
  | _ => rfl

/-- A register of a 64-bit source tagged U has one value in every live lane (log 65). -/
theorem halfValue_u {is : Issue} (hp : is.g.pend = []) (o : Opnd) (high : Bool) (imm : Nat) (hu : (halfTag is o high imm).isU = true)
    {l k : Nat} (hl : l < is.g.width ∧ is.g.live.has l = true) (hk : k < is.g.width ∧ is.g.live.has k = true) :
    (if high then opValue is o true imm l / 2 ^ 32 else opValue is o true imm l % 2 ^ 32) =
      if high then opValue is o true imm k / 2 ^ 32 else opValue is o true imm k % 2 ^ 32 := by
  cases o with
  | v n =>
    have hlow : ∀ i, opValue is (.v n) true imm i % 2 ^ 32 = (is.g.vlane n.val i).toNat := fun i => by
      simp only [opValue, if_true]
      have := (is.g.vlane n.val i).isLt
      omega
    have hhigh : ∀ i, opValue is (.v n) true imm i / 2 ^ 32 = (is.g.vlane (n.val + 1) i).toNat := fun i => by
      simp only [opValue, if_true]
      have := (is.g.vlane n.val i).isLt
      omega
    have hreg : is.g.vlane (if high then n.val + 1 else n.val) l = is.g.vlane (if high then n.val + 1 else n.val) k := by
      unfold halfTag at hu
      dsimp only at hu
      rw [vreg_eq _ _ hp] at hu
      rw [vlane_eq _ _ _ hp, vlane_eq _ _ _ hp]
      cases hv : is.g.regs.v.getD (if high then n.val + 1 else n.val) (.u 0) <;> simp_all [VReg.shape, Tag.isU, VReg.get, uOr]
    cases high <;> simp_all
  | _ => rw [opValue_u hp _ true imm (by simpa only [halfTag] using hu) hl hk]

/-- A result tagged U because all its sources are has one value in every lane written. -/
theorem fits_u {s : State} {is : Issue} {o : VOps} (h : Issues s o.pred o.neg is) (f : Form) (fn : LaneFn) (hr : f.readsD = false)
    (hfn : ∀ l k a b c d, fn l a b c d = fn k a b c d)
    (hu : (opTag is o.a f.wideA f.imm).isU = true ∧ (opTag is o.b f.wideB f.imm).isU = true ∧ (opTag is o.c f.wideC f.imm).isU = true) :
    ∀ l ∈ is.gd.lanes is.g.width, ∀ k ∈ is.gd.lanes is.g.width, (laneResult is o f fn l).1 = (laneResult is o f fn k).1 := by
  intro l hl k hk
  have hl' := (h.guarded_live ((Mask.mem_lanes _ _ _).1 hl).2)
  have hk' := (h.guarded_live ((Mask.mem_lanes _ _ _).1 hk).2)
  have hv := fun (op : Opnd) (w : Bool) (hu : (opTag is op w f.imm).isU = true) =>
    opValue_u h.pend op w f.imm hu ⟨hl'.1, hl'.2.1⟩ ⟨hk'.1, hk'.2.1⟩
  simp only [laneResult, hr, Bool.false_eq_true, if_false]
  rw [hv _ _ hu.1, hv _ _ hu.2.1, hv _ _ hu.2.2, hfn l k]

/-- A tag R104 gives by an A row fits where the row is right for one lane. -/
def rowRight (o : VOps) (f : Form) (fn : LaneFn) : Prop :=
  ∀ (is : Issue) (base stride : Word), is.g.pend = [] → f.affine (opTag is o.a f.wideA f.imm) (opTag is o.b f.wideB f.imm) = some (base, stride) →
    ∀ l, BitVec.ofNat 32 (laneResult is o f fn l).1 = base + BitVec.ofNat 32 l * stride

/-- The tag of a result of an unchained instruction whose form names no tag fits its values, in both registers of a 64-bit result. -/
theorem fits_one {s : State} {is : Issue} {o : VOps} (h : Issues s o.pred o.neg is) (f : Form) (fn : LaneFn) (hr : f.readsD = false)
    (hf : f.shape = none) (hfn : ∀ l k a b c d, fn l a b c d = fn k a b c d) (hrow : rowRight o f fn) :
    resultFits is f.wide (resultShape is o f, resultShape is o f) (fun l => (laneResult is o f fn l).1) := by
  unfold resultShape
  split
  · exact ⟨trivial, fun _ => trivial⟩
  · simp only [hf]
    split
    · rename_i hu
      simp only [Bool.and_eq_true] at hu
      have hone := fits_u h f fn hr hfn ⟨hu.1.1, hu.1.2, hu.2⟩
      exact ⟨fun l hl k hk => by simp only [lowWord, hone l hl k hk], fun _ l hl k hk => by simp only [highWord, hone l hl k hk]⟩
    · split
      · exact ⟨trivial, fun _ => trivial⟩
      · rename_i hw
        refine ⟨?_, fun hw' => absurd hw' hw⟩
        cases hq : f.affine (opTag is o.a f.wideA f.imm) (opTag is o.b f.wideB f.imm) with
        | none => trivial
        | some x => exact fun l _ => hrow is x.1 x.2 h.pend hq l

/-- A result whose registers are tagged alike is tagged as its shape. -/
theorem shapes_alike {is : Issue} {o : VOps} {f : Form} (hh : f.halves = false) : resultShapes is o f = (resultShape is o f, resultShape is o f) := by
  simp [resultShapes, hh]

/-- Each register of a 64-bit result depends on the same registers of the 64-bit sources (log 65). -/
def splits (fn : LaneFn) : Prop :=
  ∀ l a b c d a' b' d', ((a % 2 ^ 32 = a' % 2 ^ 32 → b % 2 ^ 32 = b' % 2 ^ 32 → BitVec.ofNat 32 (fn l a b c d).1 = BitVec.ofNat 32 (fn l a' b' c d').1) ∧
    (a / 2 ^ 32 = a' / 2 ^ 32 → b / 2 ^ 32 = b' / 2 ^ 32 → BitVec.ofNat 32 ((fn l a b c d).1 / 2 ^ 32) = BitVec.ofNat 32 ((fn l a' b' c d').1 / 2 ^ 32)))

/-- The tags of both registers of a result fit its values. -/
theorem fits_result {s : State} {is : Issue} {o : VOps} (h : Issues s o.pred o.neg is) (f : Form) (fn : LaneFn) (hr : f.readsD = false)
    (hf : f.shape = none) (hfn : ∀ l k a b c d, fn l a b c d = fn k a b c d) (hrow : rowRight o f fn)
    (hh : f.halves = true → f.wide = true → f.wideA = true ∧ f.wideB = true ∧ splits fn) :
    resultFits is f.wide (resultShapes is o f) (fun l => (laneResult is o f fn l).1) := by
  have hone := fits_one h f fn hr hf hfn hrow
  unfold resultShapes
  dsimp only
  split
  · exact hone
  · rename_i hc
    simp only [Bool.or_eq_true, Bool.not_eq_true', not_or, Bool.not_eq_false] at hc
    obtain ⟨wa, wb, hsp⟩ := hh hc.1.1.1.1.1 hc.1.1.1.1.2
    have hval := fun (high : Bool) (hu : (halfTag is o.a high f.imm).isU = true ∧ (halfTag is o.b high f.imm).isU = true ∧ (opTag is o.c f.wideC f.imm).isU = true)
        (l : Nat) (hl : l ∈ is.gd.lanes is.g.width) (k : Nat) (hk : k ∈ is.gd.lanes is.g.width) =>
      have hl' := h.guarded_live ((Mask.mem_lanes _ _ _).1 hl).2
      have hk' := h.guarded_live ((Mask.mem_lanes _ _ _).1 hk).2
      (⟨halfValue_u h.pend o.a high f.imm hu.1 ⟨hl'.1, hl'.2.1⟩ ⟨hk'.1, hk'.2.1⟩, halfValue_u h.pend o.b high f.imm hu.2.1 ⟨hl'.1, hl'.2.1⟩ ⟨hk'.1, hk'.2.1⟩,
        opValue_u h.pend o.c f.wideC f.imm hu.2.2 ⟨hl'.1, hl'.2.1⟩ ⟨hk'.1, hk'.2.1⟩⟩ :
        (_ ∧ _ ∧ opValue is o.c f.wideC f.imm l = opValue is o.c f.wideC f.imm k))
    refine ⟨?_, fun _ => ?_⟩
    · dsimp only
      split
      · rename_i hu
        simp only [Bool.and_eq_true] at hu
        intro l hl k hk
        obtain ⟨ea, eb, ec⟩ := hval false ⟨hu.1.1, hu.1.2, hu.2⟩ l hl k hk
        simp only [lowWord, laneResult, hr, wa, wb, ec, hfn l k]
        exact (hsp _ _ _ _ _ _ _ _).1 ea eb
      · trivial
    · dsimp only
      split
      · rename_i hu
        simp only [Bool.and_eq_true] at hu
        intro l hl k hk
        obtain ⟨ea, eb, ec⟩ := hval true ⟨hu.1.1, hu.1.2, hu.2⟩ l hl k hk
        simp only [highWord, laneResult, hr, wa, wb, ec, hfn l k]
        exact (hsp _ _ _ _ _ _ _ _).2 ea eb
      · trivial

end Sys2Proof.Claims
end

