-- ==== Sys2Proof/Machine/Ordering.lean ====
section
/-! DEFINITION. Machine/Ordering: which values reads may return when the accesses of several agents meet (R344 to R357), over executions that are given whole. -/
namespace Sys2Proof.Machine

/-- The instances of the scopes that an agent belongs to (R346). An `engine` is one engine operation, or a run's sequencer with its combine units (R403): its accesses have no order among themselves but what its description fixes (R354), and each of them carries the rows of the whole operation. -/
structure Party where
  team : Option Nat := none
  pair : Option Nat := none
  device : Bool := true
  engine : Bool := false
  deriving DecidableEq, Repr, Inhabited

/-- What an event does. -/
inductive EvKind where
  | load | store | rmw | fence
  deriving DecidableEq, Repr, Inhabited

/-- What an event is in the rows of R348 other than those of classes and fences, each named by what the row's condition compares. -/
inductive SyncOp where
  /-- Completion of a counted operation; a `ccwait` that proceeds after these decrements (R323, R324). -/
  | complete (op : Nat)
  | counted (ops : List Nat)
  /-- Completion of a job; start of a job with edges from these (R321, R322). -/
  | jobDone (job : Nat)
  | jobStart (edges : List Nat)
  /-- A ready transition of a tile; issue of a reader on it (R278). -/
  | tileReady (tile n : Nat)
  | tileRead (tile n : Nat)
  /-- Arrival in a generation of a barrier; release from its completion, or a `barw` that proceeds (R335). `pair`: `barp`. -/
  | arrive (bar gen : Nat) (pair : Bool)
  | passBar (bar gen : Nat) (pair : Bool)
  /-- The push of an entry; the pop that returns it (R341). `pair`: of a pair team. -/
  | push (queue entry : Nat) (pair : Bool)
  | pop (queue entry : Nat) (pair : Bool)
  /-- A `topk` or `topm`, by its place in the list's order (R243). -/
  | onList (list n : Nat)
  /-- `cins` or `cinv`, and a `ctag` that hits, by their places in the core's tag order (R258). -/
  | tagSet (core n : Nat)
  | tagHit (core n : Nat)
  /-- A publication; the chain read that returns it (R355). -/
  | publish (item n : Nat)
  | chainRead (item n : Nat)
  /-- The host's write of a packet header, and whether it is a release or in arrival order; the fetcher's read that finds the slot valid (R141, R356). -/
  | header (queue packet : Nat) (ordered : Bool)
  | fetched (queue packet : Nat)
  /-- The dispatcher's read of a launch record; an item's first access in the launch (R159). -/
  | recordRead (launch : Nat)
  | firstAccess (launch : Nat)
  /-- An item's last access in a launch; the completion record, and the JOIN add after it (R145, R166). -/
  | lastAccess (launch : Nat)
  | launchDone (launch : Nat)
  /-- Completion of work of a packet; start of a packet with FENCE (R140). -/
  | workDone (queue packet : Nat)
  | fencedStart (queue packet : Nat)
  /-- The write of a completion record, a status word or a `ratom` reply (R139, R145, R269). -/
  | word
  /-- An access to the entry or the state of a stream, by the place of its operation in their order (R310). -/
  | onStream (stream n : Nat)
  /-- A plane operation at a sump word, by its place in the order the array accepted them in (R292). -/
  | onSump (word n : Nat)
  /-- An `ivopen`, `ivgo` or `ivclose` of a run; an access of the sequencer that is the next after it, or later (R403). -/
  | runAct (run n : Nat)
  | runNext (run n : Nat)
  /-- A combination's write before a stage launch, whose items' first accesses acquire it; the sequencer's accesses after that launch completed (R403). -/
  | combined (launch : Nat)
  | stageSeen (launch : Nat)
  /-- An arrival of a run at rest, with its write-back; an `ivwait`, `ivstat` or `ivq` that observes it (R403). -/
  | rest (run n : Nat)
  | seesRest (run n : Nat)
  deriving DecidableEq, Repr

/-- An event (R345): one single-copy-atomic access to these bytes, or a fence. `ops` are the rows of R348 it takes part in. `home` says that the bytes are in device memory, the cistern or a private window (R353). -/
structure Ev where
  agent : Nat
  kind : EvKind
  bytes : List Nat := []
  cls : Cls := .plain
  scope : Scope := .sy
  home : Bool := true
  ops : List SyncOp := []
  deriving DecidableEq, Repr

/-- An execution: the events, those of one agent in its program order; the sets of events of one access or instruction that no lane order is fixed for (R345, R347); for each read and byte the write it returns, `none` the initial value; for each byte its coherence order; the edges of R321; the order of the volatile accesses; and the pairs of accesses of one engine operation whose order its description fixes, such as a copied byte's read and the write of it (R317, R297). -/
structure Execution where
  parties : List Party
  events : List Ev
  units : List (List Nat) := []
  reads : List (Nat × Nat × Option Nat) := []
  order : List (Nat × List Nat) := []
  jobs : List (Nat × Nat) := []
  vols : List Nat := []
  fixed : List (Nat × Nat) := []
  deriving DecidableEq, Repr

/-- A relation over events: for each event the set of those it is related to, bit by bit. -/
abbrev EvRel := List Nat

namespace EvRel

/-- The relation that holds where `f` does, over `n` events. -/
def of (n : Nat) (f : Nat → Nat → Bool) : EvRel :=
  (List.range n).map (fun a => (List.range n).foldl (fun m b => if f a b then m ||| 2 ^ b else m) 0)

/-- It holds from `a` to `b`. -/
def has (r : EvRel) (a b : Nat) : Bool := (r.getD a 0).testBit b

/-- The union. -/
def or (r q : EvRel) : EvRel := List.zipWith (· ||| ·) r q

/-- `r ; q`. -/
def comp (r q : EvRel) : EvRel :=
  r.map (fun m => (List.range q.length).foldl (fun acc b => if m.testBit b then acc ||| q.getD b 0 else acc) 0)

/-- The transitive closure, one event after another as what lies between. -/
def plus (r : EvRel) : EvRel :=
  (List.range r.length).foldl (fun q k => q.map (fun m => if m.testBit k then m ||| q.getD k 0 else m)) r

/-- No event is related to itself. -/
def irreflexive (r : EvRel) : Bool := (List.range r.length).all (fun a => !r.has a a)

end EvRel

/-- The event's kind writes. -/
def Ev.writes (e : Ev) : Bool := e.kind == .store || e.kind == .rmw

/-- The event's kind reads. -/
def Ev.readsToo (e : Ev) : Bool := e.kind == .load || e.kind == .rmw

/-- A release (R250, R267). -/
def Ev.releases (e : Ev) : Bool := e.kind != .load && (e.cls == .rel || e.cls == .ar)

/-- An acquire (R250, R267). -/
def Ev.acquires (e : Ev) : Bool := e.kind != .store && (e.cls == .acq || e.cls == .ar)

/-- Agent `p`'s instance of the scope contains agent `q` (R346). -/
def Party.contains (p : Party) (sc : Scope) (q : Party) : Bool :=
  match sc with
  | .tm => p.team.isSome && p.team == q.team
  | .pr => p.pair.isSome && p.pair == q.pair
  | .dv => p.device && q.device
  | .sy => true

/-- R348, R310, R292, R403: a release and an acquire of one row whose condition holds. -/
def SyncOp.pairs : SyncOp → SyncOp → Bool
  | .complete o, .counted l => l.contains o
  | .jobDone j, .jobStart l => l.contains j
  | .tileReady t n, .tileRead u m => t == u && n == m
  | .arrive b n p, .passBar c m q => b == c && n == m && p == q
  | .push b n p, .pop c m q => b == c && n == m && p == q
  | .onList l n, .onList k m => l == k && n < m
  | .tagSet c n, .tagHit d m => c == d && n < m
  | .publish i n, .chainRead j m => i == j && n == m
  | .header q n ordered, .fetched r m => q == r && n == m && ordered
  | .recordRead l, .firstAccess k => l == k
  | .lastAccess l, .launchDone k => l == k
  | .workDone q n, .fencedStart r m => q == r && n < m
  | .onStream a n, .onStream b m => a == b && n < m
  | .onSump a n, .onSump b m => a == b && n < m
  | .runAct r n, .runNext q m => r == q && n ≤ m
  | .combined l, .firstAccess k => l == k
  | .lastAccess l, .stageSeen k => l == k
  | .rest r n, .seesRest q m => r == q && n == m
  | _, _ => false

/-- The scope at which a row's release and acquire act; `none` where the row's rule gives the narrowest that holds both, or none (R187, R140, R310, R292). -/
def SyncOp.scope : SyncOp → Option Scope
  | .complete _ | .counted _ | .jobDone _ | .jobStart _ | .tileReady _ _ | .tileRead _ _ | .onList _ _ => some .tm
  | .arrive _ _ p | .passBar _ _ p | .push _ _ p | .pop _ _ p => some (if p then .pr else .tm)
  | .tagSet _ _ | .tagHit _ _ => some .pr
  | .publish _ _ | .chainRead _ _ | .workDone _ _ | .fencedStart _ _ | .onStream _ _ | .onSump _ _ => none
  | .runAct _ _ | .runNext _ _ | .combined _ | .stageSeen _ | .rest _ _ | .seesRest _ _ => some .dv
  | .header _ _ _ | .fetched _ _ | .recordRead _ | .firstAccess _ | .lastAccess _ | .launchDone _ | .word => some .sy

/-- R249, R345: the bytes of one event are one single-copy-atomic granule: aligned, up to 8 bytes, or 16 in the cistern or device memory, or a packet's 64 (R141). -/
def Ev.granule (e : Ev) : Bool :=
  let n := e.bytes.length
  let a := e.bytes.headD 0
  n == 0 || (e.bytes == (List.range n).map (a + ·) && a % n == 0 && ([1, 2, 4, 8, 64].contains n || (n == 16 && e.home)))

namespace Execution

/-- Event `a`. -/
def ev (x : Execution) (a : Nat) : Ev := x.events.getD a { agent := 0, kind := .fence }

/-- The number of events. -/
def size (x : Execution) : Nat := x.events.length

/-- The agent of an event. -/
def party (x : Execution) (a : Nat) : Party := x.parties.getD (x.ev a).agent {}

/-- What read `r` returns in a byte: `none` where it does not read it, `some none` the initial value. -/
def returned (x : Execution) (r byte : Nat) : Option (Option Nat) :=
  (x.reads.find? (fun t => t.1 == r && t.2.1 == byte)).map (fun t => t.2.2)

/-- The coherence order of a byte. -/
def orderOf (x : Execution) (byte : Nat) : List Nat := ((x.order.find? (fun t => t.1 == byte)).map (fun t => t.2)).getD []

/-- `a` comes before `b` in a list. -/
def before (l : List Nat) (a b : Nat) : Bool := l.contains a && (l.dropWhile (· != a)).tail.contains b

/-- po (R347): the order of an agent's events, but none within a unit, and of an engine operation's events only what is fixed (R354). -/
def po (x : Execution) : EvRel :=
  .of x.size (fun a b => (x.ev a).agent == (x.ev b).agent && a < b && (!(x.party a).engine || x.fixed.contains (a, b)) && !x.units.any (fun u => u.contains a && u.contains b))

/-- rf (R347). -/
def rf (x : Execution) : EvRel := .of x.size (fun a b => (x.ev b).bytes.any (fun y => x.returned b y == some (some a)))

/-- co (R347). -/
def co (x : Execution) : EvRel := .of x.size (fun a b => (x.ev a).bytes.any (fun y => before (x.orderOf y) a b))

/-- fr (R347); every write follows the initial one. -/
def fr (x : Execution) : EvRel :=
  .of x.size (fun a b => a != b && (x.ev a).bytes.any (fun y => match x.returned a y with
    | none => false
    | some none => (x.orderOf y).contains b
    | some (some w) => before (x.orderOf y) w b))

/-- eco (R347). -/
def eco (x : Execution) : EvRel := ((x.rf.or x.co).or x.fr).plus

/-- Read `b` returns, in some byte, the value of `a` or of a chain of read-modify-writes that follows it, of at most `fuel` links. -/
def readsFrom (x : Execution) (a : Nat) : Nat → Nat → Bool
  | 0, b => x.rf.has a b
  | fuel + 1, b => x.rf.has a b || (List.range x.size).any (fun w => (x.ev w).kind == .rmw && x.rf.has w b && x.readsFrom a fuel w)

/-- The two events are a release and an acquire that R348's rows of classes and fences pair. -/
def paired (x : Execution) (a b : Nat) : Bool :=
  let ws := if (x.ev a).kind == .fence then (List.range x.size).filter (fun w => x.po.has a w && (x.ev w).writes) else [a]
  let rs := if (x.ev b).kind == .fence then (List.range x.size).filter (fun r => x.po.has r b && (x.ev r).readsToo) else [b]
  let fuel := if (x.ev a).kind == .fence && (x.ev b).kind == .fence then 0 else x.size
  (x.ev a).releases && (x.ev b).acquires && a != b && ws.any (fun w => rs.any (fun r => x.readsFrom w fuel r))

/-- The scope of a release contains the acquiring agent and that of the acquire the releasing one (R352). -/
def included (x : Execution) (a b : Nat) (sa sb : Scope) : Bool := (x.party a).contains sa (x.party b) && (x.party b).contains sb (x.party a)

/-- The two events are a release and an acquire of another row of R348, and R352 holds. A word's acquire is an access with a class and a scope of its own. -/
def rowPaired (x : Execution) (a b : Nat) : Bool :=
  (x.ev a).ops.any (fun p =>
    (p == .word && (x.ev b).acquires && a != b && x.readsFrom a x.size b && x.included a b .sy (x.ev b).scope) ||
      (x.ev b).ops.any (fun q => p.pairs q && (match p.scope with
        | none => true
        | some sc => x.included a b sc sc)))

/-- sw (R347, R348, R352). -/
def sw (x : Execution) : EvRel :=
  .of x.size (fun a b => (x.paired a b && x.included a b (x.ev a).scope (x.ev b).scope) || x.rowPaired a b)

/-- hb (R347). -/
def hb (x : Execution) : EvRel := ((x.po.or x.sw).or (.of x.size (fun a b => x.jobs.contains (a, b)))).plus

/-- cause (R347). -/
def cause (x : Execution) : EvRel := (x.po.or x.rf).plus

/-- Each event is one granule (R345); each byte's order lists its writes, each once (R349); each read returns, in each of its bytes, a write of that byte. -/
def wellFormed (x : Execution) : Bool :=
  let ids := List.range x.size
  let bytes := (x.events.flatMap (fun e => e.bytes)).eraseDups
  x.events.all Ev.granule && bytes.all (fun y =>
    (x.orderOf y).eraseDups.length == (x.orderOf y).length &&
    ids.all (fun a => ((x.ev a).writes && (x.ev a).bytes.contains y) == (x.orderOf y).contains a)) &&
  ids.all (fun r => (x.ev r).bytes.all (fun y => match x.returned r y with
    | none => !(x.ev r).readsToo
    | some none => (x.ev r).readsToo
    | some (some w) => (x.ev r).readsToo && w != r && (x.orderOf y).contains w))

/-- R349. -/
def coherence (x : Execution) : Bool := x.eco.irreflexive && (x.hb.comp x.eco).irreflexive

/-- R350: a read-modify-write reads the write just before its own, the initial one where none is. -/
def atomicity (x : Execution) : Bool :=
  (List.range x.size).all (fun a => (x.ev a).kind != .rmw || (x.ev a).bytes.all (fun y =>
    x.returned a y == some (((x.orderOf y).takeWhile (· != a)).getLast?)))

/-- R351. -/
def causality (x : Execution) : Bool := x.cause.irreflexive

/-- The accesses that vo orders (R353). -/
def inVo (x : Execution) (a : Nat) : Bool := (x.ev a).cls == .vol && (x.ev a).home

/-- R353: `vols` lists them all, each once, contains po, agrees with co, and each load returns the last volatile write before it or one that follows that in co; a volatile write it returns comes before it in the order (DEDUCED from the verdicts of R361 and R365, log 61). -/
def volatility (x : Execution) : Bool :=
  x.vols.eraseDups.length == x.vols.length &&
  (List.range x.size).all (fun a => x.inVo a == x.vols.contains a) &&
  x.vols.all (fun a => x.vols.all (fun b =>
    (!x.po.has a b || before x.vols a b) &&
    (!(x.co.has a b) || before x.vols a b))) &&
  x.vols.all (fun r => (x.ev r).kind != .load || (x.ev r).bytes.all (fun y =>
    (match x.returned r y with
      | some (some w) => !x.inVo w || before x.vols w r
      | _ => true) &&
    match ((x.vols.takeWhile (· != r)).filter (fun w => (x.orderOf y).contains w)).getLast? with
    | none => true
    | some w => match x.returned r y with
      | some (some w') => w' == w || before (x.orderOf y) w w'
      | _ => false))

/-- The execution is one that R349 to R353 permit. -/
def permitted (x : Execution) : Bool :=
  x.wellFormed && x.volatility && x.atomicity && x.causality && x.coherence

/-- Two events conflict (R357). -/
def conflict (x : Execution) (a b : Nat) : Bool :=
  a != b && (x.ev a).bytes.any (fun y => (x.ev b).bytes.contains y) && ((x.ev a).writes || (x.ev b).writes) &&
  !((x.ev a).kind == .rmw && (x.ev b).kind == .rmw) && !((x.ev a).cls == .vol && (x.ev b).cls == .vol)

/-- Two events form a race (R357). -/
def race (x : Execution) (a b : Nat) : Bool := x.conflict a b && !x.hb.has a b && !x.hb.has b a

/-- R357: what a racy read may return in a byte, `none` the initial value. -/
def mayReturn (x : Execution) (r byte : Nat) (w : Option Nat) : Bool :=
  let later := match w with
    | none => x.orderOf byte
    | some w => (x.orderOf byte).filter (fun a => before (x.orderOf byte) w a)
  (match w with | none => true | some w => !x.hb.has r w) && later.all (fun a => !x.hb.has a r)

end Execution

end Sys2Proof.Machine
end

