-- ==== Sys2Proof/Safety.lean ====
section
/-! DEFINITION. Safety: what counts as a safe run: every state reached keeps its memory in canonical form, and no step stops. -/
namespace Sys2Proof.Machine

/-- The memory is in its canonical form. -/
def State.memoryOk (s : State) : Prop := Memory.wf s.mem = true

/-- A step that goes on. -/
def State.goesOn (s : State) : Prop := ∃ t, step s = .next t

/-- A run of `n` steps that stays safe. -/
def SafeRun : Nat → State → Prop
  | 0, s => s.memoryOk
  | n + 1, s => s.memoryOk ∧ ∃ t, step s = .next t ∧ SafeRun n t

end Sys2Proof.Machine
end

