-- ==== Sys2Proof/Tests/Litmus.lean ====
section
/-! SUPPORT. Tests/Litmus: the catalogue of R358 to R367 against the definitions of Machine/Ordering; every verdict is the manual's. -/

set_option Elab.async false

namespace Sys2Proof.Tests.Litmus
open Sys2Proof.Machine

/-- A 32-bit load, store or read-modify-write of a word, and a fence. -/
def ld (agent w : Nat) (cls : Cls := .plain) (scope : Scope := .dv) : Ev := { agent, kind := .load, bytes := [w], cls, scope }
def st (agent w : Nat) (cls : Cls := .plain) (scope : Scope := .dv) : Ev := { agent, kind := .store, bytes := [w], cls, scope }
def rmw (agent w : Nat) (cls : Cls) (scope : Scope := .dv) : Ev := { agent, kind := .rmw, bytes := [w], cls, scope }
def fence (agent : Nat) (cls : Cls) (scope : Scope := .dv) : Ev := { agent, kind := .fence, cls, scope }

/-- Items of four groups of different teams on different dies. -/
def apart : List Party := (List.range 4).map (fun n => { team := some n, pair := some n })

/-- Every way to put `a` into a list. -/
def inserts (a : Nat) : List Nat → List (List Nat)
  | [] => [[a]]
  | b :: r => (a :: b :: r) :: (inserts a r).map (fun l => b :: l)

/-- Every order of a list. -/
def orders : List Nat → List (List Nat)
  | [] => [[]]
  | a :: r => (orders r).flatMap (inserts a)

/-- The orders of the volatile accesses that keep each agent's. -/
def volOrders (x : Execution) : List (List Nat) :=
  (orders ((List.range x.size).filter x.inVo)).filter (fun l => l.all (fun a => l.all (fun b =>
    !((x.ev a).agent == (x.ev b).agent && a < b) || Execution.before l a b)))

/-- Some coherence order and some order of the volatile accesses make the execution one that is permitted: words 0, 1 and 2 are x, y and z. -/
def possible (x : Execution) : Bool :=
  let ws := fun (y : Nat) => orders ((List.range x.size).filter (fun a => (x.ev a).writes && (x.ev a).bytes.contains y))
  (volOrders x).any (fun vols => (ws 0).any (fun a => (ws 1).any (fun b => (ws 2).any (fun c =>
    { x with order := [(0, a), (1, b), (2, c)], vols }.permitted))))

/-- R358: v2 = 1 and v3 = 0. -/
def mp (c d : Cls) : Execution :=
  { parties := apart, events := [st 0 0, st 0 1 c, ld 1 1 d, ld 1 0], reads := [(2, 1, some 1), (3, 0, none)] }

theorem litmus_mp : possible (mp .rel .acq) = false ∧ possible (mp .plain .acq) = true ∧ possible (mp .rel .plain) = true := by decide +kernel

/-- R359: v2 = 0 and v3 = 0. -/
def sb (w r : Cls) : Execution :=
  { parties := apart, events := [st 0 0 w, ld 0 1 r, st 1 1 w, ld 1 0 r], reads := [(1, 1, none), (3, 0, none)] }
def sbFence : Execution :=
  { parties := apart, events := [st 0 0, fence 0 .ar, ld 0 1, st 1 1, fence 1 .ar, ld 1 0], reads := [(2, 1, none), (5, 0, none)] }
def sbAtom (first second : Option Nat) : Execution :=
  { parties := apart, events := [st 0 0, rmw 0 2 .ar, ld 0 1, st 1 1, rmw 1 2 .ar, ld 1 0]
    reads := [(2, 1, none), (5, 0, none), (1, 2, first), (4, 2, second)] }

theorem litmus_sb : possible (sb .plain .plain) = true ∧ possible (sb .rel .acq) = true ∧ possible sbFence = true ∧
    possible (sbAtom none (some 1)) = false ∧ possible (sbAtom (some 4) none) = false ∧ possible (sbAtom none none) = false ∧
    possible (sb .vol .vol) = false := by decide +kernel

/-- R360: v2 = 1 and v3 = 1. -/
def lb (r w : Cls) : Execution :=
  { parties := apart, events := [ld 0 0 r, st 0 1 w, ld 1 1 r, st 1 0 w], reads := [(0, 0, some 3), (2, 1, some 1)] }

theorem litmus_lb : possible (lb .plain .plain) = false ∧ possible (lb .acq .rel) = false := by decide +kernel

/-- R361: v2 = 1, v3 = 0, v4 = 1, v5 = 0. -/
def iriw (w r : Cls) : Execution :=
  { parties := apart, events := [st 0 0 w, st 1 1 w, ld 2 0 r, ld 2 1 r, ld 3 1 r, ld 3 0 r]
    reads := [(2, 0, some 0), (3, 1, none), (4, 1, some 1), (5, 0, none)] }

theorem litmus_iriw : possible (iriw .plain .acq) = true ∧ possible (iriw .vol .vol) = false := by decide +kernel

/-- R362: v2 = 1, v3 = 1, v4 = 0. -/
def wrc (w : Cls) : Execution :=
  { parties := apart, events := [st 0 0, ld 1 0, st 1 1 w, ld 2 1 .acq, ld 2 0]
    reads := [(1, 0, some 0), (3, 1, some 2), (4, 0, none)] }

theorem litmus_wrc : possible (wrc .rel) = false ∧ possible (wrc .plain) = true := by decide +kernel

/-- R363: x = 1 and y = 1: each group's first store is the last in its word. -/
def twoTwo (w1 w2 : Cls) (vols : List Nat) : Execution :=
  { parties := apart, events := [st 0 0 w1, st 0 1 w2, st 1 1 w1, st 1 0 w2], order := [(0, [3, 0]), (1, [1, 2])], vols }

theorem litmus_two_two : (twoTwo .plain .rel []).permitted = true ∧ (twoTwo .plain .plain []).permitted = true ∧
    (orders [0, 1, 2, 3]).any (fun l => (twoTwo .vol .vol l).permitted) = false := by decide +kernel

/-- R364: v2 = 1 and v3 = 0. -/
def scopes (s1 s2 : Scope) (parties : List Party) : Execution :=
  { parties, events := [st 0 0, st 0 1 .rel s1, ld 1 1 .acq s2, ld 1 0], reads := [(2, 1, some 1), (3, 0, none)] }

theorem litmus_scopes :
    possible (scopes .tm .tm [{ team := some 0, pair := some 0 }, { team := some 0, pair := some 0 }]) = false ∧
    possible (scopes .tm .tm [{ team := some 0, pair := some 0 }, { team := some 1, pair := some 0 }]) = true ∧
    possible (scopes .pr .dv [{ team := some 0, pair := some 0 }, { team := some 1, pair := some 0 }]) = false ∧
    possible (scopes .pr .dv [{ team := some 0, pair := some 0 }, { team := some 1, pair := some 1 }]) = true := by decide +kernel

/-- R365: v2 = 1 and v3 = 0. -/
def vol (c1 c2 c3 : Cls) : Execution :=
  { parties := apart, events := [st 0 0 c1, st 0 1 .vol, ld 1 1 c2, ld 1 0 c3], reads := [(2, 1, some 1), (3, 0, none)] }

theorem litmus_vol : possible (vol .plain .vol .plain) = true ∧ possible (vol .vol .vol .vol) = false := by decide +kernel

/-- R366: job 1 writes the cistern word, job 2 reads it; with the job edge it cannot read the initial value, without it it can. -/
def jobs (edges : List (Nat × Nat)) : Execution :=
  { parties := [{ team := some 0, engine := true }, { team := some 0, engine := true }]
    events := [st 0 0, ld 1 0], reads := [(1, 0, none)], jobs := edges }

theorem litmus_jobs : possible (jobs [(0, 1)]) = false ∧ possible (jobs []) = true := by decide +kernel

/-- R367: an item stores and publishes, the next reads the chain and then the slot; with the chain's edge it cannot see the slot's initial value, and past a transparent item it can. -/
def chain (read : SyncOp) : Execution :=
  { parties := apart
    events := [st 0 0, { fence 0 .plain with ops := [.publish 5 0] }, { fence 1 .plain with ops := [read] }, ld 1 0], reads := [(3, 0, none)] }

theorem litmus_chain : possible (chain (.chainRead 5 0)) = false ∧ possible (chain (.chainRead 4 0)) = true := by decide +kernel

/-- R368: the fetcher finds the header valid and an old body byte; the header is written in arrival order, or with no order. -/
def packet (ordered : Bool) : Execution :=
  { parties := [{ device := false }, {}]
    events := [st 0 0, { st 0 1 with ops := [.header 0 0 ordered] }, { ld 1 1 with ops := [.fetched 0 0] }, ld 1 0]
    reads := [(2, 1, some 1), (3, 0, none)] }

theorem litmus_packet : possible (packet true) = false ∧ possible (packet false) = true := by decide +kernel

/-- R345: a pair of loads of one instruction has no order of its own. -/
def pairOfLoads (units : List (List Nat)) : Execution :=
  { parties := apart, events := [st 0 0, st 0 1 .rel, ld 1 1 .acq, ld 1 0], units, reads := [(2, 1, some 1), (3, 0, none)] }

theorem litmus_units : possible (pairOfLoads []) = false ∧ possible (pairOfLoads [[2, 3]]) = true := by decide +kernel

/-- R352: a completion record is read by an acquire whose scope holds the device's agents or does not. -/
def record (sc : Scope) : Execution :=
  { parties := [{}, { team := some 0, pair := some 0 }]
    events := [st 0 0, { st 0 1 with ops := [.word] }, ld 1 1 .acq sc, ld 1 0], reads := [(2, 1, some 1), (3, 0, none)] }

theorem litmus_record : possible (record .sy) = false ∧ possible (record .tm) = true := by decide +kernel

/-- R403: an item stores into y and issues `ivgo`; staging(1) cannot read the initial y, as it could without the edge. -/
def staging (ops : List SyncOp) : Execution :=
  { parties := [{ team := some 0, pair := some 0 }, { engine := true }]
    events := [st 0 0, { fence 0 .plain with ops := [.runAct 0 0] }, { ld 1 0 with ops }], reads := [(2, 0, none)] }

theorem litmus_staging : possible (staging [.runNext 0 0]) = false ∧ possible (staging []) = true := by decide +kernel

/-- R317, R351, R354: a job copies x to y, and an item that loads 1 from y stores it to x: no value comes of itself. -/
def copied (fixed : List (Nat × Nat)) : Execution :=
  { parties := [{ team := some 0, engine := true }, { team := some 0 }]
    events := [ld 0 0, st 0 1, ld 1 1, st 1 0], reads := [(0, 0, some 3), (2, 1, some 1)], fixed }

theorem litmus_copied : possible (copied [(0, 1)]) = false ∧ possible (copied []) = true := by decide +kernel

/-- R310: of two operations on one stream the later reads what the earlier wrote. -/
def streams (a b : SyncOp) : Execution :=
  { parties := [{ team := some 0, engine := true }, { team := some 1, engine := true }]
    events := [{ st 0 0 with ops := [a] }, { ld 1 0 with ops := [b] }], reads := [(1, 0, none)] }

theorem litmus_streams : possible (streams (.onStream 7 0) (.onStream 7 1)) = false ∧ possible (streams (.onStream 7 0) (.onStream 6 1)) = true := by decide +kernel

/-- R271, R366, R457: an item stores 1 and then issues a job that reads the byte, with no tile of the job's that the store reached; the job reads the old byte or the new one. With a ready tile the old one is forbidden. -/
def planeRead (tile : Bool) (w : Option Nat) : Execution :=
  { parties := [{ team := some 0, pair := some 0 }, { team := some 0, pair := some 0, engine := true }]
    events := [st 0 0, { fence 0 .plain with ops := if tile then [.tileReady 2 0] else [] }, { ld 1 0 with ops := [.tileRead 2 0, .complete 1] }]
    reads := [(2, 0, w)] }

theorem litmus_plane_read : possible (planeRead false none) = true ∧ possible (planeRead false (some 0)) = true ∧
    possible (planeRead true none) = false ∧ possible (planeRead true (some 0)) = true := by decide +kernel

end Sys2Proof.Tests.Litmus
end

