-- ==== Sys2Proof/Tests/Slice0.lean ====
section
/-! SUPPORT. Tests/Slice0: words written from the manual's field tables decode to their instructions, and each encoding check refuses an ill-formed term or word. -/

set_option Elab.async false

namespace Sys2Proof.Tests

/-- A slot from its three printed words. -/
def slot (lo mid hi : Nat) : Nat := lo + 2 ^ 32 * mid + 2 ^ 64 * hi

/-- R76: major, minor and look. -/
def head (major minor look : Nat) : Nat := major <<< 88 ||| look <<< 84 ||| minor <<< 78

/-! Words the manual prints. -/
theorem test_decode_movi : decodeTableWord 96 (slot 0x00000005 0xc0400000 0x1100007f) =
    some (.movi { d := .v 1, a := .none, pred := 0, neg := false, ty := .i32, imm := 5 }) := by decide +kernel
theorem test_decode_call : decodeTableWord 96 (slot 0x00000024 0x00000000 0x010083fc) =
    some (.call { pred := 0, neg := false, treg := .none, disp := 36 }) := by decide +kernel
theorem test_decode_exit : decodeTableWord 96 (slot 0 0 0x010143fc) =
    some (.exit { pred := 0, neg := false, treg := .none, disp := 0 }) := by decide +kernel
theorem test_decode_add : decodeTableWord 96 (slot 0x10000000 0x407fc000 0x10000040) =
    some (.add { look := 0, d := .v 1, a := .v 1, b := .v 1, c := .none, ka := 0, kb := 0, kc := 0, pub := false,
                 pred := 0, neg := false, ty := .i32, rnd := .rn, sat := false, imm := 0 }) := by decide +kernel
/-- The `cmp` word printed after R229. -/
theorem test_decode_cmp : decodeTableWord 96 (slot 0x18000008 0x7fffc000 0x10063040) =
    some (.cmp { look := 0, d := .p 1, a := .v 1, b := .none, c := .none, ka := 0, kb := 0, kc := 0, pub := false,
                 pred := 0, neg := false, ty := .i32, rnd := .rd, sat := false, imm := 8 }) := by decide +kernel
/-- The `ld` word printed after R256. -/
theorem test_decode_ld : decodeTableWord 96 (slot 0x00000010 0x00904a00 0x40000122) =
    some (.ld { look := 0, d := .v 4, base := .s 8, index := .v 2, scale := 2, space := .generic, size := .b32, cls := .acq,
                scope := .dv, pred := 0, neg := false, aop := 0, off := 16 }) := by decide +kernel
/-- The `tld` word printed in "Tiles". -/
theorem test_decode_tld : decodeTableWord 96 (slot 0x00002010 0xc0bfffc0 0x50010100) =
    some (.tld { look := 0, d := 4, a := 3, b := 2, c := 255, e := 255, cnt := 0, pred := 0, neg := false, ctl := 0x2010 }) := by
  decide +kernel
/-- The `mma` word printed in "The matrix engine". -/
theorem test_decode_mma : decodeTableWord 96 (slot 0x00000177 0x00428300 0x58000080) =
    some (.mma { look := 0, d := 2, a := 0, b := 1, c := 10, e := 12, cnt := 0, pred := 0, neg := false, ctl := 0x177 }) := by
  decide +kernel
theorem test_decode_cpy : decodeTableWord 96 (slot 0 0xbfffffc0 0x60003fe2) =
    some (.cpy { look := 0, d := 255, a := 0x8a, b := 255, c := 255, e := 255, cnt := 0, pred := 0, neg := false, ctl := 0 }) := by
  decide +kernel
theorem test_decode_ccwait : decodeTableWord 96 (slot 2 0xffffffc0 0x6000ffff) =
    some (.ccwait { look := 0, d := 255, a := 255, b := 255, c := 255, e := 255, cnt := 0, pred := 0, neg := false, ctl := 2 }) := by
  decide +kernel
theorem test_decode_qbeq : decodeTableWord 32 0x80840003 = some (.qbeq { ra := 2, rb := 1, disp := 3 }) := by decide +kernel
theorem test_decode_spawn : decodeTableWord 32 0x0002950b = some (.spawn 10 5) := by decide +kernel

/-! Words written field by field. -/
/-- Format S, minor 1, code 0x1234 under (!p2). -/
theorem test_decode_trap : decodeTableWord 96 (head 0x00 1 0 ||| 0xff <<< 70 ||| 0xff <<< 62 ||| 2 <<< 59 ||| 1 <<< 58 ||| 0x1234) =
    some (.trap { d := .none, a := .none, pred := 2, neg := true, imm := 0x1234 }) := by decide +kernel
/-- Format S, minor 3, destination s4, offset -8. -/
theorem test_decode_rsp : decodeTableWord 96 (head 0x00 3 0 ||| 0x84 <<< 70 ||| 0xff <<< 62 ||| 0xfffffffffff8) =
    some (.rsp { d := .s 4, a := .none, pred := 0, neg := false, imm := 0xfffffffffff8 }) := by decide +kernel
/-- Format B, minor 1, target v6 + 12 under p1. -/
theorem test_decode_brx : decodeTableWord 96 (head 0x01 1 0 ||| 1 <<< 75 ||| 0x06 <<< 66 ||| 12) =
    some (.brx { pred := 1, neg := false, treg := .v 6, disp := 12 }) := by decide +kernel
/-- Major 0x02, minor 3: `jget.dep s5, j2`. -/
theorem test_decode_jget : decodeTableWord 96 (head 0x02 3 0 ||| 0x85 <<< 70 ||| 0xca <<< 62 ||| 0xff <<< 54 ||| 0xff <<< 46 ||| 2) =
    some (.jget { look := 0, d := .s 5, a := .j 2, b := .none, c := .none, ka := 0, kb := 0, kc := 0, pub := false, pred := 0, neg := false, ty := .b32, rnd := .rn, sat := false, imm := 2 }) := by decide +kernel
/-- Major 0x03, minor 2: `shfl.down v3, v4, s1`. -/
theorem test_decode_shfl : decodeTableWord 96 (head 0x03 2 0 ||| 0x03 <<< 70 ||| 0x04 <<< 62 ||| 0x81 <<< 54 ||| 0xff <<< 46 ||| 2) =
    some (.shfl { look := 0, d := .v 3, a := .v 4, b := .s 1, c := .none, ka := 0, kb := 0, kc := 0, pub := false, pred := 0, neg := false, ty := .b32, rnd := .rn, sat := false, imm := 2 }) := by decide +kernel
/-- Major 0x10, minor 4, type n32, chain distances 1, 2 and 3, published. -/
theorem test_decode_mad : decodeTableWord 96 (head 0x10 4 0 ||| 0x30 <<< 70 ||| 0x31 <<< 62 ||| 0x32 <<< 54 ||| 0x33 <<< 46 ||| 1 <<< 43 ||| 2 <<< 40 ||| 3 <<< 37 ||| 1 <<< 36 ||| 2 <<< 28) =
    some (.mad { look := 0, d := .v 48, a := .v 49, b := .v 50, c := .v 51, ka := 1, kb := 2, kc := 3, pub := true, pred := 0, neg := false, ty := .n32, rnd := .rn, sat := false, imm := 0 }) := by decide +kernel
/-- Major 0x10, minor 23, the third source an immediate. -/
theorem test_decode_bfi : decodeTableWord 96 (head 0x10 23 0 ||| 0x07 <<< 70 ||| 0x08 <<< 62 ||| 0x09 <<< 54 ||| 0xff <<< 46 ||| 0x105) =
    some (.bfi { look := 0, d := .v 7, a := .v 8, b := .v 9, c := .none, ka := 0, kb := 0, kc := 0, pub := false, pred := 0, neg := false, ty := .b32, rnd := .rn, sat := false, imm := 0x105 }) := by decide +kernel
/-- Major 0x20, minor 3, type bf16x2, rounding 3, saturating, under (!p7). -/
theorem test_decode_fma : decodeTableWord 96 (head 0x20 3 0 ||| 0x01 <<< 70 ||| 0x02 <<< 62 ||| 0x80 <<< 54 ||| 0x03 <<< 46 ||| 7 <<< 33 ||| 1 <<< 32 ||| 6 <<< 28 ||| 3 <<< 26 ||| 1 <<< 25) =
    some (.fma { look := 0, d := .v 1, a := .v 2, b := .s 0, c := .v 3, ka := 0, kb := 0, kc := 0, pub := false, pred := 7, neg := true, ty := .bf16x2, rnd := .ru, sat := true, imm := 0 }) := by decide +kernel
/-- Major 0x30, minor 0: from f32 (5) to e4m3x4 (8), the second slice of four. -/
theorem test_decode_cvt : decodeTableWord 96 (head 0x30 0 0 ||| 0x01 <<< 70 ||| 0x02 <<< 62 ||| 0x03 <<< 54 ||| 0xff <<< 46 ||| 8 <<< 28 ||| 1 <<< 4 ||| 5) =
    some (.cvt { look := 0, d := .v 1, a := .v 2, b := .v 3, c := .none, ka := 0, kb := 0, kc := 0, pub := false, pred := 0, neg := false, ty := .e4m3x4, rnd := .rn, sat := false, imm := 0x15 }) := by decide +kernel
/-- Major 0x30, minor 0: the plane form of R231, 8 planes. -/
theorem test_decode_cvtPlane : decodeTableWord 96 (head 0x30 0 0 ||| 0x01 <<< 70 ||| 0x02 <<< 62 ||| 0xff <<< 54 ||| 0xff <<< 46 ||| 8 <<< 6 ||| 5) =
    some (.cvtPlane { look := 0, d := .v 1, a := .v 2, b := .none, c := .none, ka := 0, kb := 0, kc := 0, pub := false, pred := 0, neg := false, ty := .b32, rnd := .rn, sat := false, imm := 0x205 }) := by decide +kernel
/-- Major 0x38, minor 1: `topk v1, v2, s3`. -/
theorem test_decode_topk : decodeTableWord 96 (head 0x38 1 0 ||| 0xff <<< 70 ||| 0x01 <<< 62 ||| 0x02 <<< 54 ||| 0x83 <<< 46 ||| 5 <<< 28) =
    some (.topk { look := 0, d := .none, a := .v 1, b := .v 2, c := .s 3, ka := 0, kb := 0, kc := 0, pub := false, pred := 0, neg := false, ty := .f32, rnd := .rn, sat := false, imm := 0 }) := by decide +kernel
/-- Major 0x41, minor 0, lookahead 3. -/
theorem test_decode_ctag : decodeTableWord 96 (head 0x41 0 3 ||| 0x05 <<< 70 ||| 0x86 <<< 62 ||| 0x07 <<< 54 ||| 3 <<< 51 ||| 1 <<< 48) =
    some (.ctag { look := 3, d := .v 5, base := .s 6, index := .v 7, scale := 3, space := .global, size := .b8, cls := .plain, scope := .tm, pred := 0, neg := false, aop := 0, off := 0 }) := by decide +kernel
/-- Major 0x42, minor 0, size 64 bits. -/
theorem test_decode_halloc : decodeTableWord 96 (head 0x42 0 0 ||| 0x06 <<< 70 ||| 0x80 <<< 62 ||| 0xff <<< 54 ||| 3 <<< 45) =
    some (.halloc { look := 0, d := .v 6, base := .s 0, index := .none, scale := 0, space := .generic, size := .b64, cls := .plain, scope := .tm, pred := 0, neg := false, aop := 0, off := 0 }) := by decide +kernel
/-- Major 0x48, minor 0, aop 9, acq-rel at pair scope in cistern space, offset -4. -/
theorem test_decode_atom : decodeTableWord 96 (head 0x48 0 0 ||| 0x05 <<< 70 ||| 0xff <<< 62 ||| 0x07 <<< 54 ||| 2 <<< 48 ||| 2 <<< 45 ||| 4 <<< 42 ||| 1 <<< 40 ||| 9 <<< 32 ||| 0xfffffffc) =
    some (.atom { look := 0, d := .v 5, base := .none, index := .v 7, scale := 0, space := .cistern, size := .b32, cls := .ar, scope := .pr, pred := 0, neg := false, aop := 9, off := 0xfffffffc }) := by decide +kernel
/-- Major 0x60, minor 1: identifiers 9 and 255, factors at s4, tile 200, counter 11. -/
theorem test_decode_plane : decodeTableWord 96 (head 0x60 1 0 ||| 9 <<< 70 ||| 255 <<< 62 ||| 0x84 <<< 54 ||| 200 <<< 46 ||| 0xff <<< 38 ||| 11 <<< 34 ||| 3) =
    some (.plane { look := 0, d := 9, a := 255, b := 0x84, c := 200, e := 255, cnt := 11, pred := 0, neg := false, ctl := 3 }) := by decide +kernel
/-- Major 0x68, minor 4: capacity 256, queue 5. -/
theorem test_decode_qcfg : decodeTableWord 96 (head 0x68 4 0 ||| 0xff <<< 70 ||| 0x83 <<< 62 ||| 0xff <<< 54 ||| 0xff <<< 46 ||| 0xff <<< 38 ||| 256 <<< 4 ||| 5) =
    some (.qcfg { look := 0, d := 255, a := 0x83, b := 255, c := 255, e := 255, cnt := 0, pred := 0, neg := false, ctl := 0x1005 }) := by decide +kernel
/-- Major 0x70, minor 3, under (!p3). -/
theorem test_decode_ivq : decodeTableWord 96 (head 0x70 3 0 ||| 0x02 <<< 70 ||| 0x84 <<< 62 ||| 0x05 <<< 54 ||| 0x06 <<< 46 ||| 0xff <<< 38 ||| 3 <<< 31 ||| 1 <<< 30) =
    some (.ivq { look := 0, d := 2, a := 0x84, b := 5, c := 6, e := 255, cnt := 0, pred := 3, neg := true, ctl := 0 }) := by decide +kernel
/-- R149 format A, op 0x04. -/
theorem test_decode_qsub : decodeTableWord 32 (0x04 <<< 26 ||| 3 <<< 22 ||| 4 <<< 18 ||| 5 <<< 14) =
    some (.qsub { rd := 3, ra := 4, rb := 5 }) := by decide +kernel
/-- R149 format K, op 0x02. -/
theorem test_decode_qlis : decodeTableWord 32 (0x02 <<< 26 ||| 15 <<< 22 ||| 14 <<< 18 ||| 0x2abcd) =
    some (.qlis { rd := 15, ra := 14, imm := 0x2abcd }) := by decide +kernel
/-- R149 format M, op 0x19: window 6, 32 bits, offset -8. -/
theorem test_decode_qst : decodeTableWord 32 (0x19 <<< 26 ||| 1 <<< 22 ||| 2 <<< 18 ||| 6 <<< 15 ||| 2 <<< 13 ||| 0x1ff8) =
    some (.qst { rd := 1, ra := 2, win := 6, size := 2, off := 0x1ff8 }) := by decide +kernel

/-! Each encoding check refuses a term. -/
def vbase : VOps :=
  { look := 0, d := .v 2, a := .v 4, b := .v 6, c := .none, ka := 0, kb := 0, kc := 0, pub := false, pred := 0, neg := false,
    ty := .i32, rnd := .rn, sat := false, imm := 0 }
def mbase : MOps :=
  { look := 0, d := .v 4, base := .s 8, index := .v 2, scale := 2, space := .generic, size := .b32, cls := .plain, scope := .tm,
    pred := 0, neg := false, aop := 0, off := 16 }
def ebase : EOps :=
  { look := 0, d := 255, a := 255, b := 255, c := 255, e := 255, cnt := 0, pred := 0, neg := false, ctl := 0 }
def sbase : SOps := { d := .none, a := .none, pred := 0, neg := false, imm := 0 }
def bbase : BOps := { pred := 0, neg := false, treg := .none, disp := 0 }

/-- The unchanged terms are well formed, so each refusal below is of the one field it changes. -/
theorem test_wf_bases : WellFormed (.add vbase) ∧ WellFormed (.ld mbase) ∧ WellFormed (.bar ebase) ∧ WellFormed (.nop sbase) ∧
    WellFormed (.ret bbase) := by decide +kernel
/-- R93: a lookahead on an instruction that is not of long latency. -/
theorem test_wf_look : WellFormed (.add { vbase with look := 1 }) = false ∧
    WellFormed (.st { mbase with look := 1 }) = false ∧
    WellFormed (.bar { ebase with look := 1 }) = false := by decide +kernel
/-- R80: a type the instruction does not list. -/
theorem test_wf_type : WellFormed (.add { vbase with ty := .f32 }) = false ∧
    WellFormed (.fadd { vbase with ty := .i32 }) = false := by decide +kernel
/-- R78: a kind of operand the position does not accept, an odd wide register, a reserved specifier. -/
theorem test_wf_specifier : WellFormed (.add { vbase with a := .p 0 }) = false ∧
    WellFormed (.add { vbase with c := .v 1 }) = false ∧
    WellFormed (.add { vbase with ty := .i64, d := .v 3 }) = false ∧
    WellFormed (.add { vbase with a := .resv 0 }) = false ∧
    WellFormed (.shfl { vbase with ty := .b32, d := .s 0 }) = false := by decide +kernel
/-- R82, R83: two immediates, an immediate that no operand reads, a packed immediate that does not repeat its sign. -/
theorem test_wf_immediate : WellFormed (.add { vbase with a := .none, b := .none }) = false ∧
    WellFormed (.add { vbase with imm := 1 }) = false ∧
    WellFormed (.add { vbase with ty := .i8x4, b := .none, imm := 0x80 }) = false := by decide +kernel
/-- R82: a distance of 5 to 7, a distance on a scalar or in a major without chains, a publication of a scalar. -/
theorem test_wf_chain : WellFormed (.add { vbase with ka := 5 }) = false ∧
    WellFormed (.add { vbase with a := .s 1, ka := 1 }) = false ∧
    WellFormed (.shfl { vbase with ty := .b32, c := .none, ka := 1 }) = false ∧
    WellFormed (.add { vbase with d := .s 2, pub := true }) = false := by decide +kernel
/-- R198: zero bits of trap, wsp, pause and nop; R84: an immediate out of range. -/
theorem test_wf_system : WellFormed (.nop { sbase with imm := 1 }) = false ∧
    WellFormed (.trap { sbase with imm := 0x10000 }) = false ∧
    WellFormed (.wsp { sbase with imm := 4 }) = false ∧
    WellFormed (.pause { sbase with imm := 0x1000 }) = false ∧
    WellFormed (.rgn { sbase with imm := 1 }) = false ∧
    WellFormed (.movi { d := .v 1, a := .none, pred := 0, neg := false, ty := .n32, imm := 0x100000000 }) = false := by decide +kernel
/-- R87: a target on an instruction that takes none, an odd target register. -/
theorem test_wf_branch : WellFormed (.ret { bbase with disp := 12 }) = false ∧
    WellFormed (.exit { bbase with treg := .s 1 }) = false ∧
    WellFormed (.brx { bbase with treg := .v 3 }) = false := by decide +kernel
/-- R202: an operand that is no rejoin set, a saved set that does not fit the scalar file. -/
theorem test_wf_rejoin : WellFormed (.jenter { vbase with ty := .b32, d := .none, b := .none }) = false ∧
    WellFormed (.jsave { vbase with ty := .b32, d := .s 62, a := .j 0, b := .none }) = false := by decide +kernel
/-- R86, R249 to R253: base, index, scale, alignment of the data register, class, scope and aop. -/
theorem test_wf_access : WellFormed (.ld { mbase with base := .v 0 }) = false ∧
    WellFormed (.ld { mbase with index := .s 0 }) = false ∧
    WellFormed (.ld { mbase with index := .none }) = false ∧
    WellFormed (.ld { mbase with size := .b128, d := .v 6 }) = false ∧
    WellFormed (.ld { mbase with cls := .rel }) = false ∧
    WellFormed (.ld { mbase with scope := .dv }) = false ∧
    WellFormed (.ld { mbase with aop := 1 }) = false ∧
    WellFormed (.ld { mbase with space := .cistern, cls := .acq, scope := .dv }) = false := by decide +kernel
/-- R262, R263: the operation with its size, the private space, the alignment of an exchange pair. -/
theorem test_wf_atomic : WellFormed (.atom { mbase with aop := 13 }) = false ∧
    WellFormed (.atom { mbase with size := .b16 }) = false ∧
    WellFormed (.atom { mbase with space := .private_ }) = false ∧
    WellFormed (.atom { mbase with aop := 1, d := .v 5 }) = false ∧
    WellFormed (.red { mbase with aop := 1 }) = false := by decide +kernel
/-- R89: unused counter and control bits, a tableau above 63, a tile access size of R281. -/
theorem test_wf_engine : WellFormed (.bar { ebase with cnt := 1 }) = false ∧
    WellFormed (.bar { ebase with ctl := 0x10 }) = false ∧
    WellFormed (.bar { ebase with d := 0 }) = false ∧
    WellFormed (.ivtab { ebase with d := 0x80, a := 64, b := 0x81 }) = false ∧
    WellFormed (.tld { ebase with d := 4, a := 3, b := 2, ctl := 0x1000 }) = false ∧
    WellFormed (.ccwait ebase) = false := by decide +kernel
/-- R150: a register field that a Busoron instruction does not use is zero. -/
theorem test_wf_program : WellFormed (.qli { rd := 1, ra := 1, imm := 0 }) = false ∧
    WellFormed (.qjmp { ra := 1, rb := 0, disp := 0 }) = false ∧
    WellFormed (.qbucket { rd := 1, ra := 1, rb := 1 }) = false := by decide +kernel

/-! Each row of R94 refuses a word, with its own fault. -/
theorem test_bad_zero_slot : decode96 0 = .bad .illegalOperand := by decide +kernel
theorem test_bad_major : decode96 (head 0x12 0 0) = .bad .illegalOp := by decide +kernel
theorem test_bad_minor : decode96 (head 0x01 6 0 ||| 0xff <<< 66) = .bad .illegalOp := by decide +kernel
/-- Slot 4 of the printed line with bits changed: lookahead 1, type 12, a second immediate. -/
theorem test_bad_add_words : decode96 (slot 0x10000000 0x407fc000 0x10000040 ||| 1 <<< 84) = .bad .illegalOp ∧
    decode96 (slot 0xc0000000 0x407fc000 0x10000040) = .bad .illegalOp ∧
    decode96 (slot 0x10000001 0x407fc000 0x10000040) = .bad .illegalOperand := by decide +kernel
theorem test_bad_nop_rz : decode96 (head 0x00 0 0 ||| 0xff <<< 70 ||| 0xff <<< 62 ||| 1 <<< 48) = .bad .illegalOp := by decide +kernel
/-- The printed `ld` word with scale 4, space 5, class 5. -/
theorem test_bad_ld_words : decode96 (slot 0x00000010 0x00a04a00 0x40000122) = .bad .illegalOp ∧
    decode96 (slot 0x00000010 0x00954a00 0x40000122) = .bad .illegalOp ∧
    decode96 (slot 0x00000010 0x00905600 0x40000122) = .bad .illegalOp := by decide +kernel
/-- R149, R150: an operation with no row, and bits that format A leaves zero. -/
theorem test_bad_program_words : decode32 0xfc000000 = none ∧ decode32 (0x03 <<< 26 ||| 1) = none := by decide +kernel

/-- R428: the CRC of the nine bytes "123456789", whose published check value is E3069283H (log 12). -/
theorem test_crc32c : crc32c ((List.range 9).map (fun k => BitVec.ofNat 8 (0x31 + k))) = 0xe3069283 := by decide +kernel

end Sys2Proof.Tests
end

