-- ==== Sys2Proof/Tests/World.lean ====
section
/-! SUPPORT. Tests/World: a small machine that the witnesses of the statements' hypotheses are taken on. -/

set_option Elab.async false

namespace Sys2Proof.Tests
open Sys2Proof.Machine Sys2Proof.Claims

/-- A group of 16 lanes of which lane 0 alone runs, at slot 0 of the line at address 0; its lsp lies 64 bytes into the private window. -/
def wg : Group :=
  { oneGroup with
    lanes := .run :: List.replicate 15 .done
    regs := { oneGroup.regs with lsp := .u (BitVec.ofNat 64 (0x7d * 2 ^ 57 + 64)) } }

/-- Its team: 64 KiB of cistern and of sump, four barrier slots. -/
def wt : Team := { oneTeam with bars := List.replicate 4 {} }

/-- Its launch. -/
def wl : Launch :=
  { oneLaunch with teamsLeft := 1, record := { oneLaunch.record with cistern := 65536, sump := 65536, bars := 4, privSz := 4096, privBase := 4096 } }

/-- Pages 0 to 2 of context 1 lie in the frame at 64 KiB, page 3 in a host page at bus address 0. -/
def wtlb : List Cached :=
  [{ ctx := 1, page := 0, leaf := openLeaf 65536, leafAddr := 0 }, { ctx := 1, page := 1, leaf := openLeaf 65536, leafAddr := 0 },
   { ctx := 1, page := 2, leaf := openLeaf 65536, leafAddr := 0 },
   { ctx := 1, page := 3, leaf := BitVec.ofNat 64 (2 ^ 63 + 2 ^ 60 + 15 * 2 ^ 56), leafAddr := 0 }]

/-- The machine with these in context 1, whose instruction `exec` runs; slot 0 of the line at 0 may be entered. -/
def world (g : Group := wg) (t : Team := wt) (l : Launch := wl) : State :=
  { State.reset with
    env := { cur := .group 0 0 }
    tlb := wtlb
    ctxs := [(1, { state := .active, desc := { pairs := 1 } })]
    mem := Memory.store [] 65536 (lineBytes 0)
    groups := [(0, g)], teams := [(0, t)], launches := [(0, l)] }

/-- The issue at a state; the default is not met. -/
def theIssue (s : State) (pred : Fin 8 := 0) (neg : Bool := false) : Issue :=
  (s.issue pred neg).getD { key := 1, core := 1, slot := 1, g := wg, t := wt, l := wl, pc := 1, ex := 0, gd := 0 }

/-- Nothing stands in the way of the issue at a state. -/
abbrev Clear (s : State) (pred : Fin 8 := 0) (neg : Bool := false) : Prop :=
  let g := (theIssue s pred neg).g
  s.issue pred neg = some (theIssue s pred neg) ∧ s.env.before = none ∧ g.pend = [] ∧ g.yields = [] ∧
    (g.integrity.bad = [] ∧ g.integrity.tables = [] ∧ g.integrity.shadow = []) ∧ g.integrity.resume = false ∧ g.staged.all (fun x => x.bad.isEmpty) = true

theorem issues_of {s : State} {pred : Fin 8} {neg : Bool} (h : Clear s pred neg) : Issues s pred neg (theIssue s pred neg) where
  issue := h.1
  single := h.2.1
  pend := h.2.2.1
  yields := h.2.2.2.1
  words := h.2.2.2.2.1.1
  tables := h.2.2.2.2.1.2.1
  shadow := h.2.2.2.2.1.2.2
  resume := h.2.2.2.2.2.1
  staged := h.2.2.2.2.2.2

/-- Where lane 0 alone acts, what holds of lane 0 holds of every lane that acts. -/
theorem all_acts {is : Issue} {P : Nat → Prop} (h : is.gd = 1#64) (p : P 0) : ∀ l, acts is l → P l := by
  intro l ⟨_, hl⟩
  have : l = 0 := by
    rw [h] at hl
    simp only [Mask.has] at hl
    by_cases k : l = 0
    · exact k
    · simp [BitVec.getLsbD_one, k] at hl
  rwa [this]

def wi : Issue := theIssue world

theorem issues_world : Issues world 0 false wi := issues_of (by decide +kernel)
theorem guard_world : wi.gd = 1#64 := by decide +kernel

/-- A request to device 7 for the group of `world`, under number `seq`. -/
def ask (a : PeerAsk) (seq : Nat) (for_ : PeerFor) : PeerReq :=
  { seq := BitVec.ofNat 32 seq, dev := 7, port := 0, ports := 3, pa := 64, ask := a, for_, ctx := 1, group := 0, cls := .plain, sentAt := 0 }

/-- `s` while a load of the group waits for its peer, so that a plain store of the group waits. -/
def awaiting (s : State) : State := { s with link := { s.link with reqs := [(0, ask (.read 8) 0 .nobody)] } }

/-! Operands. -/
def vo (d a b c : Opnd) (ty : Ty) (imm : Nat := 0) : VOps :=
  { look := 0, d, a, b, c, ka := 0, kb := 0, kc := 0, pub := false, pred := 0, neg := false, ty, rnd := .rn, sat := false, imm := BitVec.ofNat 25 imm }
def so (d a : Opnd) (imm : Nat := 0) : SOps := { d, a, pred := 0, neg := false, imm := BitVec.ofNat 48 imm }
def bo (treg : Opnd) (disp : Nat := 0) : BOps := { pred := 0, neg := false, treg, disp := BitVec.ofNat 48 disp }
def mo (d base : Opnd) (space : Space) (size : Size) (cls : Cls) (scope : Scope) (aop : Nat := 0) (off : Nat := 0) : MOps :=
  { look := 0, d, base, index := .none, scale := 0, space, size, cls, scope, pred := 0, neg := false, aop := BitVec.ofNat 4 aop, off := BitVec.ofNat 32 off }
def eo (d a b c e : Nat) (cnt : Nat := 0) (ctl : Nat := 0) : EOps :=
  { look := 0, d := BitVec.ofNat 8 d, a := BitVec.ofNat 8 a, b := BitVec.ofNat 8 b, c := BitVec.ofNat 8 c, e := BitVec.ofNat 8 e
    cnt := fin16 cnt, pred := 0, neg := false, ctl := BitVec.ofNat 30 ctl }

end Sys2Proof.Tests
end

