-- ==== Sys2Proof/Tests/WitnessControl.lean ====
section
/-! SUPPORT. Tests/WitnessControl: states and operands that meet the hypotheses of the statements on rejoin sets, system instructions, traps and branches, each clause's. -/

set_option Elab.async false

namespace Sys2Proof.Tests
open Sys2Proof.Machine Sys2Proof.Claims

/-- Lane 0 runs and lane 1 waits; set 1 has these members and these that have arrived. -/
def setGroup (members arrived : Nat) : Group :=
  { wg with
    lanes := .run :: .wait :: List.replicate 14 .done
    regs := { wg.regs with j := wg.regs.j.set 1 { members := BitVec.ofNat 64 members, arrived := BitVec.ofNat 64 arrived } } }

def oSet : VOps := vo .none (.j 1) .none .none .b32
def oJrest : VOps := vo (.j 2) (.s 4) .none .none .b32

/-- The issue of a set's state. -/
def si (members arrived : Nat) : Issue := theIssue (world (setGroup members arrived))

theorem witness_RejoinSets :
    Issues (world (setGroup 2 0)) 0 false (si 2 0) ∧ (si 2 0).gd = 1#64 ∧
    (∀ i ∈ [Instr.jenter oSet, .jquit oSet, .jwait oSet, .jget (vo (.s 2) (.j 1) .none .none .b32), .jsave (vo (.s 4) (.j 1) .none .none .b32), .jrest oJrest],
      WellFormed i = true) ∧
    (∀ l, acts (si 2 0) l → (si 2 0).g.depth l = 0) ∧ ((si 2 0).g.jset 1).entry = 0 ∧
    -- `jwait`: the last member, and a member before the last
    ((si 3 2).gd.within ((si 3 2).g.jset 1).members = true ∧ ((si 3 2).g.jset 1).arrived ||| (si 3 2).gd = ((si 3 2).g.jset 1).members) ∧
    ((si 7 2).gd.within ((si 7 2).g.jset 1).members = true ∧ ((si 7 2).g.jset 1).arrived ||| (si 7 2).gd ≠ ((si 7 2).g.jset 1).members) ∧
    deadlocked (Group.setLanes { wg with regs := { wg.regs with j := wg.regs.j.set 1 { members := 7, arrived := 3 } }, lanes := List.replicate 16 .run } 1 .wait) = false ∧
    imageBad (si 2 0).g 2 ((si 2 0).g.sreg 4) ((si 2 0).g.sreg 5) ((si 2 0).g.sreg 6).toNat = false ∧
    -- no lane whose guard is true, and a set that is complete
    (theIssue (world (setGroup 2 0)) 0 true).gd = 0 ∧
    ((setGroup 2 2).regs.j.getD 1 {}).arrived = ((setGroup 2 2).regs.j.getD 1 {}).members := by
  refine ⟨issues_of ?_, ?_, ?_, all_acts ?_ ?_, ?_, ?_⟩ <;> decide +kernel

/-- Two lanes run, so that one has others to yield to. -/
def twoGroup : Group := { wg with lanes := .run :: .run :: List.replicate 14 .done, regs := { wg.regs with p := wg.regs.p.set 1 1 } }

theorem witness_SystemInstructions :
    Issues world 0 false wi ∧ wi.gd ≠ 0 ∧
    (∀ i ∈ [Instr.nop (so .none .none), .rsp (so (.s 2) .none 8), .wsp (so .none .none 8), .rgn (so (.v 4) .none 3), .rgn (so .none .none 0), .pause (so .none .none 4095),
      .trap (so .none .none 65535)], WellFormed i = true) ∧
    (∀ l, acts wi l → stackOk wi.l (wi.g.regs.lsp.get l + (so .none .none 8).imm.signExtend 64) 0 = true) ∧
    (Issues (world twoGroup) 1 false (theIssue (world twoGroup) 1) ∧
      ∃ l < (theIssue (world twoGroup) 1).g.width, (theIssue (world twoGroup) 1).g.lane l = .run ∧ (theIssue (world twoGroup) 1).gd.has l = false ∧ l < 64) ∧
    (theIssue world 0 true).gd = 0 ∧ world.group (groupKey 0 0) = some wg ∧ wg.pausedUntil ≤ world.clk := by
  refine ⟨issues_world, ?_, ?_, all_acts guard_world ?_, ⟨issues_of ?_, 1, ?_⟩, ?_⟩ <;> decide +kernel

/-- A group with an entry point in `s62` and a save area in `s63`. -/
def trapGroup : Group := { wg with regs := { wg.regs with s := (wg.regs.s.set 62 0x40).set 63 0x2000 } }

/-- What a handler keeps of that group. -/
def trapHandler : Handler := { lanes := 1, cause := 32, states := trapGroup.lanes, lpcs := trapGroup.regs.lpc, sets := trapGroup.regs.j }

/-- The same inside a handler of lane 0, whose save area holds what entry put there. -/
def handlerWorld (lanes : Mask) : State :=
  let g := { trapGroup with handler := some { trapHandler with lanes } }
  { world g with mem := Memory.store [] (65536 + 0x2000) (trapArea trapGroup wl 32 0 0 0 lanes 12) }

theorem witness_TrapEntry :
    Issues (world trapGroup) 0 false (theIssue (world trapGroup)) ∧ (theIssue (world trapGroup)).g.handler = none ∧ (theIssue (world trapGroup)).g.sreg 62 ≠ 0 ∧
    ((theIssue (world trapGroup)).g.sreg 63).toNat % 64 = 0 ∧ ((theIssue (world trapGroup)).g.sreg 63).toNat / 2 ^ 57 = 0 ∧
    ((world trapGroup).storeVA 0 1 0x2000 (trapArea trapGroup wl 1 0 0 0 1 0)).isOk = true ∧
    Issues (handlerWorld 1) 0 false (theIssue (handlerWorld 1)) ∧ (theIssue (handlerWorld 1)).g.handler.isSome = true ∧
    -- a store waits for a peer, or none does
    (∀ g ∈ [trapGroup, wg], mustWait (world g) 0 .plain true = false) ∧ mustWait (handlerWorld 1) 0 .plain true = false ∧
    Issues (awaiting (world trapGroup)) 0 false (theIssue (awaiting (world trapGroup))) ∧ mustWait (awaiting (world trapGroup)) 0 .plain true = true := by
  refine ⟨issues_of ?_, ?_, ?_, ?_, ?_, ?_, issues_of ?_, ?_, ?_, ?_, issues_of ?_, ?_⟩ <;> decide +kernel

/-- The area at `s63` is what `tret` accepts. -/
def areaFits (s : State) : Bool :=
  let g := { trapGroup with handler := some { trapHandler with tret := 1 } }
  match areaLines 0 g 28 0x2000 s with
  | .got b _ => areaOk g { trapHandler with tret := 1 } b
  | _ => false

set_option maxRecDepth 20000 in
theorem witness_TrapAndReturn :
    Issues (world trapGroup) 0 false (theIssue (world trapGroup)) ∧ WellFormed (.trap (so .none .none 7)) = true ∧ WellFormed (.tret (so .none .none)) = true ∧
    (theIssue (world trapGroup)).gd ≠ 0 ∧ (theIssue (world trapGroup)).g.handler = none ∧ mustWait (world trapGroup) 0 .plain true = false ∧
    ((world trapGroup).storeVA 0 1 0x2000 (trapArea trapGroup wl 32 7 0 0 1 12)).isOk = true ∧
    -- the last lane of the handler, and one before it
    (Issues (handlerWorld 1) 0 false (theIssue (handlerWorld 1)) ∧ Mask.within (1 : Mask) (1 : Mask) = true ∧ areaFits (handlerWorld 1) = true) ∧
    (Issues (handlerWorld 3) 0 false (theIssue (handlerWorld 3)) ∧ Mask.within (3 : Mask) (1 : Mask) = false ∧
      deadlocked { trapGroup with handler := some { trapHandler with lanes := 3, tret := 1 } } = false) := by
  refine ⟨issues_of ?_, ?_, ?_, ?_, ?_, ?_, ?_, ⟨issues_of ?_, ?_⟩, ⟨issues_of ?_, ?_⟩⟩ <;> decide +kernel

/-- A group of which lane 0 stands at a depth. -/
def depthGroup (d : Nat) : Group := { wg with regs := { wg.regs with lpc := BitVec.ofNat 64 (d * 2 ^ 57) :: List.replicate 15 0 } }
def di (d : Nat) : Issue := theIssue (world (depthGroup d))

/-- The line at 0 fails its parity. -/
def badWorld : State := { world with mem := Memory.store [] 65536 (List.replicate 60 0 ++ leBytes 4 (2 ^ 14)) }

/-- Lane 0's stack slot: `lsp` − 8 for a push, `lsp` for a pop. -/
def pushPlace : Place := .page (4096 + 56) (openLeaf 65536) 0
def popPlace : Place := .page (4096 + 64) (openLeaf 65536) 0

theorem witness_JumpsAndCalls :
    Issues world 0 false wi ∧ (∀ i ∈ [Instr.bra (bo .none), .brx (bo (.s 4)), .call (bo .none), .callx (bo (.s 4))], WellFormed i = true) ∧
    (∀ l, acts wi l → checkTarget world wi.g (BOps.target wi (bo (.s 4)) l) = .ok ∧ wi.g.depth l ≠ 127 ∧ stackOk wi.l (wi.g.regs.lsp.get l) 8 = true ∧
      stackAccess world wi .write l (wi.g.regs.lsp.get l - 8) = .ok pushPlace) ∧ mustWait world 0 .plain true = false ∧
    plainAt pushPlace (65536 + 4096 + 56) ∧
    -- a target that is no slot, one whose line fails its parity while no other is better, and DEPTH 127
    (Issues badWorld 0 false (theIssue badWorld) ∧ ∀ l, acts (theIssue badWorld) l → checkTarget badWorld (theIssue badWorld).g (BOps.target (theIssue badWorld) (bo .none) l) = .badLine) ∧
    (∃ l, acts wi l ∧ checkTarget world wi.g (BOps.target wi (bo .none 4) l) = .bad) ∧
    (Issues (world (depthGroup 127)) 0 false (di 127) ∧ ∃ l, acts (di 127) l ∧ (di 127).g.depth l = 127) := by
  refine ⟨issues_world, ?_, all_acts guard_world ?_, ?_, ?_, ⟨issues_of ?_, all_acts ?_ ?_⟩, ⟨0, ?_, ?_⟩, issues_of ?_, ⟨0, ?_, ?_⟩⟩ <;>
    first
    | decide +kernel
    | (unfold acts; decide +kernel)
    | (unfold plainAt pushPlace; decide +kernel)

theorem witness_ReturnsAndExits :
    Issues (world (depthGroup 1)) 0 false (di 1) ∧ WellFormed (.ret (bo .none)) = true ∧ WellFormed (.exit (bo .none)) = true ∧
    (∀ l, acts (di 1) l → (di 1).g.depth l ≠ 0 ∧ stackOk (di 1).l ((di 1).g.regs.lsp.get l) 0 = true ∧
      ((di 1).g.regs.lsp.get l).toNat % 2 ^ 57 + 8 ≤ (di 1).l.record.privSz ∧ orphans (di 1).g l = false ∧
      stackAccess (world (depthGroup 1)) (di 1) .read l ((di 1).g.regs.lsp.get l) = .ok popPlace ∧
      checkTarget (world (depthGroup 1)) (di 1).g (Memory.value (world (depthGroup 1)).mem (65536 + 4096 + 64) 8) = .ok) ∧
    readAt (world (depthGroup 1)) popPlace (65536 + 4096 + 64) ∧ mustWait (world (depthGroup 1)) 0 .plain false = false ∧
    (Issues world 0 false wi ∧ ∃ l, acts wi l ∧ wi.g.depth l = 0) ∧
    -- `exit`: inside a handler, no lane, a lane that leaves others running
    (theIssue (handlerWorld 1)).g.handler.isSome = true ∧ (theIssue world 0 true).gd = 0 ∧ deadlocked (quitSets (wi.g.setLanes wi.gd .done) wi.gd) = false := by
  refine ⟨issues_of ?_, ?_, ?_, all_acts ?_ ?_, ?_, ?_, ⟨issues_world, 0, ?_, ?_⟩, ?_⟩ <;>
    first
    | decide +kernel
    | (unfold acts; decide +kernel)
    | (unfold readAt popPlace; decide +kernel)

end Sys2Proof.Tests
end

