-- ==== Sys2Proof/Tests/WitnessDevice.lean ====
section
/-! SUPPORT. Tests/WitnessDevice: states and operands that meet the hypotheses of the statements on pages, the fault queue, links, peers, collective groups, exchanges, the host port and bring-up, each clause's. -/

set_option Elab.async false

namespace Sys2Proof.Tests
open Sys2Proof.Machine Sys2Proof.Claims

/-- A command register at a command, of an operation and a number. -/
def command (op num : Nat) : Dword := BitVec.ofNat 64 (1 + op * 2 ^ 48 + num * 2 ^ 36)

/-- A table of four levels at 1 MiB whose first page of 64 KiB is the frame at 0. -/
def pageTable (m : List Host.Cell) : List Host.Cell :=
  let e := fun (k : Nat) => leBytes 8 (2 ^ 62 + 2 ^ 20 + 4096 * k)
  Memory.store (Memory.store (Memory.store (Memory.store (Memory.store m (2 ^ 20) (e 1)) (2 ^ 20 + 4096) (e 2)) (2 ^ 20 + 8192) (e 3)) (2 ^ 20 + 12288)
    (leBytes 8 (2 ^ 62 + 2 ^ 61 + 2 ^ 20 + 16384))) (2 ^ 20 + 16384) (leBytes 8 (openLeaf 0).toNat)

/-- INVAL, and PINCMD, at a command; a pin descriptor of one frame at host address 64, of no frame at 128. -/
def pageWorld (inval invarg pincmd pinarg : Nat) : State :=
  { world with
    funcs := [(0, { inval := BitVec.ofNat 64 inval, invarg := BitVec.ofNat 64 invarg, pincmd := BitVec.ofNat 64 pincmd, pinarg := BitVec.ofNat 64 pinarg })]
    mem := Memory.store (Memory.store (Memory.store [] (hostKey 64) ([3, 0, 0, 0] ++ leBytes 4 1 ++ leBytes 8 256)) (hostKey 256) (leBytes 8 65536)) (hostKey 128) ([3, 0, 0, 0] ++ leBytes 4 0)
    ctxs := [(1, { state := .active, pins := [(4, { host := false, frames := [0] })] })] }
def goOn (op num : Nat) : Nat := (command op num).toNat

/-- A copy from the start of pinned handle 4. -/
def pinJob : Job :=
  { ctx := 1, core := 0, group := 0, team := 0, kind := .copy (0x7c * 2 ^ 57 + 4 * 2 ^ 47) 0 0 0 0 0 false false, card := 0, cardAt := 0, len := 1, counter := none
    reads := [], writes := [], edges := [], tileR := none, tileW := none, units := 1, todo := [0], order := 0 }

/-- A page of the heap of context 1: it holds a block, its entry names the frame that it had when it was built, or another. -/
def pinnedHeap (pa : Nat) : State :=
  { pageWorld 0 0 0 0 with
    mem := Memory.store (pageTable []) (2 ^ 20 + 16384) (leBytes 8 (openLeaf (2 ^ 53)).toNat)
    ctxs := [(1, { state := .active, desc := { pairs := 1, ptroot := BitVec.ofNat 64 (2 ^ 20), heapBase := 0, heapLen := 65536 }
                   heap := [{ va := 0, pa, blocks := [(0, 64)] }] })] }

theorem witness_InvalidationAndPins :
    (∀ x ∈ [(4096 + 12, some (4096, 4096)), (0, none)], let s := pageWorld (goOn 0 1) x.1 0 0
      cmdGo (s.func 0).inval = true ∧ cmdNum (s.func 0).inval = 1 ∧ ctxSt s 0 1 = 0 ∧ invalRange (s.func 0).invarg.toNat = x.2 ∧ s.link.reqs = []) ∧
    ctxSt (pageWorld (goOn 0 2) 0 0 0) 0 2 ≠ 0 ∧
    heapHeld (pinnedHeap 65536) 1 0 4096 = true ∧ heapHeld (pinnedHeap 0) 1 0 4096 = false ∧
    (∀ x ∈ [(64, true), (128, false)], let s := pageWorld 0 0 (goOn 1 1) x.1
      cmdIs (s.func 0).pincmd 1 1 = true ∧ ctxSt s 0 1 = 0 ∧ pinDescOk (hostBytes s x.1 32) = x.2 ∧ lookup (s.ctx 1).pins 3 = none ∧
        pinFrames s (pinDescOf (hostBytes s 64 32)) = [65536] ∧ frameOk 0 65536 = true) ∧
    (let s := pageWorld 0 0 (goOn 2 1) 512
     let s := { s with mem := Memory.store s.mem (hostKey 512) [4] }
     cmdIs (s.func 0).pincmd 2 1 = true ∧ lookup (s.ctx 1).pins (pinDescOf (hostBytes s 512 32)).index ≠ none ∧ usesPin s 1 4 = false ∧
       usesPin { s with jobs := [(0, pinJob)] } 1 4 = true) := by decide +kernel

/-- Lane 1 of the group waits on the entry with ticket 0; FQCTL has 64 slots, and has room or not. -/
def faultWorld (tail : Nat) : State :=
  { world { wg with lanes := .run :: .parked :: List.replicate 14 .done } with
    faults := [{ die := 0, index := 0, seq := 0, ctx := 1, state := .opened, reason := 2, page := 0, write := false, waiters := [.lane 0 1], record := List.replicate 32 0 }]
    funcs := [(0, { fqctl := BitVec.ofNat 64 (6 + tail * 2 ^ 8), fqbase := 4096, waiting := [(0, List.replicate 32 0)] })]
    mem := pageTable []
    -- 4096 line fills by quadrant 5 and 1365 by the page's own
    fills := [(pageKey 1 0, { window := 0, counts := [1365, 0, 0, 7, 0, 4096, 12] })]
    ctxs := [(1, { state := .active, desc := { pairs := 1, ptroot := BitVec.ofNat 64 (2 ^ 20) } })] }

/-- FAIL of a lane whose group's trap waits for a peer, and an entry of a context that has an image. -/
theorem witness_ReplaysAndFaultRecords_waits :
    (∀ e ∈ (faultWorld 0).faults, failWaits (awaiting (faultWorld 0)) e = true ∧ failWaits (faultWorld 0) e = false) ∧ ((faultWorld 0).ctx 1).image = none ∧
    (let x := (faultWorld 0).ctx 1
     (entryOf (faultWorld 0).faults 0).isSome = true ∧ ((State.setCtx (faultWorld 0) 1 { x with image := some default }).ctx 1).image ≠ none) := by decide +kernel

theorem witness_ReplaysAndFaultRecords :
    (let s := faultWorld 0
     (∃ e, entryOf s.faults 0 = some e ∧ (s.ctx e.ctx).desc.func = 0 ∧ e.waiters = [.lane 0 1] ∧ ∃ g, s.group 0 = some g ∧ g.lane 1 = .parked ∧ g.handler = none ∧ g.halted = false) ∧
     entryOf s.faults 1 = none ∧ imageEntry s 1 = none ∧
     (∃ x, (s.func 0).waiting = x :: []) ∧ fqRoom (s.func 0).fqctl = true ∧ fqRoom ((faultWorld 63).func 0).fqctl = false ∧ (s.func 0).fqbase.getLsbD 0 = false ∧
     walk s.mem (s.ctx 1).desc.ptroot 0 = .leaf (openLeaf 0) (2 ^ 20 + 16384) ∧ leafMem (openLeaf 0) = 0 ∧ lookup s.hinted (pageKey 1 0) ≠ some (s.clk / 2 ^ 24) ∧
     (∃ f, lookup s.fills (pageKey 1 0) = some f ∧ f.window = s.clk / 2 ^ 24 ∧ (let fills := fun q => f.counts.getD q 0
       5 ≠ paStack (leafFrame (openLeaf 0)) ∧ 4096 ≤ fills 5 ∧ 3 * fills (paStack (leafFrame (openLeaf 0))) < fills 5 ∧
         ∀ q < 16, q ≠ paStack (leafFrame (openLeaf 0)) → q ≠ 5 → fills q < fills 5))) := by
  refine ⟨⟨_, rfl, ?_, ?_, _, rfl, ?_, ?_, ?_⟩, ?_, ?_, ⟨_, rfl⟩, ?_, ?_, ?_, ?_, ?_, ?_, _, rfl, ?_⟩ <;> decide +kernel

/-! ### Links and peers -/

/-- A flit of a type from device 7. -/
def flit (type seq : Nat) (payload : List Byte) : Flit :=
  Flit.sealed { type := BitVec.ofNat 8 type, flags := 0, dst := 9, src := 7, gid := 0, inc := 0, rank := 0, len := payload.length, seq := BitVec.ofNat 32 seq, payload, crc := 0, tail := 0 }

/-- A sealed flit's CRC fits, and no other does. -/
theorem seal_crc (f : Flit) : f.sealed.crcOk = true ∧ Flit.crcOk { f.sealed with crc := f.sealed.crc + 1 } = false := by
  constructor
  · simp [Flit.crcOk, Flit.sealed, Flit.head]
  · simp [Flit.crcOk, Flit.sealed, Flit.head]

/-- Requests of each kind under 0 to 4; one performed under number 5 of device 7. -/
def linkState : Link :=
  { id := 9, ports := [(0, { up := true, lanes := 8 }), (1, { up := true, lanes := 4 }), (2, { up := true, lanes := 8, fails := 63 })]
    dies := [(1, { fails := 15 }), (2, { fails := 16 }), (3, { up := false })]
    reqs := [(0, ask (.read 4) 0 (.once 0 64 4)), (1, ask (.write [1]) 1 .nobody), (2, ask (.atomic 2 4 0 0) 2 (.ring 1 4096)), (3, ask (.token [1]) 3 (.exchange 0)), (4, ask (.read 8) 4 .nobody)]
    performed := [{ source := 7, seq := 5, reply := flit 10 5 [] }]
    atoms := [{ die := 2, port := 0, flit := flit 4 9 (leBytes 8 (2 ^ 40) ++ leBytes 4 2 ++ leBytes 4 4 ++ leBytes 8 1 ++ leBytes 8 0) }]
    inbound := [{ source := 7, lo := 0, hi := 65536 }] }
def linkWorld : State := { world with link := linkState, sec := { hbm := 16, running := [(1, { version := 3, digest := [] })] } }

theorem witness_LinksAndPorts :
    (∀ x ∈ [(1, true, 15), (2, true, 16), (3, false, 0), (7, true, 0)], let d := (lookup linkWorld.link.dies x.1).getD {}
      d.up = x.2.1 ∧ d.fails = x.2.2 ∧ x.1 < 8) ∧
    -- all links up, a ring link down, a link to the S-die down
    (∀ k < 8, linkUp world k = true) ∧
    (∀ a < 4, ∀ k < 8, linkUp { world with link := { dies := [(a, { up := false })] } } k = (k != a) ∧ linkUp { world with link := { dies := [(4 + a, { up := false })] } } k = (k != 4 + a)) ∧
    (linkWorld.port 17).up = false ∧ (linkWorld.port 0).up = true ∧ (∃ r, lookup linkWorld.link.reqs 0 = some r ∧ r.queued = false ∧ r.port = 0) ∧ portOf (linkWorld.setPort 0 {}) 3 64 = some 1 ∧
    (linkWorld.port 0).fails + 1 < 64 ∧ 64 ≤ (linkWorld.port 2).fails + 1 ∧
    (∀ t ∈ [1, 9, 10], flitOk linkWorld (flit t 0 []) = true ∧ 1 ≤ (flit t 0 []).type.toNat ∧ (flit t 0 []).type.toNat ≤ 10) ∧
    (∀ t ∈ [0, 11], ¬ (1 ≤ (flit t 0 []).type.toNat ∧ (flit t 0 []).type.toNat ≤ 10)) ∧
    (flit 1 0 (List.replicate 232 0)).len = 232 ∧ flitOk linkWorld (flit 1 0 (List.replicate 232 0)) = true ∧ flitOk linkWorld (Flit.sealed { flit 1 0 [] with dst := 8 }) = false ∧
    (∀ f : Flit, f.sealed.crcOk = true ∧ Flit.crcOk { f.sealed with crc := f.sealed.crc + 1 } = false) ∧ flitOk linkWorld { flit 1 0 [] with tail := 1 } = false := by
  refine ⟨?_, ?_, ?_, ?_, ?_, ⟨_, rfl, ?_, ?_⟩, ?_, ?_, ?_, ?_, ?_, ?_, ?_, ?_, seal_crc, ?_⟩ <;> decide +kernel

theorem witness_PeerRequests :
    (let s := linkWorld
     (∀ b ∈ [leBytes 8 64 ++ [1], leBytes 8 65535 ++ [1], leBytes 8 65536 ++ [1]], (s.port 0).up = true ∧ flitOk s (flit 1 6 b) = true) ∧
     -- a line of device 8 is free; on line 1 of device 7 the requests stand on port 0, which is its port while both are up
     portOf s 3 64 = some 1 ∧ portOf s 3 128 = some 0 ∧ (¬ ∃ x ∈ s.link.reqs, x.2.dev = 8 ∧ x.2.pa / 64 = 1 ∧ (x.2.queued = true ∨ x.2.port ≠ 1)) ∧
     (∃ x ∈ s.link.reqs, x.2.dev = 7 ∧ x.2.pa / 64 = 1 ∧ (x.2.queued = true ∨ x.2.port ≠ 1)) ∧
     s.link.atoms.any (fun x => x.flit.src == 7 && x.flit.seq == 9) = true ∧ s.link.atoms.any (fun x => x.flit.src == 7 && x.flit.seq == 6) = false ∧
     (s.link.atoms.find? (fun x => x.die == 2)).isSome = true ∧ (∀ x ∈ s.link.atoms, x.die ≠ 0) ∧
     field (leBytes 2 0x100 ++ [1, 2]) 0 2 = 0x100 ∧ flitOk s (flit 10 0 (leBytes 2 0x100 ++ [1, 2])) = true ∧
     (s.link.performed.find? (fun x => x.source == 7 && x.seq == 5)).isSome ∧ s.link.performed.find? (fun x => x.source == 7 && x.seq == 6) = none ∧
     -- the last byte the entry covers, and the one after it
     covered s 7 65535 1 = true ∧ covered s 7 65536 1 = false ∧ paOk 65535 = true ∧ covered s 7 (65536 - 230) 230 = true ∧ covered s 7 65528 8 = true ∧ 65528 % 8 = 0 ∧ paOk (65528 + 7) = true ∧
     (∀ x ∈ [leBytes 2 0 ++ [1, 2, 3, 4], leBytes 2 3], (reqOf s (flit 3 0 x) (fun a => match a with
        | .read _ => true
        | _ => false)).isSome) ∧
     (reqOf s (flit 5 2 (leBytes 2 0)) (fun a => match a with
        | .atomic .. => true
        | _ => false)).isSome ∧
     (∀ n ∈ [1, 3], (reqOf s (flit 10 n (leBytes 2 0)) (fun a => match a with
        | .write _ => true
        | .token _ => true
        | _ => false)).isSome)) ∧
    (let s := { linkWorld with clk := 2 ^ 24, link := { linkState with ports := [] } }
     ∀ k ∈ [0, 1, 3], ∃ r, lookup s.link.reqs k = some r ∧ r.sentAt + 2 ^ 24 ≤ s.clk ∧ upPorts s r.ports = [] ∧ upPorts linkWorld r.ports ≠ [] ∧ 2 ^ 24 - 1 < r.sentAt + 2 ^ 24) := by
  refine ⟨by decide +kernel, ?_⟩
  intro s k hk
  rcases List.mem_cons.mp hk with rfl | hk
  · exact ⟨_, rfl, by decide +kernel⟩
  rcases List.mem_cons.mp hk with rfl | hk
  · exact ⟨_, rfl, by decide +kernel⟩
  rcases List.mem_cons.mp hk with rfl | hk
  · exact ⟨_, rfl, by decide +kernel⟩
  · cases hk

/-! ### Collective groups -/

def aMember : Member := { dev := 9, ctx := 1, base := 0 }

/-- Group 2, of one rank here or of two; word 0's rounds so far. -/
def coll (nrank closed : Nat) (rounds : List Round) : Collective :=
  { bound := true, inc := 1, last := some 1, nrank, op := 0, len := 65536, timeout := 100, root := 9, members := [aMember], status := 4096, closed := [(0, closed)], rounds }

/-- A descriptor at host address 1024 with its one member at 2048; a malformed one at 1088. -/
def collWorld (c : Collective) (op : Nat) (arg : Nat) : State :=
  { linkWorld with
    link := { linkState with groups := [(2, c)] }
    funcs := [(0, { clscmd := BitVec.ofNat 64 (1 + op * 2 ^ 48 + 2 * 2 ^ 36), clsarg := BitVec.ofNat 64 arg })]
    mem := Memory.store (Memory.store [] (hostKey 1024) ([1, 0, 0, 1] ++ leBytes 4 65536 ++ leBytes 4 100 ++ leBytes 2 9 ++ [0, 0] ++ leBytes 8 2048 ++ leBytes 8 4096)) (hostKey 2048)
      (leBytes 2 9 ++ [0, 0] ++ leBytes 2 1 ++ [0, 0] ++ leBytes 8 0)
    clk := 1000 }

/-- A contribution of a rank of group 2 to word 0, or a result of it. -/
def word0 (type seq inc : Nat) (rank : Nat := 0) : Flit :=
  Flit.sealed { flit type seq (leBytes 8 0 ++ leBytes 4 7 ++ List.replicate 32 0) with gid := 2, inc := BitVec.ofNat 8 inc, rank := BitVec.ofNat 8 rank }

theorem witness_CollectiveGroups :
    (∀ x ∈ [(1024, true), (1088, false)], let s := collWorld {} 1 x.1
      clsIs s 0 1 2 = true ∧ (s.coll 2).bound = false ∧ x.1 % 64 = 0 ∧ collOk s 2 (hostBytes s x.1 64) (hostBytes s (field (hostBytes s x.1 64) 16 8) 16) = x.2) ∧
    (let s := collWorld (coll 1 0 []) 2 0
     clsIs s 0 2 2 = true ∧ (s.coll 2).bound = true ∧ (s.coll 2).rounds = [] ∧ (s.coll 2).held = []) ∧
    -- contributions: of the round that is next, of the last that is no straggler's, of the first that is one's
    (∀ x ∈ [(0, 0, 0), (2 ^ 31 - 1, 0, 2 ^ 31 - 1), (0, 1, 2 ^ 32 - 1), (2 ^ 31, 0, 2 ^ 31)], let s := collWorld (coll 1 x.2.1 []) 0 0
      (s.port 0).up = true ∧ flitOk s (word0 6 x.1 1) = true ∧ flitOk s (word0 7 x.1 1) = true ∧ portsRun s = true ∧ (s.coll 2).bound = true ∧ (s.coll 2).inc = 1 ∧
        (s.coll 2).held = [] ∧ s.link.bars = [] ∧ (s.coll 2).root = s.link.id ∧ (s.coll 2).rounds = [] ∧ (s.coll 2).members = [aMember] ∧ flitOk s (word0 6 x.1 2) = true ∧
        field (word0 7 x.1 1).payload 12 32 = 0 ∧
        (x.1 + 2 ^ 32 - x.2.1 % 2 ^ 32) % 2 ^ 32 = x.2.2) ∧
    (let s := collWorld (coll 1 0 []) 0 0
     Memory.wf s.mem = true ∧ translate s 1 0 .write = .to (openLeaf 65536) 0 ∧ leafLoc (openLeaf 65536) 0 = .here 65536 ∧ leafMem (openLeaf 65536) = 0 ∧ leafD (openLeaf 65536) = true ∧
       leafRed (openLeaf 65536) = false ∧ s.badLine 65536 = false ∧ (s.coll 2).members.filter (fun y => y.dev == s.link.id) = [aMember]) ∧
    (let s := collWorld { coll 1 0 [] with members := [{ dev := 9, ctx := 1, base := 2 ^ 30 }] } 0 0
     let s := { s with tlb := [{ ctx := 1, page := 2 ^ 30 / 4096, leaf := openLeaf 65536 &&& ~~~(1#64 <<< 58), leafAddr := 0 }] }
     Memory.wf s.mem = true ∧ translate s 1 (2 ^ 30) .write = .prot) ∧
    -- the first contribution of a group of two ranks
    (let s := collWorld (coll 2 0 []) 0 0
     1 < (s.coll 2).nrank ∧ (s.coll 2).rounds = [] ∧ (s.coll 2).held = [] ∧ (word0 6 0 1).seq.toNat = (lookup (s.coll 2).closed 0).getD 0 % 2 ^ 32) ∧
    (insert ([] : List (Nat × Word)) 0 7).length ≠ 2 ∧
    -- its last one: the sum reaches the frame of the rank here
    (let r : Round := { off := 0, number := 0, got := [(0, 7)], since := 900 }
     let s := collWorld (coll 2 0 [r]) 0 0
     flitOk s (word0 6 0 1 1) = true ∧ (word0 6 0 1 1).rank.toNat < (s.coll 2).nrank ∧ (s.coll 2).rounds.find? (fun y => y.off == 0) = some r ∧
       (insert r.got 1 7).length = (s.coll 2).nrank ∧ s.link.bars = [] ∧ Memory.wf s.mem = true ∧ ((s.coll 2).members.map (·.dev)).all (· == s.link.id) = true ∧
       translate s 1 0 .write = .to (openLeaf 65536) 0) ∧
    -- a member on another device, and a port for its word
    (wordPort (collWorld (coll 2 0 []) 0 0) 0 ≠ none ∧ (8 : Nat) ≠ (collWorld (coll 2 0 []) 0 0).link.id) ∧
    -- a round that has waited as long as it may, and one that has not
    (∀ x ∈ [(900, true), (901, false)], let s := collWorld (coll 2 0 [{ off := 0, number := 0, got := [(0, 7)], since := x.1 }]) 0 0
      ((s.coll 2).rounds.find? (fun y => y.off == 0)).isSome ∧ (s.coll 2).timeout ≠ 0 ∧ decide (x.1 + (s.coll 2).timeout ≤ s.clk) = x.2) := by decide +kernel

/-! ### The exchange -/

/-- Function 0's ring of 16 descriptors at 4096 of context 1, of which one is to do: at 4160. Its tokens lie at 8192, its destinations and table at 8320 and 8384. -/
def xWorld (ntok : Nat) (e : Option Exchange) (reqs : List (Nat × PeerReq)) (seq : Nat := 1) (table : List Byte := []) : State :=
  { linkWorld with
    link := { linkState with reqs }
    ctxs := [(1, { state := .active, desc := { pairs := 1 } })]
    funcs := [(0, { xqbase := 4096, xqctl := BitVec.ofNat 64 (4 + 2 ^ 36), exchange := e })]
    mem := Memory.store (Memory.store [] (65536 + 8384) table) (65536 + 4096) (leBytes 8 1 ++ leBytes 8 0 ++ List.replicate 48 0 ++
      (leBytes 8 seq ++ leBytes 8 8192 ++ leBytes 8 8320 ++ leBytes 4 ntok ++ leBytes 2 64 ++ [0, 0] ++ leBytes 2 1 ++ leBytes 2 1 ++ leBytes 4 0 ++ leBytes 8 8384 ++ leBytes 8 0 ++ leBytes 8 0)) }

def anExchange : Exchange := { seq := 1, compl := 0, drops := 0, reroutes := 0, failed := false }

theorem witness_Exchanges :
    (let s := xWorld 1 (some anExchange) []
     portsRun s = true ∧ (s.func 0).exchange = some anExchange ∧ groupReqs s (exchangeAgent 0) = []) ∧
    groupReqs (xWorld 1 (some anExchange) [(0, { ask (.token [1]) 3 (.exchange 0) with group := exchangeAgent 0 })]) (exchangeAgent 0) ≠ [] ∧
    -- the next ticket's descriptor, one not yet there, one beyond its limits, one whose table has a byte that is to be zero
    (∀ x ∈ [(1, 1, 0, true, true, true), (1, 0, 0, false, true, true), (0, 1, 0, true, false, true), (1, 1, 7, true, true, false)],
      let s := xWorld x.1 none [] x.2.1 [0, BitVec.ofNat 8 x.2.2.1]
      (s.func 0).exchange = none ∧ xqCtx (s.func 0).xqctl = 1 ∧ xqLog (s.func 0).xqctl = 4 ∧ (s.func 0).xqbase.toNat / 4096 * 4096 = 4096 ∧
        (match readTicket s 1 4096 4 with
         | .ok (ticket, b, s1) => ((xdescOf b).seq == (ticket + 1) % 2 ^ 64) == x.2.2.2.1 && xdescOk b == x.2.2.2.2.1 &&
            (match readExchange s1 1 (xdescOf b) with
             | .ok (_, _, table, _) => zeros table 1 8 == x.2.2.2.2.2
             | .error _ => false)
         | .error _ => false) = true) ∧
    xqLog ({} : Func).xqctl < 4 ∧ anExchange.areas = [] ∧
    (match (xWorld 1 none []).writeVA 1 0 (record 16 [(8, 1), (4, 0), (2, 0), (1, 0)]) with
     | .ok s1 => (s1.writeVA 1 (4096 + 8) (leBytes 8 1)).isOk
     | .error _ => false) = true ∧
    (∀ b ∈ [leBytes 8 64 ++ [1], leBytes 8 65536 ++ [1]], flitOk linkWorld (flit 8 6 b) = true) ∧
    covered linkWorld 7 64 1 = true ∧ covered linkWorld 7 65536 1 = false := by decide +kernel

end Sys2Proof.Tests
end

