-- ==== Sys2Proof/Tests/WitnessEngines.lean ====
section
/-! SUPPORT. Tests/WitnessEngines: states and operands that meet the hypotheses of the statements on the matrix unit, gates, the pump, counters, barriers and handoff queues, each clause's. -/

set_option Elab.async false

namespace Sys2Proof.Tests
open Sys2Proof.Machine Sys2Proof.Claims

/-- Two rows of 32 elements as planes of one bit, at an offset of the cistern. -/
def planeRec (off : Nat) : List Dword :=
  ([2 ^ 63 + 7 * 2 ^ 52 + 2 ^ 47, 0x7e * 2 ^ 57 + off, 32 + 2 ^ 32 * 2, 1 + 2 ^ 32, 2 ^ 32 * 64, 0, 0, 1] : List Nat).map (BitVec.ofNat 64)

/-- Two rows of 32 binary32 elements, at an offset of the cistern. -/
def floatRec (off : Nat) : List Dword :=
  ([2 ^ 63, 0x7e * 2 ^ 57 + off, 32 + 2 ^ 32 * 2, 1 + 2 ^ 32, 4 + 2 ^ 32 * 128, 0, 0, 1] : List Nat).map (BitVec.ofNat 64)

def tidCtx : Ctx := { state := .active, desc := { pairs := 1 }, tids := [(0, planeRec 512), (5, planeRec 0), (6, floatRec 1024)] }

/-- Tile 3, of 8 rows of 128 bytes in the sump, is being filled. -/
def matTile : Tile := { state := .filling, prec := 0, fmt := 0, space := 1, rows := 8, rb := 128, base := 0, rd := 0, wr := 0, phys := true }
def matWorld : State := { world wg (({ wt with tiles := [(3, matTile)] })) with ctxs := [(1, tidCtx)] }
def mi : Issue := theIssue matWorld
def oMma : EOps := eo 3 5 5 2 8

def oct : Octet := { m0 := 0, n0 := 0, kb := 0, drow := 0, g := 0 }
def matOp : MatOp :=
  { ctx := 1, core := 0, group := 0, team := 0, accumulate := true, tidA := planeRec 0, tidB := planeRec 0, pa := 1, pb := 1, tileD := 3, dBase := 0, dRb := 128
    tileT := none, counter := none, octets := [oct], order := 0 }

theorem witness_MatrixOperations :
    Issues matWorld 0 false mi ∧ mi.gd ≠ 0 ∧ mmaTiles mi oMma matWorld = none ∧ mmaTids (matWorld.tid 1 5) (matWorld.tid 1 5) = 0 ∧
    (∀ l ∈ leaders mi.g mi.gd, octetFits (mi.t.tile (tileKey mi 3)) (mi.g.vlane 8 l).toNat (octetOf mi oMma l) = true) ∧
    (∀ x ∈ (leaders mi.g mi.gd).map (octetOf mi oMma), strayBlock mi.l (planeRec 0) ((rowsRead (planeRec 0) x.m0 8 x.kb).map (fun r => blockAddr (planeRec 0) r x.kb)) = none ∧
      strayBlock mi.l (planeRec 0) ((rowsRead (planeRec 0) x.n0 32 x.kb).map (fun r => blockAddr (planeRec 0) r x.kb)) = none) ∧
    leaders mi.g mi.gd ≠ [] ∧ octetsOn matWorld 0 + 1 ≤ 144 ∧ counterFull mi.g (EOps.counterAt oMma 8) = false ∧ WellFormed (.mma oMma) = true ∧ WellFormed (.mmaz oMma) = true ∧
    -- an octet that ends the row of the tile
    (let s := { matWorld with matops := [(7, matOp)] }
     lookup s.matops 7 = some matOp ∧ matOp.raced = [] ∧ (lookup s.teams matOp.team).isSome ∧ (lookup s.launches 0).isSome ∧ matTurn s matOp = true ∧ Memory.wf s.mem = true ∧ (oct.g + 1) * 128 ≤ matOp.dRb) := by
  refine ⟨issues_of ?_, ?_⟩ <;> decide +kernel

/-- Tiles 3 and 4 of one word; program 0 ends at once; `s20` holds an address of zeros. -/
def gateWorld : State :=
  let t : Tile := { state := .filling, prec := 0, fmt := 0, space := 1, rows := 1, rb := 4, base := 0, rd := 0, wr := 0, phys := true }
  world (let g := wg; { g with regs := { g.regs with s := g.regs.s.set 20 256 } })
    { wt with tiles := [(3, t), (4, { t with state := .ready, base := 64 })], gates := [(0, List.replicate 16 0)] }
def gi : Issue := theIssue gateWorld
def oGate : EOps := eo 3 4 255 255 255

def gateOp : GateOp :=
  { ctx := 1, core := 0, group := 0, team := 0, prog := List.replicate 16 0, rows := 1, cols := 1, tileD := 3, tileX := 4, tileY := none, tileZ := none
    dBase := (1, 0), xBase := (1, 64), yBase := (0, 0), zBase := (0, 0), stream := none, stateRec := [], initRec := [], counter := none, order := 0 }

def gotB (x : ReadOnce) (f : List Byte → State → Place → Bool) : Bool :=
  match x with
  | .got b s p => f b s p
  | _ => false

theorem witness_Gates :
    Issues gateWorld 0 false gi ∧ gi.gd ≠ 0 ∧
    (WellFormed (.gcfg (eo 148 148 255 255 255)) = true ∧
      gotB (readOnce gateWorld gi 256 64) (fun b s _ => s.group gi.key == some gi.g && lookup s.teams gi.g.team == some gi.t && gateStatus (wordsOf b 16) 0 false false == 0) = true) ∧
    (WellFormed (.gate oGate) = true ∧ gateTiles gi oGate (gateInputs oGate) = .go ∧ (lookup gi.t.gates (oGate.ctl.extractLsb' 0 3).toNat).isSome ∧
      (∀ n ∈ 3 :: gateInputs oGate, let t := gi.t.tile (tileKey gi n); t.fmt = 0 ∧ t.rows = 1 ∧ t.rb = 4) ∧ gateStream oGate = none ∧
      gatesOn gateWorld 0 < 17 ∧ counterFull gi.g (gateCounter oGate) = false) ∧
    (let s := { gateWorld with gateops := [(5, gateOp)] }
     oldestGate s 0 = some (5, gateOp) ∧ (lookup s.teams gateOp.team).isSome ∧ (lookup s.launches 0).isSome ∧ gateOp.stream = none ∧ Memory.wf s.mem = true ∧ gateOp.rows = 1 ∧ gateOp.cols = 1) := by
  refine ⟨issues_of ?_, ?_⟩ <;> decide +kernel

/-- A stream whose state is identifier 6. -/
def stream1 : List Dword := [BitVec.ofNat 64 (1 + 6 * 2 ^ 16), 0, 0, 0]

/-- A gate on stream 0: two rows of a column, whose second row starts at a mark; the word carried lies in the cistern, the tiles in the sump. -/
def streamGate : GateOp :=
  { gateOp with rows := 2, tileY := some 4, yBase := (1, 128), stream := some 0, stateRec := floatRec 1024 }
def streamGateWorld : State :=
  { gateWorld with
    gateops := [(5, streamGate)]
    ctxs := [(1, { tidCtx with streams := [(0, stream1.set 2 1)], streamOps := [(0, [.gate 5])] })] }

/-- Where element `j` of STATE lies, and where element (`row`, 0) of an entry. -/
def stateAt (j : Nat) : Nat := cisternKey 0 (1024 + 4 * j)
def gateAt (b : Nat × Nat) (row : Nat) : Nat := areaKey gateWorld.teams.head!.2 wl 0 b (4 * row)

theorem witness_Gates_stream :
    (let s := streamGateWorld
     oldestGate s 0 = some (5, streamGate) ∧ (lookup s.teams 0).isSome ∧ streamGate.raced = [] ∧ Memory.wf s.mem = true ∧ (streamOps s 1 0).head? = some (.gate 5) ∧
       strInitV (s.stream 1 0) = false ∧ strPos (s.stream 1 0) + 1 = max (strMark (s.stream 1 0)) (strPos (s.stream 1 0)) ∧ strReset (s.stream 1 0) = false) ∧
    (∀ b ∈ [(1, 0), (1, 64), (1, 128)], ∀ row < 2, ∀ row' < 2, (row = row' ∧ gateAt b row = gateAt (1, 0) row) ∨ (gateAt b row + 4 ≤ gateAt (1, 0) row' ∨ gateAt (1, 0) row' + 4 ≤ gateAt b row)) ∧
    tidExtent streamGate.stateRec 0 = 32 ∧
    (∀ j < 32, windowRun gateWorld.teams.head!.2 wl (tidElem streamGate.stateRec j 0 0 0 % 2 ^ 57) 4 (stateAt j) ∧
      (∀ row < 2, stateAt j + 4 ≤ gateAt (1, 0) row ∨ gateAt (1, 0) row + 4 ≤ stateAt j) ∧ ∀ k < 32, j ≠ k → stateAt j + 4 ≤ stateAt k ∨ stateAt k + 4 ≤ stateAt j) := by
  unfold windowRun
  and_intros <;> decide +kernel

/-- A card at 256 that copies 512 bytes inside the cistern, and one at 320 of no bytes; `s20` holds an address, `s24` a cistern address. -/
def pumpWorld (a : Nat) : State :=
  { world (let g := wg; { g with regs := { g.regs with s := (g.regs.s.set 20 (BitVec.ofNat 64 a)).set 24 (BitVec.ofNat 64 (0x7e * 2 ^ 57 + 4096)) } }) with
    ctxs := [(1, { tidCtx with streams := [(0, stream1)] })]
    mem := Memory.store (Memory.store [] 65536 (lineBytes 0)) (65536 + 256) (leBytes 8 (0x7e * 2 ^ 57) ++ leBytes 8 (0x7e * 2 ^ 57 + 512) ++ leBytes 8 512) }
def pi (a : Nat) : Issue := theIssue (pumpWorld a)
def oCpy : EOps := eo 255 148 255 255 255
def oStr : EOps := eo 255 152 255 255 255

theorem witness_JobIssue :
    Issues (pumpWorld 256) 0 false (pi 256) ∧ (pi 256).gd ≠ 0 ∧ pumpJobs (pumpWorld 256) 0 < 32 ∧
    (WellFormed (.cpy oCpy) = true ∧ cpyTiles (pi 256) oCpy = .go ∧
      gotB (readOnce (pumpWorld 256) (pi 256) 256 64) (fun b s _ => s.group 0 == some (pi 256).g && (cardOf b).detail (s.ctx 1) (pi 256).l false false == 0 && (cardOf b).aligned) = true ∧
      gotB (readOnce (pumpWorld 320) (pi 320) 320 64) (fun b s _ => s.group 0 == some (pi 320).g && (cardOf b).detail (s.ctx 1) (pi 320).l false false == 1) = true) ∧
    (let o := eo 5 6 255 255 255
     WellFormed (.plane o) = true ∧ planeFault (pumpWorld 0) (pi 0) o (planeRec 0) (floatRec 1024) = none ∧ planeTile o = none ∧ planeHandle (pumpWorld 0) (pi 0) (floatRec 1024) = true ∧
      counterFull (pi 0).g (planeCounter o) = false) ∧
    ((∀ b ∈ [false, true], strFault (pumpWorld 0) (pi 0) b 0 (0x7e * 2 ^ 57 + 4096) = none) ∧ counterFull (pi 0).g none = false ∧ WellFormed (.sexp oStr) = true ∧ WellFormed (.simp oStr) = true) ∧
    (WellFormed (.srst oCpy) = true ∧ streamOps (pumpWorld 0) 1 0 = [] ∧ strZeros ((pi 0).g.sreg 20).toNat = true ∧
      WellFormed (.srst { oCpy with ctl := 1024 }) = true ∧ strValid ((pumpWorld 0).stream 1 0) = true ∧
      WellFormed (.srst { oCpy with ctl := 1025 }) = true ∧ strValid ((pumpWorld 0).stream 1 1) = false) := by
  refine ⟨issues_of ?_, ?_⟩ <;> decide +kernel

/-- A job on core 0 for the team. -/
def job (k : JobKind) (st : JobState) (edges todo : List Nat) : Job :=
  { ctx := 1, core := 0, group := 0, team := 0, kind := k, card := 0, cardAt := 0, len := 1000, counter := none, reads := [], writes := [], edges, tileR := none, tileW := none
    units := 2, todo, order := 0, state := st }

def copyJob (st : JobState) (edges : List Nat) : Job := job (.copy 0 1024 0 0 0 0 true true) st edges [0, 1]

/-- A job that waits for none and one that waits; a copy of 1000 bytes to 1024; an export first on its stream. -/
theorem witness_JobProgress :
    (let s := { world with jobs := [(4, copyJob .waiting []), (5, copyJob .waiting [4])] }
     (lookup s.jobs 4).isSome ∧ (∀ i ∈ (copyJob .waiting []).edges, lookup s.jobs i = none) ∧ ∃ i ∈ (copyJob .waiting [4]).edges, lookup s.jobs i ≠ none) ∧
    (let j := copyJob .running []
     let s := { world with jobs := [(4, j)] }
     lookup s.jobs 4 = some j ∧ j.todo = 0 :: [1] ∧ j.opening = [] ∧ pumpNext s j.core = some j.order ∧ (lookup s.teams j.team).isSome ∧ (lookup s.launches 0).isSome ∧ 512 = min 512 (j.len - 512 * 0) ∧ (0 + j.len ≤ 1024) ∧ s.badLines = [] ∧ Memory.wf s.mem = true) ∧
    (let j := job (.sexp 0 (0x7e * 2 ^ 57) (floatRec 1024) []) .running [] [0]
     let s := { world with jobs := [(4, j)], ctxs := [(1, { tidCtx with streams := [(0, stream1)], streamOps := [(0, [.job 4])] })] }
     lookup s.jobs 4 = some j ∧ (streamOps s j.ctx 0).head? = some (.job 4)) := by
  refine ⟨⟨?_, ?_, 4, ?_⟩, ?_⟩ <;> decide +kernel

/-- A copy from page 1 to the cistern, plain or transposing rows of four elements of 4 bytes, which does its first sector with these after it; its card lies in the cistern. -/
def pageCopy (xp : Nat) (rest : List Nat) : Job :=
  { job (.copy 4096 (0x7e * 2 ^ 57 + 512) xp 4 64 128 false false) .running [] (0 :: rest) with len := 512, cardAt := 0x7e * 2 ^ 57 + 2048 }
def fromPlace (a : Nat) : Place := .page a (openLeaf 65536) 0
def toPlace (a : Nat) : Place := .sram (cisternKey 0 (a % 2 ^ 57))

theorem witness_JobProgress_copies :
    (∀ xp ∈ [0, 4], ∀ rest ∈ [[], [1]], let j := pageCopy xp rest
      let s := { world with jobs := [(4, j)] }
      lookup s.jobs 4 = some j ∧ j.state = .running ∧ j.opening = [] ∧ pumpNext s 0 = some j.order ∧ j.missing.filter (· != 0) = [] ∧ j.failCode = 0 ∧ j.raced = [] ∧
        groupReqs s (jobAgent 4) = [] ∧ (j.cardAt + 56) / 2 ^ 57 = 0x7e ∧ windowKey 0 wt wl ((j.cardAt + 56) % 2 ^ 57) = some (cisternKey 0 2104) ∧
        ∀ x ∈ sectorPieces j 0, jobPlace s j wt wl .read false x.1 = .ok (fromPlace x.1) ∧ s.badLine (65536 + x.1) = false ∧ leafLoc (openLeaf 65536) x.1 = .here (65536 + x.1) ∧
          jobPlace s j wt wl .write false x.2.1 = .ok (toPlace x.2.1) ∧ ∀ k < x.2.2, selfCovered j true (x.2.1 + k) = false) ∧
    2 ^ 64 ≤ cisternKey 0 2104 ∧
    -- a copy that is done waits for a peer, or for none
    (let s := { world with jobs := [(4, copyJob .done [])] }
     groupReqs s (jobAgent 4) = [] ∧ groupReqs { s with link := { reqs := [(0, { ask (.write [1]) 0 .nobody with group := jobAgent 4 })] } } (jobAgent 4) ≠ []) := by decide +kernel

/-- A plane job from rows of binary32, with a block to follow. -/
theorem witness_JobProgress_plane :
    (let j := job (.plane (floatRec 1024) (planeRec 0)) .running [] [0, 1]
     let s := { world with jobs := [(4, j)] }
     lookup s.jobs 4 = some j ∧ pumpNext s 0 = some j.order ∧ j.opening = [] ∧
       ∀ x ∈ planeSrc (floatRec 1024) 0, jobPlace s j wt wl .read false x.1 = .ok (toPlace x.1) ∧ s.badLine (cisternKey 0 (x.1 % 2 ^ 57)) = false) := by decide +kernel

/-- An export to 8192 of the cistern of a stream whose INIT is identifier 6 at another place, and an import of a record that passes, and of one that does not. -/
def strJob (imp : Bool) : Job :=
  job (if imp then .simp 0 (0x7e * 2 ^ 57 + 8192) (floatRec 1024) (floatRec 2048) else .sexp 0 (0x7e * 2 ^ 57 + 8192) (floatRec 1024) (floatRec 2048)) .running [] [0]
def strWorld (imp : Bool) (b : List Byte) : State :=
  { world with
    jobs := [(4, strJob imp)]
    mem := Memory.store (Memory.store [] 65536 (lineBytes 0)) (cisternKey 0 8192) b
    ctxs := [(1, { tidCtx with streams := [(0, stream1.set 0 (BitVec.ofNat 64 (1 + 6 * 2 ^ 16 + 2 ^ 39)))], streamOps := [(0, [.job 4])] })] }
def goodRecord : List Byte := leBytes 4 1 ++ leBytes 4 32 ++ leBytes 8 5 ++ leBytes 8 6 ++ [3]

theorem witness_JobProgress_streams :
    (∀ imp ∈ [false, true], let s := strWorld imp goodRecord
      lookup s.jobs 4 = some (strJob imp) ∧ (streamOps s 1 0).head? = some (.job 4) ∧ groupReqs s (jobAgent 4) = [] ∧ Memory.wf s.mem = true ∧ strInitV (s.stream 1 0) = true) ∧
    tidExtent (floatRec 1024) 0 = 32 ∧ tidExtent (floatRec 2048) 0 = 32 ∧ stateTid (floatRec 2048) = 0 ∧
    windowRun wt wl ((0x7e * 2 ^ 57 + 8192) % 2 ^ 57) (64 + 8 * 32) (cisternKey 0 8192) ∧
    (∀ x ∈ [1024, 2048], rowRun wt wl (floatRec x) 32 (fun j => cisternKey 0 (x + 4 * j))) ∧
    (∀ k < 32, ∀ i < 32, let at_ := fun (x j : Nat) => cisternKey 0 (x + 4 * j)
      (at_ 1024 k + 4 ≤ at_ 2048 i ∨ at_ 2048 i + 4 ≤ at_ 1024 k) ∧ (i ≠ k → ∀ x ∈ [1024, 2048], at_ x k + 4 ≤ at_ x i ∨ at_ x i + 4 ≤ at_ x k)) ∧
    (∀ b ∈ [(goodRecord, true), ([], false)], let value := fun at_ n => Memory.value (strWorld true b.1).mem (cisternKey 0 8192 + at_) n
      decide (value 0 4 = 1 ∧ value 24 1 < 4 ∧ value 25 39 = 0 ∧ value 4 4 = 32) = b.2) := by
  unfold rowRun windowRun
  and_intros <;> decide +kernel

theorem witness_Counters : Issues world 0 false wi ∧ wi.gd ≠ 0 ∧
    (∀ i ∈ [Instr.mbank (eo 148 255 255 255 255), .ccget (eo 2 255 255 255 255), .ccset (eo 255 255 255 255 255 0 5), .ccwait (eo 255 255 255 255 255 0 1)], WellFormed i = true) ∧
    (wi.g.regs.cc.getD 0 0).toNat < 1 ∧ partialTickets world wi.key 0 = [] ∧
    (let s := world { wg with regs := { wg.regs with cc := wg.regs.cc.set 0 1 } }
     Clear s ∧ 1 ≤ ((theIssue s).g.regs.cc.getD 0 0).toNat ∧ partialTickets s (theIssue s).key 0 = []) := by
  refine ⟨issues_world, ?_⟩
  decide +kernel

/-- `s20` holds a generation; the team has one group or two, and runs alone or on a pair. -/
def barWorld (gen live : Nat) (pair : Bool) : State :=
  world (let g := wg; { g with regs := { g.regs with s := g.regs.s.set 20 (BitVec.ofNat 64 gen) } }) { wt with bars := List.replicate 4 { arr := 0, gen := 7 }, live := BitVec.ofNat 64 live }
    { wl with record := { wl.record with pair } }
def bi (gen live : Nat) (pair : Bool) : Issue := theIssue (barWorld gen live pair)
def oBar : EOps := eo 255 255 255 255 255

/-- An arrival that completes the slot and one that does not; generations ended once, not at all, and 2^31 − 1 and 2^31 times. -/
theorem witness_Barriers :
    (∀ p ∈ [false, true], ∀ live ∈ [1, 3], Clear (barWorld 7 live p) ∧ (bi 7 live p).gd ≠ 0 ∧ (bi 7 live p).l.record.pair = p ∧
      barNo oBar < (bi 7 live p).l.record.bars ∧ (bi 7 live p).g.satTraps = false ∧ mustWait (barWorld 7 live p) 0 .ar true = false ∧ barNo oBar < (bi 7 live p).t.bars.length ∧
      (bi 7 live p).t.live.within ((0 : Mask).add ((bi 7 live p).g.inTeam (bi 7 live p).l)) = (live == 1)) ∧
    (∀ i ∈ [Instr.bar oBar, .barp oBar, .barv (eo 148 255 255 255 255), .barw (eo 255 148 255 255 255)], WellFormed i = true) ∧
    (∀ x ∈ [(6, 1), (7, 0), (7 + 2 ^ 32 - (2 ^ 31 - 1), 2 ^ 31 - 1), (7 + 2 ^ 31, 2 ^ 31)],
      (7 + 2 ^ 32 - ((bi x.1 1 false).g.sreg 20).toNat % 2 ^ 32) % 2 ^ 32 = x.2) := by decide +kernel

/-- Queue 0 has a ring of two entries at 4096, of which none, one or two are taken; tile 3 is ready. -/
def handWorld (tail : Nat) : State :=
  let t := { wt with tiles := [(3, tile3)], handoff := [(0, { offset := 4096, cap := 2, tail })] }
  let s := world wg t
  teamWrite t wl s 4096 (leBytes 4 2 ++ leBytes 4 0 ++ leBytes 4 tail)
where tile3 : Tile := { state := .ready, prec := 0, fmt := 0, space := 0, rows := 1, rb := 64, base := 0, rd := 0, wr := 0, phys := true }

def qi (tail : Nat) : Issue := theIssue (handWorld tail)

theorem witness_HandoffQueues :
    (∀ n ∈ [0, 1, 2], Clear (handWorld n) ∧ (qi n).gd ≠ 0 ∧ (lookup (qi n).t.handoff 0).isSome ∧
      ringField (handWorld n) (qi n) { offset := 4096, cap := 2 } 4 = 0 ∧ ringField (handWorld n) (qi n) { offset := 4096, cap := 2 } 8 = n ∧
      ((qi n).t.tile (tileKey (qi n) 3)).state = .ready ∧ stillHeld (handWorld n) [] = [] ∧
      upsetRings (handWorld n) (qi n) = false ∧ mustWait (handWorld n) 0 .ar true = false ∧ mustWait (handWorld n) 0 .rel true = false) ∧
    (∀ i ∈ [Instr.qpush (eo 255 3 255 255 255), .qpop (eo 148 255 255 255 255), .qcfg (eo 255 148 255 255 255 0 17)], WellFormed i = true) ∧
    -- queue 1 is not bound; a ring of one entry fits it
    lookup (qi 0).t.handoff 1 = none ∧ queueNo (eo 255 148 255 255 255 0 17) = 1 ∧ queueCap (eo 255 148 255 255 255 0 17) ≠ 0 ∧
    qcfgFault (qi 0).l ((qi 0).g.sreg 20).toNat (queueCap (eo 255 148 255 255 255 0 17)) = 0 ∧
    (∀ i ∈ [Instr.qpush (eo 255 3 255 255 255 0 1), .qpop (eo 148 255 255 255 255 0 1)], WellFormed i = true) := by decide +kernel

end Sys2Proof.Tests
end

