-- ==== Sys2Proof/Tests/WitnessHost.lean ====
section
/-! SUPPORT. Tests/WitnessHost: states and operands that meet the hypotheses of the statements on the host port, bring-up, a core's own steps and contexts, each clause's. -/

set_option Elab.async false

namespace Sys2Proof.Tests
open Sys2Proof.Machine Sys2Proof.Claims

/-- FWCMD, POOLCMD and FABCFG of the physical function; an image of kind 0 at host address 0, one of kind 1 at 512, a pool of queues 0 to 7 at 1024. -/
def hostWorld (fwop fwarg pool : Nat) : State :=
  { linkWorld with
    funcs := [(0, { fwcmd := command fwop 1, fwarg := BitVec.ofNat 64 fwarg, poolcmd := command 1 pool, poolarg := 1024, fabcfg := BitVec.ofNat 64 (2 ^ 16) })]
    mem := Memory.store (Memory.store [] (hostKey 512) (leBytes 4 0x4d464c43 ++ [1, 0, 0, 0] ++ leBytes 4 3 ++ leBytes 4 0)) (hostKey 1024) (leBytes 8 1 ++ leBytes 2 0 ++ leBytes 2 0 ++ leBytes 2 8 ++ leBytes 2 1)
    ctxs := [] }

theorem witness_HostPort_images :
    (let s := hostWorld 1 0 1
     fwIs s 0 1 = true ∧ s.sec.pending = none ∧ imageAccepted s (hostBytes s 0 256) (imageBody s 0 (hostBytes s 0 256)) = false) ∧
    -- one that the key verifies and whose digest is its body's
    (let s := hostWorld 1 512 1
     let h := hostBytes s 512 256
     Config.verify Config.caerrasKey (h.take 80) ((h.drop 80).take 114) = true → (h.drop 16).take 64 = Config.shake256 (imageBody s 512 h) →
       fwIs s 0 1 = true ∧ imageAccepted s h (imageBody s 512 h) = true ∧ field h 4 1 = 1) := by
  refine ⟨by decide +kernel, ?_⟩
  intro s h hv hd
  refine ⟨by decide +kernel, ?_, by decide +kernel⟩
  have a : (field h 0 4 == 0x4d464c43 && decide (1 ≤ field h 4 1) && decide (field h 4 1 ≤ 3) && zeros h 5 8 && zeros h 194 256) = true := by decide +kernel
  have b : decide (minVersion s (field h 4 1) ≤ field h 8 4) = true := by decide +kernel
  simp only [imageAccepted, hv, hd, a, b, Bool.and_true, beq_self_eq_true]

theorem witness_HostPort :
    (∀ x ∈ [(1, true), (64, true), (0, false), (65, false)], let s := hostWorld 1 0 x.1
      let p := poolOf (hostBytes s 1024 32)
      cmdIs (s.func 0).poolcmd 1 x.1 = true ∧ zeros (hostBytes s 1024 32) 16 32 = true ∧ p.first + p.count ≤ 8192 ∧ poolOverlaps s x.1 p = false ∧ poolBusy s x.1 p = false ∧
        decide (x.1 ≠ 0 ∧ x.1 ≤ 64) = x.2) ∧
    (let s := { hostWorld 1 0 1 with queues := [(9, { state := .idle })], funcs := (1, { poolFirst := 9, poolCount := 1 }) :: (hostWorld 1 0 1).funcs }
     poolBusy s 1 (poolOf (hostBytes s 1024 32)) = true) ∧
    (let s := { hostWorld 2 0 1 with sec := { linkWorld.sec with pending := some { version := 4, digest := [] } } }
     portsIdle s = true ∧ fwIs s 0 2 = true ∧ cmdNum (s.func 0).fwcmd = 1 ∧ (lookup s.sec.running 1).isSome ∧ minVersion s 1 = 0) ∧
    portsIdle { linkWorld with funcs := [(0, { exchange := some anExchange })] } = false ∧
    portsIdle { linkWorld with link := { linkState with groups := [(2, coll 2 0 [{ off := 0, number := 0, got := [(0, 7)], since := 0 }])] } } = false ∧
    (∀ x ∈ [(0, 4, 8, true), (2, 8, 8, true), (3, 4, 8, false), (0, 2, 8, false), (0, 8, 4, false), (0, 8, 2 ^ 41, false)],
      decide ((x.2.1 = 4 ∨ x.2.1 = 8) ∧ x.1 ≤ 2 ∧ x.2.2.1 % x.2.1 = 0 ∧ paOk x.2.2.1 = true) = x.2.2.2) ∧
    2 ^ 16 + 4096 ≤ 2 ^ 41 ∧ (∃ x : DirtyLine, x.ctxs = [] ∧ { linkWorld with link := { linkState with lnkCache := true, dirtyHost := [x] } }.link.dirtyHost = [x]) ∧
    cmdNum (command 2 0) = 0 ∧ cmdNum (command 2 4) = 4 ∧ fwIs (hostWorld 3 0 1) 0 3 = true ∧ fwIs (hostWorld 4 64 1) 0 4 = true ∧ 65 % 64 ≠ 0 ∧
    ((hostWorld 1 0 1).func 0).fabcfg.getLsbD 16 = true ∧ Memory.wf (hostWorld 1 0 1).mem = true ∧ paOk 0 = true ∧ paOk (2 ^ 41) = false := by
  and_intros <;> first | decide +kernel | exact ⟨{ line := 0, ctxs := [], old := [] }, rfl, rfl⟩

/-! ### Bring-up and placement -/

def waitingLaunch : Launch := { wl with started := false, teamsLeft := 1, record := { wl.record with entry := 16 } }

/-- A launch of one group of 16 items to place, on a device that has come up. -/
def placeWorld : State :=
  { world with groups := [], teams := [], launches := [(0, waitingLaunch)], sec := { hbm := 16 } }

/-- A generation as the device writes it, of a context with AUTO and these runs. -/
def gen1 (runs : List (Nat × Run)) : Generation :=
  let x : Ctx := { state := .checkpoint, desc := { auto := true, pairs := 1 } }
  let d := digestsOf x [] runs []
  { number := 1, ctx := x, launches := [], runs, pages := [], digests := d, signature := Config.sign (manifest 1 d) }

theorem witness_BringUpAndPlacement_generations :
    -- its run's slot is free, or another run stands there
    ∀ runs ∈ [[], [(3, (default : Run))]], let g := gen1 [(3, default)]
      let s := { State.reset with sec := { hbm := 16, flash := [(1, [g])] }, runs }
      16 ≤ s.sec.hbm ∧ lookup s.ctxs 1 = none ∧ newestValid s 1 = some g ∧ g.ctx.desc.auto = true ∧ ∀ r ∈ g.runs, lookup s.runs r.1 = runs.head?.map (·.2) := by
  have v : (gen1 [(3, default)]).valid = true := by simp [gen1, Generation.valid]
  have e : List.find? Generation.valid [gen1 [(3, default)]] = some (gen1 [(3, default)]) := by simp [List.find?, v]
  simp only [List.mem_cons, List.not_mem_nil, or_false, forall_eq_or_imp, forall_eq]
  exact ⟨⟨Nat.le_refl 16, rfl, e, rfl, by simp [gen1, lookup]⟩, Nat.le_refl 16, rfl, e, rfl, by simp [gen1, lookup]⟩

theorem witness_BringUpAndPlacement :
    (let s := placeWorld
     let l1 := { waitingLaunch with next := 1 }
     let gs := placedGroups waitingLaunch 0
     lookup s.launches 0 = some waitingLaunch ∧ (s.ctx 1).state = .active ∧ laterLaunch s waitingLaunch = false ∧ waitingLaunch.returned = [] ∧
       (diesOf (s.ctx 1).desc).length ≤ 1 ∧ waitingLaunch.next < waitingLaunch.teams ∧ gs = [0] ∧
       (match seatFor s 0 l1 0 with
        | some seat => noneHeld s 0 l1 0 && slotsOk s l1 seat gs [64 * seat.cores.headD 0 + 5]
        | none => false) = true) ∧
    (∀ x ∈ [(15, none), (12, none), (15, some (Part.stack 3)), (3, some (Part.die 1)), (16, none)], let s : State := { State.reset with sec := { hbm := x.1, failed := x.2 } }
      (decide (s.sec.failed ≠ none ∨ 16 ≤ s.sec.hbm)) = (x.2.isSome || x.1 == 16)) ∧
    (∀ g ∈ [wg, { wg with lanes := List.replicate 16 .done }], let s := world g
      s.group (groupKey 0 0) = some g ∧ (lookup s.launches g.launch).isSome ∧ (s.ctx g.ctx).state = .active ∧ mayRetire s 0 g = (g != wg) ∧
        wl.teamsLeft = 1 ∧ (∀ x ∈ s.groups, x.1 = groupKey 0 0)) := by decide +kernel

/-! ### A core's own steps -/

def coreWorld (c : Core) (clk : Nat) : State := { world with cores := [(0, c)], clk }

/-- Three groups of the core: slot 0 holds a partition and waits or not, slots 1 and 2 have none and have been able to issue since clk 7 and 9. -/
def pairWorld (stalled : Bool) : State :=
  let h := { wg with partition := some 0, stalled, staged := [{ reg := 1, dirty := true }] }
  { coreWorld { parts := [(0, 5)] } 256 with groups := [(0, h), (1, { wg with partition := none, since := 7 }), (2, { wg with partition := none, since := 9 })] }

theorem witness_CoreHousekeeping :
    (∀ x ∈ [(4096, true), (4095, false)], decide ((coreWorld { array := { idle := false, since := 0 } } x.1).core 0).array.idle = false ∧
      arrayBusy (coreWorld {} 0) 0 = false ∧ decide (0 + 4096 ≤ (coreWorld {} x.1).clk) = x.2) ∧
    (∀ k ∈ [1, 16], let a := ((coreWorld { array := { idle := false, step := k } } 256).core 0).array
      a.idle = false ∧ a.step ≠ 0 ∧ a.stepAt + 256 ≤ 256) ∧
    (∀ r ∈ [false, true], let s := world { wg with refetch := r }
      (State.issue { s with env := { s.env with cur := .group 0 0 } } 0 false).isSome ∧ (theIssue s).g.refetch = r ∧
        (match fetchLine s (theIssue s).g (lineOf (theIssue s).pc) with
         | .ok .. => true
         | _ => false) = true) ∧
    (let s := pairWorld true
     ∃ h x, s.group 0 = some h ∧ s.group 1 = some x ∧ h.partition ≠ none ∧ x.partition = none ∧ waits s h = true ∧ waits s x = false) ∧
    (let s := pairWorld false
     let here := s.groups.filter (fun y => y.1 / 64 == 0)
     longestHolder s (here.filter (fun y => y.2.partition.isSome)) 0 = some 0 ∧ (s.core 0).rotated + 256 ≤ s.clk ∧
       (∃ hold, s.group 0 = some hold ∧ hold.partition ≠ none) ∧ ∃ x ∈ here, x.2.partition = none ∧ waits s x.2 = false ∧ s.group x.1 = some x.2 ∧
         (∀ y ∈ here, y.2.partition = none → waits s y.2 = false → y ≠ x → x.2.since < y.2.since) ∧ (∀ y ∈ here, y.2.partition ≠ none → waits s y.2 = false)) ∧
    (let s := world { wg with evicted := true, saved := vectorBlock wg }
     (∃ g, s.group 0 = some g ∧ g.evicted = true ∧ coreWords s 0 + groupWords g ≤ mainFileWords ∧ (readRegs g.width g.saved).isSome)) ∧
    (let s := coreWorld {} 0
     arrayBusy { s with matops := [(0, { (default : MatOp) with core := 0 })] } 0 = true) ∧
    (let big := { wg with width := 64, regs := { wg.regs with v := List.replicate 128 (.g (List.replicate 64 1)) } }
     let g := { big with evicted := true }
     let s := { world with groups := (0, g) :: (List.range 8).map (fun k => (k + 1, big)) }
     s.group 0 = some g ∧ mainFileWords < coreWords s 0 + groupWords g) ∧
    (wg.evicted = false ∧ wg.pend = [] ∧ wg.staged = [] ∧ wg.integrity.bad = [] ∧ wg.integrity.dups = [] ∧ coreWords world 0 + dupWords world 0 + regWords wg (128 + 63) ≤ mainFileWords) := by
  refine ⟨?_, ?_, ?_, ⟨_, _, rfl, rfl, ?_, ?_, ?_, ?_⟩, ⟨?_, ?_, ⟨_, rfl, ?_⟩, ⟨1, { wg with partition := none, since := 7 }⟩, ?_, ?_, ?_, rfl, ?_, ?_⟩, ⟨_, rfl, ?_, ?_, ?_⟩, ?_⟩ <;> decide +kernel

/-! ### Contexts -/

/-- A context descriptor at host address 256, its error queue at 0x3000 of LOG2N 4; one that is malformed at 512. CTXCMD of a function stands at a command for context 2, whose owner and state are as given. -/
def cmdWorld (fn op arg owner : Nat) (state : CtxState) (slice : Nat := 0) : State :=
  { linkWorld with
    funcs := [(fn, { ctxcmd := command op 2, ctxdesc := BitVec.ofNat 64 arg, poolPairs := 1, poolCtxs := 1 })]
    mem := Memory.store (Memory.store (pageTable []) (hostKey 256) (leBytes 8 (2 ^ 20) ++ leBytes 2 5 ++ [0, 0] ++ leBytes 4 fn ++ leBytes 8 1 ++ List.replicate 56 0 ++ leBytes 8 0x3000)) 0x3000 [4]
    ctxs := if state = .free then [] else [(2, { owner, state, desc := { pairs := 1, slice } })]
    launches := []
    tlb := [{ ctx := 2, page := 3, leaf := BitVec.ofNat 64 (2 ^ 63 + 2 ^ 60 + 15 * 2 ^ 56 + 8192), leafAddr := 0 }] }

/-- Every state of a context, for its owner, for the physical function and for another. -/
theorem witness_ContextCommands :
    (∀ x ∈ [.killed, .opened, .active, .out, .saving, .stopped, .halted, .checkpoint], ∀ op ∈ [1, 2, 3, 4, 5], ∀ fn ∈ [0, 1], ∀ owner ∈ [0, 1, 2],
      let s := cmdWorld fn op 256 owner x
      cmdIs (s.func fn).ctxcmd op 2 = true ∧ (s.ctx 2).state = x ∧ ownsCtx s fn 2 false = (owner == fn) ∧ ownsCtx s fn 2 true = (owner == fn || fn == 0) ∧
        s.launches = [] ∧ resumeBreaks s 2 = false ∧ (s.ctx 2).image = none) ∧
    (∀ fn ∈ [0, 1], ∀ x ∈ [(256, true), (512, false)], let s := cmdWorld fn 1 x.1 0 .free
      cmdIs (s.func fn).ctxcmd 1 2 = true ∧ (s.ctx 2).state = .free ∧ x.1 % 256 = 0 ∧ s.badLine (hostKey x.1) = false ∧ descOk (hostBytes s x.1 256) = x.2 ∧
        poolOk s fn (descOf (hostBytes s 256 256)) = true ∧ ctxsFull s fn = false) ∧
    ((cmdWorld 0 2 0 0 .stopped 64).ctx 2).desc.slice ≠ 0 ∧
    -- what else stands or comes in the clk: nothing, a KILL of the physical function, an overdue launch
    (let s := cmdWorld 1 3 256 1 .active
     (∀ y ∈ s.funcs, cmdIs y.2.ctxcmd 4 2 = false) ∧ nextSlice s 2 = none ∧
       (let t := { s with funcs := (0, { ctxcmd := command 4 2 }) :: s.funcs }
        cmdIs (t.func 1).ctxcmd 3 2 = true ∧ ownsCtx t 1 2 true = true ∧ ∃ y ∈ t.funcs, cmdIs y.2.ctxcmd 4 2 = true ∧ ownsCtx t y.1 2 true = true) ∧
       (let t := { s with launches := [(0, { wl with ctx := 2, started := true, monitored := true, count := 5, record := { wl.record with deadline := 5 } })] }
        ∃ y ∈ t.launches, y.2.ctx = 2 ∧ overdue t y.2 = true)) ∧
    resumeBreaks { cmdWorld 0 2 0 0 .stopped with ctxs := [(1, { state := .active, desc := { pairs := 1 } }), (2, { state := .stopped, desc := { pairs := 1 } })] } 2 = true ∧
    (∀ x ∈ [(1, 1), (5, 5), (6, 6), (0, 0)], cmdOp (command x.1 2) = x.2 ∧ (command x.1 2).getLsbD 0 = true) := by decide +kernel

theorem witness_ContextCommands_create (fn : Nat) (h : fn = 0 ∨ fn = 1) :
    (let s := cmdWorld fn 1 256 0 .free
     let d := descOf (hostBytes s 256 256)
     (openErrq (State.setCtx { s with tlb := s.tlb.filter (fun e => e.ctx != 2) } 2 { owner := fn, desc := d, state := .opened, ckptClk := s.clk }) 2 d).isSome) := by
  rcases h with rfl | rfl <;> decide +kernel

end Sys2Proof.Tests
end

