-- ==== Sys2Proof/Tests/WitnessMemory.lean ====
section
/-! SUPPORT. Tests/WitnessMemory: states and operands that meet the hypotheses of the statements on memory, tiles and identifiers, each clause's. -/

set_option Elab.async false

namespace Sys2Proof.Tests
open Sys2Proof.Machine Sys2Proof.Claims

/-- The group with an address in `s20`. -/
def atGroup (a : Nat) : Group := { wg with regs := { wg.regs with s := wg.regs.s.set 20 (BitVec.ofNat 64 a) } }
def ai (a : Nat) : Issue := theIssue (world (atGroup a))

def oLd (size : Size) : MOps := mo (.v 4) (.s 20) .cistern size .plain .tm

/-- The last word of the window, and a word whose address is no multiple of 4. -/
theorem witness_Loads : Issues (world (atGroup 65532)) 0 false (ai 65532) ∧ WellFormed (.ld (oLd .b32)) = true ∧
    (∀ l, acts (ai 65532) l → MOps.address (ai 65532) (oLd .b32) l % 4 = 0 ∧
      resolve (world (atGroup 65532)) (ai 65532) .cistern .read false l (MOps.address (ai 65532) (oLd .b32) l) = .ok (.sram (cisternKey 0 65532))) ∧
    readAt (world (atGroup 65532)) (.sram (cisternKey 0 65532)) (cisternKey 0 65532) ∧ mustWait (world (atGroup 65532)) 0 .plain false = false ∧ (ai 65532).gd ≠ 0 ∧
    -- `ldb` of a block that ends with the window
    (Issues (world (atGroup 65472)) 0 false (ai 65472) ∧ WellFormed (.ldb (oLd .b32)) = true ∧ blockFits (ai 65472) .cistern (MOps.address (ai 65472) (oLd .b32) 0) 4 = true) ∧
    (theIssue world 0 true).gd = 0 := by
  refine ⟨issues_of ?_, ?_, all_acts ?_ ?_, ?_, ?_, ?_, ⟨issues_of ?_, ?_, ?_⟩, ?_⟩ <;>
    first
    | decide +kernel
    | (unfold readAt; decide +kernel)

theorem witness_Stores : Issues (world (atGroup 65532)) 0 false (ai 65532) ∧ WellFormed (.st (oLd .b32)) = true ∧ WellFormed (.stb (oLd .b32)) = true ∧
    (∀ l, acts (ai 65532) l → MOps.address (ai 65532) (oLd .b32) l % 4 = 0 ∧
      resolve (world (atGroup 65532)) (ai 65532) .cistern .write false l (MOps.address (ai 65532) (oLd .b32) l) = .ok (.sram (cisternKey 0 65532))) ∧
    plainAt (.sram (cisternKey 0 65532)) (cisternKey 0 65532) ∧ mustWait (world (atGroup 65532)) 0 .plain true = false ∧ Memory.wf (world (atGroup 65532)).mem = true ∧
    (∃ a, ∀ l, acts (ai 65532) l → a < cisternKey 0 65532 ∨ cisternKey 0 65532 + 4 ≤ a) := by
  refine ⟨issues_of ?_, ?_, ?_, all_acts ?_ ?_, rfl, ?_, ?_, 0, fun _ _ => .inl ?_⟩ <;> decide +kernel

theorem witness_MisalignedAccess : Issues (world (atGroup 65533)) 0 false (ai 65533) ∧ mustWait (world (atGroup 65533)) 0 .plain true = false ∧
    (∀ i ∈ [Instr.ld (oLd .b32), .st (oLd .b32), .atom { oLd .b32 with aop := 2 }, .red { oLd .b32 with aop := 2 }], WellFormed i = true) ∧
    acts (ai 65533) 0 ∧ MOps.address (ai 65533) (oLd .b32) 0 % 4 ≠ 0 := by
  refine ⟨issues_of ?_, ?_, ?_, ?_, ?_⟩ <;>
    first
    | decide +kernel
    | (unfold acts; decide +kernel)

def oTag (d : Opnd) : MOps := mo d (.s 20) .global .b8 .plain .tm

theorem witness_TagsAndFences : Issues (world (atGroup 4096)) 0 false (ai 4096) ∧ (ai 4096).gd ≠ 0 ∧ groupReqs (world (atGroup 4096)) 0 = [] ∧ mustWait (world (atGroup 4096)) 0 .rel true = false ∧
    (∀ i ∈ [Instr.prf (oTag .none), .fence (mo .none .none .generic .b8 .ar .dv), .ctag (oTag (.v 2)), .cins (oTag (.v 2)), .cinv (oTag .none)], WellFormed i = true) ∧
    (∀ l, acts (ai 4096) l → MOps.address (ai 4096) (oTag (.v 2)) l < 2 ^ 57 ∧ dataOf (ai 4096) (.v 2) 4 l % 2 ^ 32 ≤ 4095) ∧
    (theIssue world 0 true).gd = 0 := by
  refine ⟨issues_of ?_, ?_, ?_, ?_, ?_, all_acts ?_ ?_, ?_⟩ <;> decide +kernel

/-- A heap page of core 0's quadrant with a block at its start; `s20` holds an address or a size. -/
def heapWorld (a : Nat) : State :=
  { world (atGroup a) with ctxs := [(1, { state := .active, desc := { pairs := 1 }, heap := [{ va := 65536, pa := 0, blocks := [(0, 64)] }] })] }
def hi (a : Nat) : Issue := theIssue (heapWorld a)
def oHeap (d : Opnd) : MOps := mo d (.s 20) .generic .b64 .plain .tm

/-- Two lanes ask for 64 bytes beside the block that is there. -/
theorem witness_Heap_two :
    (let s := { heapWorld 64 with groups := [(0, { atGroup 64 with lanes := .run :: .run :: List.replicate 14 .done })] }
     Clear s ∧ (theIssue s).gd = 3 ∧ mustWait s 0 .plain false = false ∧ ∀ l ∈ [0, 1], MOps.address (theIssue s) (oHeap (.v 2)) l = 64) := by decide +kernel

/-- Sizes at 65536 and above it, a size that fits beside the block and a heap without pages, an allocated block, an address that starts none. -/
theorem witness_Heap : Issues (heapWorld 65536) 0 false (hi 65536) ∧ WellFormed (.halloc (oHeap (.v 2))) = true ∧ WellFormed (.hfree (oHeap .none)) = true ∧ (hi 65536).gd ≠ 0 ∧
    MOps.address (hi 65536) (oHeap (.v 2)) 0 ≤ 65536 ∧ 65536 < MOps.address (hi 65537) (oHeap (.v 2)) 0 ∧ mustWait (heapWorld 65536) 0 .rel true = false ∧ mustWait (heapWorld 65536) 0 .plain false = false ∧
    ((MOps.address (hi 64) (oHeap (.v 2)) 0 = 64 ∧ powerAtLeast 64 11 64 = 64 ∧ paStack 0 = coreStack 0 ∧ acts (hi 64) 0) ∧ ((world (atGroup 64)).ctx 1).heap = []) ∧
    (∀ l, acts (hi 65536) l → blockAt ((heapWorld 65536).ctx 1).heap (MOps.address (hi 65536) (oHeap .none) l) = true) ∧
    (Issues (heapWorld 65600) 0 false (hi 65600) ∧ acts (hi 65600) 0 ∧ MOps.address (hi 65600) (oHeap .none) 0 ≠ 0 ∧
      blockAt ((heapWorld 65600).ctx 1).heap (MOps.address (hi 65600) (oHeap .none) 0) = false) ∧
    (theIssue world 0 true).gd = 0 := by
  refine ⟨issues_of ?_, ?_, ?_, ?_, ?_, ?_, ?_, ?_, ?_, all_acts ?_ ?_, ⟨issues_of ?_, ?_, ?_, ?_⟩, ?_⟩ <;>
    first
    | decide +kernel
    | (unfold acts; decide +kernel)

def oAtom : MOps := { oLd .b32 with aop := 2 }

theorem witness_Atomics : Issues (world (atGroup 65532)) 0 false (ai 65532) ∧ WellFormed (.atom oAtom) = true ∧ WellFormed (.red oAtom) = true ∧ (ai 65532).gd ≠ 0 ∧
    mustWait (world (atGroup 65532)) 0 .plain true = false ∧
    (∀ l, acts (ai 65532) l → atomAccess (world (atGroup 65532)) (ai 65532) oAtom l = .ok (.sram (cisternKey 0 65532)) ∧ Place.inHost (.sram (cisternKey 0 65532)) = false) ∧
    plainAt (.sram (cisternKey 0 65532)) (cisternKey 0 65532) ∧ (world (atGroup 65532)).badLine (cisternKey 0 65532) = false ∧
    -- a word of host memory, for which CXL.cache is down and the operation one that PCIe has
    (let s := world (atGroup 0x3000)
     let o := mo (.v 4) (.s 20) .global .b32 .plain .tm 2
     Issues s 0 false (theIssue s) ∧ WellFormed (.atom o) = true ∧ o.aop.toNat ≤ 2 ∧
      ∃ p, atomAccess s (theIssue s) o 0 = .ok p ∧ p.inHost = true) := by
  refine ⟨issues_of ?_, ?_, ?_, ?_, ?_, all_acts ?_ ?_, rfl, ?_, issues_of ?_, ?_, ?_, .page 0x3000 (BitVec.ofNat 64 (2 ^ 63 + 2 ^ 60 + 15 * 2 ^ 56)) 0, ?_⟩ <;> decide +kernel

/-- Page 16 lies on a peer that port 0 reaches; the ring is at page 1, which `s61` holds. -/
def ringWorld (a : Nat) : State :=
  let g := { atGroup a with regs := { (atGroup a).regs with s := (atGroup a).regs.s.set 61 4096 } }
  { world g with
    tlb := { ctx := 1, page := 16, leaf := BitVec.ofNat 64 (2 ^ 63 + 2 ^ 61 + 15 * 2 ^ 56), leafAddr := 0, peer := some (7, 1) } :: wtlb
    link := { ports := [(0, { up := true, lanes := 8 })] } }
def oRatom : MOps := mo (.v 2) (.s 20) .global .b32 .plain .sy 2
def oRpoll : MOps := mo (.v 4) (.s 20) .global .b128 .plain .sy

/-- A request of a ring entry. -/
def ringReq : PeerReq := { seq := 0, dev := 7, port := 0, ports := 1, pa := 0, ask := .read 4, for_ := .ring 1 4096, ctx := 1, group := 0, cls := .plain, sentAt := 0 }

theorem witness_RemoteAtomics :
    Issues (ringWorld 65536) 0 false (theIssue (ringWorld 65536)) ∧ mustWait (ringWorld 65536) 0 .plain true = false ∧ (theIssue (ringWorld 65536)).gd ≠ 0 ∧
    ringAccess (ringWorld 65536) (theIssue (ringWorld 65536)) = .ok (.page 4096 (openLeaf 65536) 0) ∧ leafLoc (openLeaf 65536) 4096 = .here (65536 + 4096) ∧
    leafD (openLeaf 65536) = true ∧ WellFormed (.ratom oRatom) = true ∧ Memory.wf (ringWorld 65536).mem = true ∧
    (∀ l, acts (theIssue (ringWorld 65536)) l → ∃ p, ratomAccess (ringWorld 65536) (theIssue (ringWorld 65536)) oRatom l = .ok p) ∧
    -- `rpoll` of the last entry
    (let s := ringWorld 5104
     Issues s 0 false (theIssue s) ∧ WellFormed (.rpoll oRpoll) = true ∧ ∀ l, acts (theIssue s) l → rpollAccess s (theIssue s) oRpoll l = .ok (.page 5104 (openLeaf 65536) 0)) ∧
    plainAt (.page 5104 (openLeaf 65536) 0) (65536 + 5104) ∧
    -- a request at the timeout, and one clk before it
    (let s := { ringWorld 0 with link := { reqs := [(0, ringReq)] }, clk := 2 ^ 24 }
     lookup s.link.reqs 0 = some ringReq ∧ ringReq.for_ = .ring 1 4096 ∧ ringReq.sentAt + 2 ^ 24 ≤ s.clk ∧ 2 ^ 24 - 1 < ringReq.sentAt + 2 ^ 24 ∧
      translate s 1 4096 .write = .to (openLeaf 65536) 0 ∧ Memory.wf s.mem = true ∧ leafRed (openLeaf 65536) = false ∧ s.badLine (65536 + 4096) = false) := by
  refine ⟨issues_of ?_, ?_, ?_, ?_, ?_, ?_, ?_, ?_, all_acts ?_ ⟨.page 65536 (BitVec.ofNat 64 (2 ^ 63 + 2 ^ 61 + 15 * 2 ^ 56)) 0, ?_⟩, ⟨issues_of ?_, ?_, all_acts ?_ ?_⟩, ?_, ?_⟩ <;>
    first
    | decide +kernel
    | (unfold plainAt; decide +kernel)

/-- A team whose tile 3 is this one. -/
def tileTeam (t : Tile) : Team := { wt with tiles := [(3, t)] }
def ti (t : Tile) : Issue := theIssue (world (atGroup 0) (tileTeam t))

/-- Two rows of 64 bytes of binary32 elements at the window's start. -/
def tile64 (state : TileState) (rd wr : Nat) : Tile := { state, prec := 0, fmt := 0, space := 0, rows := 2, rb := 64, base := 0, rd, wr, phys := true }

theorem witness_TileEntries :
    (∀ t ∈ [({} : Tile), tile64 .filling 0 0, tile64 .ready 0 0, tile64 .ready 1 0, tile64 .draining 1 0], Clear (world (atGroup 0) (tileTeam t)) ∧ (ti t).gd ≠ 0 ∧ mustWait (world (atGroup 0) (tileTeam t)) 0 .plain true = false) ∧
    (∀ i ∈ [Instr.tcfg (eo 3 148 149 255 255), .tget (eo 148 3 255 255 255), .tset (eo 3 255 255 255 255), .tset (eo 3 255 255 255 255 0 1), .trel (eo 3 255 255 255 255)],
      WellFormed i = true) ∧
    tilesUsed (world (atGroup 0) (tileTeam {})) 0 < 256 ∧ tileWordOk 0 0 = true ∧ tileFits wl { state := .filling, rows := 1, rb := 64, base := 0, phys := true } = true :=
  by decide +kernel

def oTile : EOps := eo 4 3 5 255 255 0 (2 * 4096)

/-- Row 0; the last column, a column beyond the tile, and one that is no multiple of 4. -/
theorem witness_TileAccesses :
    (∀ t ∈ [tile64 .ready 0 0, tile64 .filling 0 0, tile64 .draining 1 0, ({} : Tile)], Clear (world (atGroup 0) (tileTeam t)) ∧ (ti t).gd ≠ 0 ∧ mustWait (world (atGroup 0) (tileTeam t)) 0 .plain true = false) ∧
    (∀ col ∈ [0, 60, 61, 64], WellFormed (.tld (eo 4 3 5 255 255 0 (2 * 4096 + col))) = true ∧ WellFormed (.tst (eo 4 3 5 255 255 0 (2 * 4096 + col))) = true) ∧
    opValue (ti (tile64 .ready 0 0)) (Opnd.ofByte 5) false 0 0 = 0 ∧ 60 % 4 = 0 ∧ 60 + 4 ≤ 64 ∧ 61 % 4 ≠ 0 ∧ 64 % 4 = 0 ∧ 64 < 64 + 4 ∧
    ((tile64 .ready 0 0).forRead = .go ∧ (tile64 .filling 0 0).forWrite = .go) := by decide +kernel

theorem witness_TensorIdentifiers : Issues (world (atGroup 0)) 0 false (ai 0) ∧ (ai 0).gd ≠ 0 ∧
    (∀ i ∈ [Instr.tidw (eo 255 148 255 255 255), .tidr (eo 148 255 255 255 255), .tidv (eo 148 5 255 255 255)], WellFormed i = true) ∧
    ((world (atGroup 0)).tid 1 255).length = 8 := by
  refine ⟨issues_of ?_, ?_⟩ <;> decide +kernel

end Sys2Proof.Tests
end

