-- ==== Sys2Proof/Tests/WitnessRuns.lean ====
section
/-! SUPPORT. Tests/WitnessRuns: states and operands that meet the hypotheses of the statements on run sequencers, each clause's. -/

set_option Elab.async false

namespace Sys2Proof.Tests
open Sys2Proof.Machine Sys2Proof.Claims

/-- The forward Euler tableau with a dense output of degree 1, its header as given, and its one matrix element. -/
def euler (head a : Nat) : List Word :=
  ([head, 0x3f666666, 0x3e4ccccd, 0x40a00000, 0, 0, 0, 0, 0, a, 0x3f800000, 0, 0x3f800000] : List Nat).map (BitVec.ofNat 32)

/-- Explicit, adaptive, and implicit. -/
def explicit : List Word := euler 0x1201 0
def adaptive : List Word := euler 0x1301 0
def implicit_ : List Word := euler 0x1211 0x3f800000

/-- One binary32 element at an offset of the cistern. -/
def oneRec (off : Nat) : List Dword := ([2 ^ 63, 0x7e * 2 ^ 57 + off, 1 + 2 ^ 32, 1 + 2 ^ 32, 0, 0, 0, 1] : List Nat).map (BitVec.ofNat 64)

/-- From 0 to 1 in steps of 0.1; the state is identifier 6, its companions 7 and 8, the stages 9 on. -/
def runRec (phase : RunPhase) (stage event : Nat) : RunRec :=
  { tab := 0, yid := 6, ycid := 7, ysid := 8, kid := 9, atid := 0, rtid := 0, mode := 0, t := 0, tc := 0, h := 0x3dcccccd, tend := 0x3f800000
    atol := 0x358637bd, rtol := 0, rhs := 2048, solve := 2048, event, maxSteps := 0, state := phase, stage }

def runIdRecs : List (Nat × List Dword) := (List.range 6).map (fun k => (6 + k, oneRec (1024 + 1024 * k)))

def aRun (tab : List Word) (phase : RunPhase) (stage : Nat := 1) : Run :=
  { ctx := 1, team := some 0, at_ := 256, atKey := some (65536 + 256), tab, rec_ := runRec phase stage 0, ids := runIdRecs, step := 0x3dcccccd, rest := false }

/-- A launch record of one item at 2048, and a run in slot 0; the first stage value of element 0 is 1. -/
def runMem : List Host.Cell :=
  Memory.store (Memory.store (Memory.store [] 65536 (lineBytes 0)) (65536 + 2056) (leBytes 4 1 ++ leBytes 4 1 ++ leBytes 4 1 ++ [16, 1])) (cisternKey 0 4096) (leBytes 4 0x3f800000)

def runWorld (r : Run) : State :=
  { world (let g := wg; { g with regs := { g.regs with s := g.regs.s.set 21 0 } }) with
    mem := runMem, runs := [(0, r)], ctxs := [(1, { state := .active, desc := { pairs := 1 }, tids := runIdRecs, tableaux := [(0, explicit)] })] }
def ri (r : Run) : Issue := theIssue (runWorld r)

def clean (x : Accesses) : Bool := x == { s := x.s }

def enters (x : Entered) : Bool :=
  match x with
  | .ok .. => true
  | _ => false

/-- A stage that is formed and launched. -/
def formsB (tab : List Word) : Bool :=
  let r := aRun tab .forming
  let x := formStage { r with ti := stageTime r 1 } 1 { s := runWorld r }
  busyRun (runWorld r) 0 == some r && clean x && enters (enterLaunch x.s 1 2048 (0, 0, 0) none (.sequencer 0) (some { run := 0, values := [] })) && launchesOf (runWorld r) 1 < 256

/-- A launch of a run that has ended, with faults or without, the team there or gone: the run may go on from it. -/
def landedB (f : RunLaunch) (phase : RunPhase) (tab : List Word) (faulted dead : Bool) : Bool :=
  let r := { aRun tab phase with flight := some f, landed := some faulted, dead }
  let r0 := { r with flight := none, landed := none }
  let u := newtonUpdate r0 { s := runWorld r }
  busyRun (runWorld r) 0 == some r && clean (newtonResidual r0 1 { s := runWorld r }) && clean u.2 && (State.readVA (runWorld r) 1 r.eblk 64).isOk &&
    fLe (norm u.1) (tabKappa tab)

/-- An estimate whose norm is within 1, or not. -/
def estimateB (kid : Nat) (within : Bool) : Bool :=
  let r := { aRun adaptive .combining with rec_ := { runRec .combining 0 0 with kid } }
  let e := mapComponents r (combineComponent r) { s := runWorld r }
  busyRun (runWorld r) 0 == some r && clean e.2 && fLe (norm e.1) fOne == within && clean (eachComponent r (commitComponent r) e.2)

theorem witness_RunStates_formed : (formsB explicit && formsB implicit_ && !tabImplicit explicit 1 && tabImplicit implicit_ 1) = true := by decide +kernel

theorem witness_RunStates_landed :
    (landedB .rhs .launched explicit false false && landedB .rhs .launched explicit true false && landedB .rhs .launched explicit false true) = true ∧
    (landedB .rhs .solving implicit_ false false && landedB .solve .solving implicit_ false false && landedB .solve .solving implicit_ true false &&
      landedB .solve .solving implicit_ false true) = true ∧
    (landedB (.event .opening) .opened explicit false false && landedB (.event .stepEnd) .accepted explicit false false &&
      landedB (.event .opening) .opened explicit true false && landedB (.event .stepEnd) .accepted explicit false true) = true := by
  refine ⟨?_, ?_⟩ <;> decide +kernel

theorem witness_RunStates_estimate : (estimateB 10 true && estimateB 9 false) = true := by decide +kernel

/-- What `s21` points at: a tableau at 512, words that are none at 1024, a run record at 3072, and one without a right-hand side at 3328. -/
def bookBytes (rhs : Nat) : List Byte :=
  [0, 6, 7, 8, 9, 0, 0, 0] ++ leBytes 4 0 ++ leBytes 4 0 ++ leBytes 4 0x3dcccccd ++ leBytes 4 0x3f800000 ++ leBytes 4 0x358637bd ++ leBytes 4 0 ++ leBytes 8 rhs

def bookWorld (a : Nat) (runs : List (Nat × Run)) : State :=
  let s := runWorld (aRun explicit .forming)
  { s with
    mem := Memory.store (Memory.store (Memory.store s.mem (65536 + 512) (explicit.flatMap (fun w => leBytes 4 w.toNat))) (65536 + 3072) (bookBytes 2048)) (65536 + 3328) (bookBytes 0)
    runs
    env := { s.env with draws := [5] }
    groups := [(0, { wg with regs := { wg.regs with s := wg.regs.s.set 21 (BitVec.ofNat 64 a) } })] }
def ki (a : Nat) (runs : List (Nat × Run)) : Issue := theIssue (bookWorld a runs)

/-- `ivtab`: a tableau and none. -/
theorem witness_RunInstructions_ivtab :
    WellFormed (.ivtab (eo 148 0 149 255 255)) = true ∧
    (∀ x ∈ [(512, true), (1024, false)], Clear (bookWorld x.1 []) ∧
      gotB (readRange (ki x.1 []) 1 x.1 32 (bookWorld x.1 [])) (fun b s _ => gotB (readRange (ki x.1 []) 64 x.1 (4 * tabLen (recordWords b)) s)
        (fun b' s' _ => s'.group 0 == some (ki x.1 []).g && (tabCode (recordWords b') == 0) == x.2)) = true) ∧ 513 % 64 ≠ 0 ∧ Clear (bookWorld 513 []) := by decide +kernel

/-- `ivopen`: a record that passes every check, and one that fails each. -/
def opensB (a tab : Nat) (f : State → List Byte → RunRec → Run → List Word → Bool) (runs : List (Nat × Run) := []) : Bool :=
  let s := bookWorld a runs
  let is := ki a runs
  decide (Clear s) && mustWait s 0 .rel true == false && gotB (readRange is 8 a 256 s) (fun b s1 p => s1.group 0 == some is.g && field b 48 8 == 0 &&
    (match lookup (s1.ctx 1).tableaux tab with
      | none => tab == 1
      | some w =>
        let c := runRecOf b
        f s1 b c { ctx := 1, core := 0, team := some 0, at_ := cardPlace a p, atKey := placeKey p, tab := w, rec_ := c, ids := (runIds w c).map (fun n => (n, s1.tid 1 n)), step := c.h } w))

theorem witness_RunInstructions_ivopen :
    WellFormed (.ivopen (eo 148 0 149 255 255)) = true ∧ WellFormed (.ivopen (eo 148 1 149 255 255)) = true ∧ 3073 % 256 ≠ 0 ∧
    opensB 3072 1 (fun _ _ _ _ _ => false) = true ∧ opensB 256 0 (fun _ b c _ _ => !recordOk b c) = true ∧
    opensB 3072 0 (fun s1 b c r w => recordOk b c && (runIds w c).all (runIdOk s1 1 true (s1.tid 1 c.yid)) && tolerancesOk r { s := s1 } == (true, { s := s1 }) && c.rhs != 0 &&
      !anyImplicit w && (freeRuns s1 0).length == 64 && (writeBack (loseWork { s1 with env := { s1.env with draws := [] } } { r with rec_ := { c with handle := 5 } }) { r with rec_ := { c with handle := 5 } }).isOk) = true ∧
    opensB 3328 0 (fun s1 b c r w => recordOk b c && (runIds w c).all (runIdOk s1 1 true (s1.tid 1 c.yid)) && tolerancesOk r { s := s1 } == (true, { s := s1 }) && c.rhs == 0) = true ∧
    opensB 3072 0 (fun s1 _ _ _ _ => freeRuns s1 0 == []) ((List.range 64).map (fun k => (k, aRun explicit .forming))) = true := by decide +kernel

/-- The runs the other instructions find under handle 0: none, at work, at rest before its first step, with a dense output, done, failed. -/
def someRuns : List (List (Nat × Run)) :=
  let r := aRun explicit .opened
  [[], [(0, aRun explicit .forming)], [(0, { r with rest := true })], [(0, { r with rest := true, rec_ := { r.rec_ with state := .accepted, dense := true, hn := 0x3f800000, theta := 0x3f800000 } })],
   [(0, { r with rest := true, rec_ := { r.rec_ with state := .done } })], [(0, { r with rest := true, rec_ := { r.rec_ with state := .failed } })]]

theorem witness_RunInstructions_others :
    (∀ i ∈ [Instr.ivgo (eo 148 149 255 255 255), .ivq (eo 4 149 2 3 255), .ivstat (eo 148 149 255 255 255), .ivwait (eo 148 149 255 255 255), .ivarg (eo 148 255 255 255 255),
      .ivclose (eo 148 149 255 255 255)], WellFormed i = true) ∧
    (∀ l ∈ someRuns, Clear (bookWorld 0 l) ∧ mustWait (bookWorld 0 l) 0 .rel true = false ∧ runOf (bookWorld 0 l) (ki 0 l) 0 = lookup l 0) ∧
    (∀ r ∈ someRuns.filterMap (fun l => lookup l 0), fEq r.rec_.t r.rec_.tend = false ∧ r.rec_.event = 0 ∧ tabDeg r.tab ≠ 0 ∧ (writeBack (bookWorld 0 []) r).isOk = true ∧
      clean (denseValue r (fDiv (fSub 0 r.rec_.tn) 0x3f800000) 0 { s := bookWorld 0 [] }).2 = true) ∧
    tabDeg (euler 0x1001 0) = 0 ∧ tabCode (euler 0x1001 0) = 0 := by decide +kernel

end Sys2Proof.Tests
end

