-- ==== Sys2Proof/Tests/WitnessQueues.lean ====
section
/-! SUPPORT. Tests/WitnessQueues: states and operands that meet the hypotheses of the statements on contexts' events, queues, packets, queue programs and the whole machine, each clause's. -/

set_option Elab.async false

namespace Sys2Proof.Tests
open Sys2Proof.Machine Sys2Proof.Claims

/-! ### Contexts -/

/-- Context 1 with a checkpoint interval of one tick, a slice table of two entries at 8192 (its instants rise or do not), an error queue at 12288 of pages of this device, and a launch with a deadline. -/
def evCtx (state : CtxState) : Ctx :=
  { state, desc := { pairs := 1, ckpt := 1, slice := 8192, nslice := 2, errq := 4096, save := 65536, saveLen := 65536 }, sliceAgreed := true
    errq := { addr := 4096, log2n := 4, waiting := [List.replicate 64 0] } }

def lateLaunch (count : Nat) : Launch := { wl with started := true, monitored := true, count, record := { wl.record with deadline := 5 } }

def evWorld (x : Ctx) (seconds clk : Nat) (launches : List (Nat × Launch)) : State :=
  { world with
    ctxs := [(1, x)], clk, env := { draws := [1, 2, 3, 2, 5, 2, 7] }, groups := [], teams := [], launches
    mem := Memory.store [] (65536 + 8192) (leBytes 6 5 ++ leBytes 4 0 ++ leBytes 2 2 ++ leBytes 4 0 ++ (leBytes 6 seconds ++ leBytes 4 0 ++ leBytes 2 2 ++ leBytes 4 0))
    evq := { addr := 64, log2n := 4, waiting := [List.replicate 64 0] } }

/-- The bytes at an address of context 1. -/
def bytesAt (s : State) (va n : Nat) : List Byte := match s.readVA 1 va n with
  | .ok (b, _) => b
  | .error _ => []

theorem witness_ContextEvents :
    (∀ x ∈ [.killed, .saving, .checkpoint, .active], let s := evWorld (evCtx x) 6 (2 ^ 24) []
      (s.ctx 1).state = x ∧ s.link.reqs = [] ∧ (∀ y ∈ s.ctxs, y.2.sliceDue = false) ∧ (s.ctx 1).desc.ckpt ≠ 0 ∧ (s.ctx 1).ckptClk + 1 * 2 ^ 24 ≤ s.clk ∧ (s.ctx 1).prior ≠ .active ∧
        s.funcs = [] ∧ s.launches = [] ∧
        (match nextSlice s 1 with
         | some (.ok (e, _)) => e.follows (s.ctx 1).sliceLast && decide (timeNow s < 3 * e.instant) && inUse (s.ctx 1)
         | some (.error _) => false
         | none => !inUse (s.ctx 1)) = true) ∧
    (evWorld (evCtx .active) 6 (2 ^ 24 - 1) []).clk < 0 + 1 * 2 ^ 24 ∧
    -- room for a generation
    (let s := evWorld (evCtx .checkpoint) 6 0 []
     flashUsed s.sec.flash + 65536 * (((flashOf s 1).head?.map (·.pages.length)).getD 0 + (devicePages s 1).length) + (imageBytes (s.ctx 1)).length ≤ flashBytes ∧ (s.ctx 1).image = none) ∧
    (∀ why ∈ [SaveFor.switch, .deadline 0, .checkpoint], let s := evWorld { evCtx .saving with saveFor := why } 6 0 []
      quiet s 1 = true ∧ askAreas s 1 = none ∧ ((takeImage s 1 (saveArea (s.ctx 1)).1 (saveArea (s.ctx 1)).2).2 ≤ 65536 ∨ why.isDump = true)) ∧
    quiet { evWorld (evCtx .saving) 6 0 [] with link := { reqs := [(0, ringReq)] } } 1 = false ∧
    (∀ c ∈ [(5, true), (4, false)], let s := evWorld (evCtx .active) 6 0 [(0, lateLaunch c.1)]
      (lookup s.launches 0).map (·.ctx) = some 1 ∧ (lookup s.launches 0).map (overdue s) = some c.2) ∧
    -- an entry whose instant has come, one clk before it, and an entry that does not follow the last
    (∀ x ∈ [(5 * 10 ^ 9, 0, true), (5 * 10 ^ 9 - 1, 0, true), (0, 5 * 10 ^ 9, false)], let s := { evWorld { evCtx .active with sliceLast := x.2.1 } 6 0 [] with link := { time := x.1 } }
     let e := sliceOf (bytesAt s 8192 16)
     inUse (s.ctx 1) = true ∧ (s.ctx 1).desc.slice ≠ 0 ∧ (s.ctx 1).sliceAgreed = true ∧ (s.ctx 1).sliceOff = false ∧ (s.readVA 1 8192 16).isOk = true ∧ s.funcs = [] ∧
       e.follows (s.ctx 1).sliceLast = x.2.2 ∧ e.ctx = 2 ∧ sharers s 1 = [1] ∧ decide (3 * e.instant ≤ timeNow s) = (x.1 == 5 * 10 ^ 9)) ∧
    -- tables that agree and rise, agree and do not, differ, and one that has not come
    (∀ x ∈ [(6, true), (5, false)], let s := evWorld (evCtx .active) x.1 0 []
      let b := bytesAt s 8192 32
      b.length = 32 ∧ tableAscends b 2 = x.2 ∧
        let s := { s with link := { slices := [(7, { bytes := b, complete := true }), (8, { bytes := [], complete := true })], ports := [(0, { up := true, lanes := 8 })] } }
        lookup s.link.slices 7 = some { bytes := b, complete := true } ∧ (lookup s.link.slices 8).map (·.bytes) ≠ some b ∧ lookup s.link.slices 9 = none ∧
          upPorts s (2 ^ 18 - 1) ≠ [] ∧ (s.ctx 1).sliceSent = false) ∧
    (let s := evWorld (evCtx .active) 6 0 []
     s.link.timeSynced = true ∧ (s.ctx 1).errq.waiting ≠ [] ∧
       (match errqFull s 1 with
        | .ok b => !b
        | .error _ => false) = true ∧
       (match errqWrite (s.setCtx 1 { s.ctx 1 with errq := { (s.ctx 1).errq with waiting := [] } }) 1 (List.replicate 64 0) with
        | .ok t => (t.ctx 1).errq.waiting == []
        | .error _ => false) = true ∧ evFull s = false) := by decide +kernel

/-- A save that has to ask a peer for the area of a handler. -/
theorem witness_ContextEvents_area :
    (let s := evWorld (evCtx .saving) 6 0 [(0, wl)]
     let s := { s with
       teams := [(0, wt)], tlb := (ringWorld 0).tlb, link := (ringWorld 0).link
       groups := [(0, { trapGroup with handler := some trapHandler, regs := { trapGroup.regs with s := trapGroup.regs.s.set 63 65536 } })] }
     (s.ctx 1).state = .saving ∧ quiet s 1 = true ∧ (askAreas s 1).isSome = true) := by decide +kernel

/-! ### Queues -/

/-- A packet of 64 bytes. -/
def packet (type flags : Nat) (b : List Byte) : List Byte := fit 64 ([BitVec.ofNat 8 type, BitVec.ofNat 8 flags, 0, 0] ++ leBytes 4 9 ++ b)

/-- Queue 3 of context 1: a ring at 0 whose slot 0 holds this packet; its status word goes to 4096. -/
def aQueue : Queue := { desc := { base := 0, log2n := 4, ctx := 1, status := 4096, progArea := 8192, nprog := 2 } }

def queueWorld (x : Queue) (slot : List Byte) (qcmd qarg : Nat) : State :=
  { runWorld (aRun explicit .forming) with
    mem := Memory.store (Memory.store runMem 65536 slot) (hostKey 64) (leBytes 8 0 ++ [4, 0] ++ leBytes 2 1 ++ [0, 0, 0, 0] ++ leBytes 8 4096)
    queues := [(3, x)]
    funcs := [(0, { qcmd := BitVec.ofNat 64 (1 + qcmd * 2 ^ 48 + 3 * 2 ^ 35), qarg := BitVec.ofNat 64 qarg })] }

theorem witness_Queues :
    -- the commands, in every state and for the owner and another function
    (∀ st ∈ [QueueState.disabled, .idle, .active, .blocked, .error, .draining], ∀ op ∈ [1, 2, 3], let s := queueWorld { aQueue with state := st } [] op 64
      qcmdIs s 0 op 3 = true ∧ queueOwner s 3 = 0 ∧ (s.queue 3).state = st ∧ (s.queue 3).packet = []) ∧
    (let s := { queueWorld { aQueue with state := .idle } [] 1 64 with funcs := [(2, { qcmd := BitVec.ofNat 64 (1 + 2 ^ 48 + 3 * 2 ^ 35) })] }
     qcmdIs s 2 1 3 = true ∧ queueOwner s 3 ≠ 2) ∧
    enableSt (queueWorld {} [] 1 64) 0 64 (hostBytes (queueWorld {} [] 1 64) 64 64) = 0 ∧ queueDescOk (hostBytes (queueWorld {} [] 1 64) 128 64) = false ∧
    ((queueWorld aQueue [] 1 64).writeVA 1 4096 (List.replicate 16 0)).isOk = true ∧
    (∀ a ∈ [(0, true), (15, true), (65551, true), (16, false), (2 ^ 17, false)], decide (a.1 < 2 ^ 17 ∧ a.1 % 65536 < aQueue.desc.size) = a.2) ∧
    -- fetching: a packet of the expected phase and of the other, one whose type is reserved, a slot that cannot be read
    (∀ x ∈ [(packet 0 1 [], true, none), (packet 0 0 [], false, none), (packet 7 1 [], true, some 1)], ∀ st ∈ [QueueState.idle, .active], let s := queueWorld { aQueue with state := st } x.1 0 0
      mayFetch s (s.queue 3) = true ∧ (s.readVA 1 (s.queue 3).slotVA 64).isOk = true ∧ ((field x.1 1 1).testBit 0 = (s.queue 3).phase) = (x.2.1 = true) ∧
        headerError { s.queue 3 with packet := x.1 } = x.2.2) ∧
    (let s := queueWorld { aQueue with state := .idle } (packet 0 1 []) 0 0
     ((moveQueue s 3 { s.queue 3 with state := .active, packet := packet 0 1 [], waitSince := 0 }).queue 3).state = .active) ∧
    ((queueWorld { aQueue with state := .idle, desc := { aQueue.desc with base := 2 ^ 30 } } [] 0 0).readVA 1 (2 ^ 30) 64).isOk = false ∧
    -- waiting for a unit, and blocked
    ((nextQueue (queueWorld { aQueue with state := .active, packet := packet 0 1 [] } [] 0 0)).map (·.1) = some 3) ∧ nextQueue (queueWorld aQueue [] 0 0) = none ∧
    (∀ h ∈ [false, true], isBlocked (queueWorld { aQueue with state := .blocked, hold := h } [] 0 0) 3 h = true) := by decide +kernel

/-! ### Packets -/

/-- A packet that a unit holds. -/
def held (p : List Byte) : Queue := { aQueue with state := .active, packet := p, unit := some 0 }

/-- The run's identifiers name global memory: a RUN packet has no team. -/
def packetWorld : State :=
  let g := fun (k : Nat) => (oneRec 0).set 1 (BitVec.ofNat 64 (8192 + 64 * k))
  { bookWorld 0 [] with ctxs := [(1, { state := .active, desc := { pairs := 1 }, tids := (List.range 6).map (fun k => (6 + k, g k)), tableaux := [(0, explicit)] })] }

/-- Each packet within its limits, and with a byte beyond them. -/
def packets : List (Nat × List Byte) :=
  [(0, []), (1, leBytes 8 2048), (2, leBytes 8 0 ++ leBytes 8 4096 ++ leBytes 8 64), (3, leBytes 8 4096 ++ leBytes 8 0 ++ leBytes 8 0 ++ [0]), (4, leBytes 8 4096 ++ leBytes 8 7 ++ [8, 1]),
   (5, leBytes 8 3072 ++ [0, 0]), (6, leBytes 8 4096 ++ leBytes 2 1 ++ leBytes 2 1)]

/-- Queue 3 runs a program of one instruction with a window of 4096 bytes; it has NVMe queues and buckets, and a packet of its own. -/
def progQueue (r : ProgRun) (p : List Byte) (serial : Nat := 0) : Queue :=
  { held p with
    desc := { aQueue.desc with nvme := 4096, buckets := 8192 }
    slots := [(1, { windows := [{ base := 0, len := 4096, read := true, write := true, nvme := true }], code := [0x80840003] })]
    regs := (List.range 16).map (fun k => BitVec.ofNat 64 (8 * k))
    run := some r, serial, work := [(0, .copy 7)] }

def run1 : ProgRun := { prog := 1 }

theorem witness_Packets :
    (∀ p ∈ packets, mayPerform (queueWorld (held (packet p.1 1 p.2)) [] 0 0) 3 p.1 = true ∧ (held (packet p.1 1 p.2)).byte 1 1 / 8 = 0 ∧
      mayPerform (queueWorld aQueue [] 0 0) 3 p.1 = false ∧ (held (packet p.1 9 p.2)).byte 1 1 / 8 ≠ 0 ∧ mayPerform (queueWorld (held (packet p.1 9 p.2)) [] 0 0) 3 p.1 = true) ∧
    (zeros (packet 0 1 []) 8 64 = true ∧ zeros (packet 0 1 [1]) 8 64 = false ∧ zeros (packet 1 1 (leBytes 8 2048)) 28 56 = true ∧ 2048 % 128 = 0) ∧
    (enters (enterLaunch (queueWorld (held []) [] 0 0) 1 2048 (0, 0, 0) none (.packet 3 9 0 false) none) = true ∧
      (match enterLaunch (queueWorld (held []) [] 0 0) 1 0 (0, 0, 0) none (.packet 3 9 0 false) none with
       | .bad _ => true
       | _ => false) = true ∧
      (match enterLaunch (queueWorld (held []) [] 0 0) 1 (2 ^ 30) (0, 0, 0) none (.packet 3 9 0 false) none with
       | .fault _ => true
       | _ => false) = true) ∧
    (let x : Ctx := { state := .active, desc := { pairs := 1 }, pins := [(0, { host := false, frames := [65536, 131072] })] }
     copyPlaceOk x (0x7c * 2 ^ 57) 64 = true ∧ copyPlaceOk x (0x7c * 2 ^ 57 + 65536) 65536 = true ∧ copyPlaceOk x (0x7c * 2 ^ 57 + 65536) 65537 = false ∧ copyPlaceOk x 0 64 = false) ∧
    ((queueWorld (held []) [] 0 0).readVA 1 4096 8).isOk = true ∧ ((queueWorld (held []) [] 0 0).readVA 1 (2 ^ 30) 8).isOk = false ∧
    ((queueWorld (held []) [] 0 0).writeVA 1 4096 (leBytes 8 7)).isOk = true ∧ ((queueWorld (held []) [] 0 0).readVA 1 4096 8 .atomic).isOk = true ∧
    (∀ x ∈ [(0, true), (1, false)], let s := packetWorld
      (match s.readVA 1 3072 256 with
       | .ok (b, s1) => field b 0 1 == 0 && field b 48 8 == 0 && (match openRun s1 1 0 0 none x.1 3072 none b ([], []) none with
         | .ok h s2 => x.2 && (lookup s2.runs h).isSome
         | .code .. => !x.2)
       | .error _ => false) = true) ∧
    imageOk false (List.replicate 128 0 ++ leBytes 4 0x80840001 ++ leBytes 4 0x80840003) 2 = false ∧ (encode .qdone).map (fun w => imageOk false (List.replicate 128 0 ++ leBytes 4 w.2) 1) = some true ∧
    (∀ y ∈ [(0, 0), (1, 5)], let s := queueWorld { held (packet 3 1 (leBytes 8 4096 ++ leBytes 8 y.2 ++ leBytes 8 255 ++ [0])) with state := .blocked, unit := none } [] 0 0
      isBlocked s 3 false = true ∧ (match actWaitval s (s.queue 3) with
        | .done _ => y.1 == 0
        | .blocked _ => y.1 == 1
        | _ => false) = true) ∧
    (let q := { held (packet 0 1 []) with state := .blocked, hold := true, unit := none, blockedAt := 0, run := some { prog := 1 } }
     let s := { queueWorld q [] 0 0 with clk := 16384 }
     isBlocked s 3 true = true ∧ q.blockedAt + 16384 ≤ s.clk ∧ (s.readVA 1 q.slotVA 64).isOk = true) ∧
    -- a held program whose window lies at 0: the bytes of its lines and the first beyond them
    (let q := { progQueue run1 (packet 4 1 []) with state := .blocked, hold := true, unit := none, blockedAt := 1 }
     let s := queueWorld q [] 0 0
     -- a write of the byte that stands there is a write too
     let t := s.writeVA 1 0 [0]
     isBlocked s 3 true = true ∧ q.woken = false ∧ s.clk < q.blockedAt + 16384 ∧ isBlocked { s with queues := [(3, { q with woken := true })] } 3 true = true ∧
       q.windows = [{ base := 0, len := 4096, read := true, write := true, nvme := true }] ∧
       (∀ k ∈ [(65536, true), (65536 + 4095, true), (65536 + 4096, false)], inWindow s 1 { base := 0, len := 4096, read := true, write := true, nvme := true } k.1 = k.2) ∧
       (match t with
        | .ok t => t.env.wrote.any (fun x => x.1 ≤ 65536 && 65536 < x.1 + x.2) && isBlocked t 3 true && decide (Memory.read s.mem 65536 = Memory.read t.mem 65536)
        | .error _ => false) = true) ∧
    (let c : CopyJob := { ctx := 1, queue := 3, src := 0, dst := 4096, len := 512, tag := 9, completion := 0, irq := true, die := 0, next := 1 }
     let s := { queueWorld (held []) [] 0 0 with copies := [(5, c)] }
     copyEnded s 5 c = true ∧ copyEnded s 5 { c with next := 0 } = false ∧ c.failCode = 0) ∧
    (let s := { queueWorld (held []) [] 0 0 with env := { cur := .hart 2 } }
     ctxOfAsid s 0 = some 1 ∧ ctxOfAsid s 1 = none ∧ launchesOf s 1 < 256) := by
  decide +kernel

/-! ### Queue programs -/

def progWorld (r : ProgRun) (p : List Byte) (serial : Nat := 0) : State :=
  let s := queueWorld (progQueue r p serial) [] 0 0
  { s with
    env := { cur := .queue 3 }
    -- one NVMe queue of 16 entries, and two buckets, of which the second holds (8, 16, 24)
    mem := Memory.store (Memory.store s.mem (65536 + 4096) (leBytes 8 4096 ++ leBytes 8 16 ++ leBytes 8 8192)) (65536 + 8192)
      (List.replicate 64 0 ++ leBytes 4 8 ++ leBytes 4 16 ++ leBytes 4 24 ++ leBytes 4 8 ++ leBytes 4 16 ++ leBytes 4 24 ++ leBytes 8 2048) }

def run2 : ProgRun := { prog := 1, started := true, count := 511 }

theorem witness_QueuePrograms_runs : Runs (progWorld run1 (packet 4 1 [])) 3 (progQueue run1 (packet 4 1 [])) run1 ∧
    Runs (progWorld run2 (packet 2 3 []) 1) 3 (progQueue run2 (packet 2 3 []) 1) run2 := by
  constructor <;> constructor <;> decide +kernel

/-- A window's last 8 bytes and the first that pass it; a bucket that holds the point and none; `qact` at its limit and below. -/
theorem witness_QueuePrograms :
    (let s := progWorld run1 (packet 2 3 []) 1
     s.env.cur = .queue 3 ∧ (s.queue 3).run = some run1 ∧ servesCtx s 1 = true ∧ (s.queue 3).fence = true ∧ (∃ y ∈ (s.queue 3).work, y.1 ≠ (s.queue 3).serial)) ∧
    (let s := progWorld { run2 with count := 512 } (packet 2 3 [])
     (s.queue 3).word.isSome = true ∧ (s.queue 3).run = some { run2 with count := 512 }) ∧
    (∀ x ∈ [(4088, true), (4089, false), (4096, false)], ((windowOfRun (progQueue run1 []) run1 0).map (fun w => decide (x.1 + 8 ≤ w.len ∧ (w.base + x.1) % 8 = 0))) = some x.2) ∧
    (let s := progWorld run1 (packet 2 1 [])
     let s0 := s.setQueue 3 (during (progQueue run1 (packet 2 1 [])) run1)
     (s0.readVA 1 4088 8).isOk = true ∧ (s0.writeVA 1 4088 (leBytes 8 1)).isOk = true ∧ (s0.readVA 1 (2 ^ 30) 8).isOk = false ∧ (s0.writeVA 1 (2 ^ 30) (leBytes 8 1)).isOk = false ∧
       (match s0.readVA 1 8192 1024 with
        | .ok (b, _) => field b 88 8 == 2048 && field b 24 8 == 0 && (List.range 3).all (fun k => field b (64 + 4 * k) 4 == 8 * (k + 1) && field b (76 + 4 * k) 4 == 8 * (k + 1))
        | .error _ => false) = true ∧
       (match s0.readVA 1 4096 32 with
        | .ok (e, s1) => field e 8 4 == 16 && field e 24 4 == 0 && (s1.readVA 1 64 64).isOk && (s1.writeVA 1 (4096 + 24) (leBytes 4 1)).isOk
        | .error _ => false) = true) ∧
    (∀ ra : Fin 16, ra = 1 ∨ ra = 0 → regOf (progQueue run1 []) 1 = 8 ∧ regOf (progQueue run1 []) 0 = 0) ∧
    -- the eighth `qact` of a packet and the ninth
    ({ run1 with acts := 7 }).acts < 8 ∧ 8 ≤ ({ run1 with acts := 8 }).acts ∧
    fenceHolds (progQueue run1 (packet 2 1 [])) = false ∧ fenceHolds (progQueue run1 (packet 2 3 []) 1) = true ∧ (progQueue run1 (packet 2 1 [])).type ∈ [1, 2, 4, 5] ∧
    (progQueue run1 (packet 0 1 [])).type ∉ [1, 2, 4, 5] ∧
    -- `qact` of a WRITEVAL, of one beyond its limits and of one to an address that is not mapped
    (∀ x ∈ [(0, leBytes 8 4096 ++ leBytes 8 7 ++ [8, 0]), (1, leBytes 8 4096 ++ leBytes 8 7 ++ [3, 0]), (2, leBytes 8 (2 ^ 30) ++ leBytes 8 7 ++ [8, 0])],
      let q := progQueue run1 (packet 4 1 x.2)
      let s := progWorld run1 (packet 4 1 x.2)
      (match act (s.setQueue 3 (during q run1)) 3 (during q run1) with
       | .done _ => x.1 == 0
       | .error .. => x.1 == 1
       | .fault _ => x.1 == 2
       | _ => false) = true) := by decide +kernel

/-! ### The whole machine -/

theorem witness_EncodeThenDecode : WellFormed (.qbeq { ra := 2, rb := 1, disp := 3 }) = true ∧ encode (.qbeq { ra := 2, rb := 1, disp := 3 }) = some (32, 0x80840003) ∧
    decodeTableWord 32 0x80840003 = some (.qbeq { ra := 2, rb := 1, disp := 3 }) := by decide +kernel

/-- The group of `world` issues `movi v1, 5`; its line is fetched, or held. -/
def stepWorld (line : Option Line) : State :=
  let s := world { wg with line }
  { s with mem := Memory.store [] 65536 (lineBytes 0x1100007fc040000000000005), env := { turns := [.issue 0] } }

def nextS (s : State) : State := (nextMove s).2

theorem witness_StepRunsIssued :
    (∀ line ∈ [none, some { addr := 0, bytes := lineBytes 0x1100007fc040000000000005 }], let s := stepWorld line
      nextMove s = (.issue 0, nextS s) ∧ candidates (nextS s) 0 = [0] ∧
        (let is := theIssue ((nextS s).as (.group 0 0))
         State.issue ((nextS s).as (.group 0 0)) 0 false = some is ∧ is.g.refetch = false ∧ is.g.entering = false ∧ pcOk is.pc = true ∧ is.pc = 0 ∧ is.g.line = line ∧
           (match fetchLine ((nextS s).as (.group 0 0)) is.g (lineOf is.pc) with
            | .ok b _ _ => b == lineBytes 0x1100007fc040000000000005 && lineParity b
            | _ => false) = true)) ∧
    (let b := lineBytes 0x1100007fc040000000000005
     wordZeros (lineWord b) = true ∧ wordParity (lineWord b) = true ∧ slotParity b (slotOf 0) = true ∧
       decodeTableWord 96 (lineSlot b (slotOf 0)) = some (.movi { d := .v 1, a := .none, pred := 0, neg := false, ty := .i32, imm := 5 }) ∧
       illegalHere (theIssue ((nextS (stepWorld none)).as (.group 0 0))) (lineSlot b (slotOf 0)) = false) ∧
    (let s := stepWorld none
     s.jobs = [] ∧ s.matops = [] ∧ anyHeld s = false) ∧
    (match exec (.movi { d := .v 1, a := .none, pred := 0, neg := false, ty := .i32, imm := 5 }) ((nextS (stepWorld (some { addr := 0, bytes := lineBytes 0x1100007fc040000000000005 }))).as (.group 0 0)) with
      | .next t => decide (coreWords t 0 + dupWords t 0 ≤ mainFileWords) && !t.env.held
      | _ => false) = true ∧
    (let s := { progWorld run1 (packet 2 1 []) with env := { turns := [.interp 0] } }
     nextMove s = (.interp 0, nextS s) ∧ (unitQueue (nextS s) 0).map (·.1) = some 3 ∧ ((nextS s).queue 3).state = .active ∧ ((nextS s).queue 3).word = some 0x80840003) ∧
    (let s := { progWorld { run1 with pc := 1 } (packet 2 1 []) with env := { turns := [.interp 0] } }
     (unitQueue (nextS s) 0).map (·.1) = some 3 ∧ ((nextS s).queue 3).word = none ∧ ((nextS s).queue 3).run.isSome = true) ∧
    (let s := { withHart State.reset 0x0002950b with env := { turns := [.hart 0] } }
     nextMove s = (.hart 0, nextS s) ∧ (lookup (nextS s).sec.running 2).isSome = true ∧ ((nextS s).hart 0).word = some 0x0002950b ∧ decodeSpawn 0x0002950b = some (.spawn 10 5)) ∧
    -- an instruction of a hart that is not the manual's
    decodeSpawn 0x00000013 = none ∧
    (let s := { world with env := { turns := [.event .reset] } }
     nextMove s = (.event .reset, nextS s) ∧ encode .reset = none) := by decide +kernel

theorem witness_StepKeepsMemoryCanonical : Memory.wf (stepWorld none).mem = true ∧ (match step (stepWorld none) with
    | .next _ => true
    | _ => false) = true := by decide +kernel

end Sys2Proof.Tests
end

