-- ==== Sys2Proof/Tests/WitnessRegisters.lean ====
section
/-! SUPPORT. Tests/WitnessRegisters: states and operands that meet the hypotheses of the statements on register instructions, each clause's. -/

set_option Elab.async false

namespace Sys2Proof.Tests
open Sys2Proof.Machine Sys2Proof.Claims

def oBin (t : Ty) : VOps := vo (.v 2) (.v 4) (.v 6) .none t
def oUn (t : Ty) : VOps := vo (.v 2) (.v 4) .none .none t
def oTri (t : Ty) : VOps := vo (.v 2) (.v 4) (.v 6) (.v 8) t

/-- Each of these is well formed. -/
def allFit (l : List Instr) : Prop := ∀ i ∈ l, WellFormed i = true

theorem witness_ElementArithmetic : Issues world 0 false wi ∧ unchained (oTri .i8x4) ∧
    allFit [.add (oBin .i32), .sub (oBin .i64), .mul (oBin .i16x2), .mad (oTri .i8x4), .abs (oUn .i32), .neg (oUn .i64)] :=
  ⟨issues_world, ⟨rfl, rfl, rfl, rfl⟩, by unfold allFit; decide +kernel⟩

/-- A quotient that the type holds, one that it does not (the least number by −1), and a divisor 0. -/
theorem witness_HighProductAndDivision : Issues world 0 false wi ∧ unchained (oBin .i32) ∧
    allFit [.mulhi (oBin .i32), .div (oBin .i32), .rem (oBin .i32)] ∧
    ((7 : Int).tdiv (-2) ≤ greatestOf .i32 ∧ greatestOf .i32 < (leastOf .i32).tdiv (-1)) :=
  ⟨issues_world, ⟨rfl, rfl, rfl, rfl⟩, by unfold allFit; decide +kernel, by decide +kernel⟩

theorem witness_MinMaxLogicAndShifts : Issues world 0 false wi ∧ unchained (oBin .i32) ∧
    allFit [.min (oBin .i8x4), .max (oBin .i64), .and (oBin .b32), .or (oBin .n64), .xor (oBin .b32), .andn (oBin .b32), .shl (oBin .i64), .shr (oBin .n32),
      .sar (oBin .i32), .rot (oBin .n64)] :=
  ⟨issues_world, ⟨rfl, rfl, rfl, rfl⟩, by unfold allFit; decide +kernel⟩

theorem witness_CountsAndBitFields : Issues world 0 false wi ∧ unchained (oBin .i32) ∧
    allFit [.clz (oUn .n64), .popc (oUn .b32), .brev (oUn .n64), .bfe (oBin .i32), .bfi (oTri .b32)] :=
  ⟨issues_world, ⟨rfl, rfl, rfl, rfl⟩, by unfold allFit; decide +kernel⟩

theorem witness_CompareSelectAndMove : Issues world 0 false wi ∧
    allFit [.cmp { vo (.p 1) (.v 2) (.v 3) .none .i32 with sat := true, rnd := .rz }, .sel (vo (.v 1) (.v 2) (.v 3) (.p 1) .b32), .mov (vo (.v 2) (.v 4) .none .none .n64),
      .mov (vo (.s 2) (.s 4) .none .none .b32), .mov (vo .lsp (.v 4) .none .none .i64), .mov (vo .gs (.s 4) .none .none .n64), .lea (vo (.v 2) (.v 4) (.v 6) .none .n64 3),
      .movi { d := .v 2, a := .none, pred := 0, neg := false, ty := .i64, imm := 5 }] ∧
    world.matops = [] ∧ world.gateops = [] ∧ world.jobs = [] :=
  ⟨issues_world, by unfold allFit; decide +kernel, rfl, rfl, rfl⟩

theorem witness_FloatElements : Issues world 0 false wi ∧ unchained (oTri .f32) ∧
    allFit [.fadd (oBin .f32), .fsub (oBin .bf16x2), .fmul (oBin .f16x2), .fma (oTri .f32), .fmin (oBin .f32), .fmax (oBin .f32), .fround (oUn .f32),
      .fscale (oBin .f32), .fscale (vo (.v 1) (.v 2) .none .none .f32 (2 ^ 25 - 3)), .fclass (oUn .f32), .fdot2 (oTri .bf16x2)] :=
  ⟨issues_world, ⟨rfl, rfl, rfl, rfl⟩, by unfold allFit; decide +kernel⟩

theorem witness_FloatFunctions : Issues world 0 false wi ∧ unchained (oBin .f32) ∧
    allFit [.fdiv (oBin .f32), .fsqrt (oUn .f32), .frcp (oUn .f32), .frsq (oUn .f32), .fexp2 (oUn .f32), .flog2 (oUn .f32), .fsin (oUn .f32), .fcos (oUn .f32)] :=
  ⟨issues_world, ⟨rfl, rfl, rfl, rfl⟩, by unfold allFit; decide +kernel⟩

theorem witness_FloatCompare : Issues world 0 false wi ∧ unchained (oBin .f32) ∧ WellFormed (.cmp { vo (.p 1) (.v 2) (.v 3) .none .f32 with sat := true, rnd := .ru }) = true :=
  ⟨issues_world, ⟨rfl, rfl, rfl, rfl⟩, by decide +kernel⟩

theorem witness_ConversionAndPacking : Issues world 0 false wi ∧ unchained (oBin .f32) ∧ cvtST (vo (.v 1) (.v 2) .none .none .f32 1) = some .i32 ∧
    allFit [.cvt (vo (.v 1) (.v 2) .none .none .f32 1), .cvtPlane (vo (.v 1) (.v 2) .none .none .b32 (5 + 64 * 14)), .pk (oBin .i16x2),
      .unpk (oBin .i16x2), .mxun (vo (.v 1) (.v 2) (.v 3) .none .bf16x2), .tern (vo (.v 2) (.v 4) .none .none .e4m3x4)] ∧
    wi.g.width = 16 ∧ cvtP (vo (.v 1) (.v 2) .none .none .b32 (5 + 64 * 14)) ≤ 14 := by
  refine ⟨issues_world, ⟨rfl, rfl, rfl, rfl⟩, ?_, ?_, ?_, ?_⟩ <;>
    first
    | decide +kernel
    | (unfold allFit; decide +kernel)

theorem witness_ReductionsAndScans : Issues world 0 false wi ∧ unchained (oUn .f32) ∧
    allFit [.redadd (oUn .f32), .redmax (oUn .f32), .redmin (oUn .f32), .scan (oUn .f32), .redadd (oUn .i32), .redmax (oUn .n32), .redmin (oUn .i32),
      .scan (vo (.v 1) (.v 2) .none .none .i32 1)] :=
  ⟨issues_world, ⟨rfl, rfl, rfl, rfl⟩, by unfold allFit; decide +kernel⟩

/-- Lists of capacity 2 with no entry at the window offsets 0 and 64, which `s10` and `s11` hold. -/
def listWorld : State :=
  { world { wg with regs := { wg.regs with s := wg.regs.s.set 11 64 } } with
    mem := Memory.store (Memory.store [] (cisternKey 0 4) (leBytes 4 2)) (cisternKey 0 68) (leBytes 4 2) }

def oTopk : VOps := vo .none (.v 1) (.v 2) (.s 10) .f32
def oTopm : VOps := vo .none (.s 10) (.s 11) .none .f32

theorem witness_TopListsTakeEntries : Issues listWorld 0 false (theIssue listWorld) ∧ unchained oTopk ∧ (theIssue listWorld).gd ≠ 0 ∧
    allFit [.topk oTopk, .topm oTopm] ∧ mustWait listWorld 0 .ar true = false ∧
    checkList listWorld (theIssue listWorld) (opValue (theIssue listWorld) oTopk.c false 0 0) = .ok 2 [] ∧
    checkList listWorld (theIssue listWorld) (opValue (theIssue listWorld) oTopm.a false 0 0) = .ok 2 [] ∧
    checkList listWorld (theIssue listWorld) (opValue (theIssue listWorld) oTopm.b false 0 0) = .ok 2 [] := by
  refine ⟨issues_of ?_, ⟨rfl, rfl, rfl, rfl⟩, ?_, ?_, ?_, ?_, ?_, ?_⟩ <;>
    first
    | decide +kernel
    | (unfold allFit; decide +kernel)

/-- Two binary32 lists in order. -/
theorem witness_TopListsStaySorted :
    let l : List Scored := [(0x3f800000, 1), (0x3f800000, 2), (0x40000000, 0)]
    l.Pairwise (fun x y => ¬ precedes y x) ∧ l.length ≤ 3 ∧ ∀ x ∈ l, (binary32.decode x.1).isNan = false := by decide +kernel

/-- A binary32 identifier record of 32 by two elements in the cistern, elements 4 bytes apart. -/
def rowRec : List Dword :=
  ([2 ^ 63, 0x7e * 2 ^ 57, 32 + 2 ^ 32 * 2, 1 + 2 ^ 32, 4 + 2 ^ 32 * 128, 0, 0, 1] : List Nat).map (BitVec.ofNat 64)

def distWorld : State := { world with ctxs := [(1, { state := .active, desc := { pairs := 1 }, tids := [(0, rowRec)] })] }
def oDist : VOps := vo (.v 1) (.v 2) (.v 3) .none .f32

theorem witness_DistancesOfRows : Issues distWorld 0 false (theIssue distWorld) ∧ unchained oDist ∧ WellFormed (.dist oDist) = true ∧
    tidCode (distWorld.tid 1 0) false = 0 ∧ distFits (distWorld.tid 1 0) (distWorld.tid 1 0) = true ∧ mustWait distWorld 0 .plain false = false ∧
    (∀ l, acts (theIssue distWorld) l → ¬ (tidExtent (distWorld.tid 1 0) 1 ≤ opValue (theIssue distWorld) oDist.a false 0 l) ∧
      ∀ a ∈ rowElems (distWorld.tid 1 0) (opValue (theIssue distWorld) oDist.a false 0 l), elemAccess distWorld (theIssue distWorld) l 4 a = .ok (.sram (cisternKey 0 (a % 2 ^ 57))) ∧
        distWorld.badLine (cisternKey 0 (a % 2 ^ 57)) = false) := by
  refine ⟨issues_of ?_, ⟨rfl, rfl, rfl, rfl⟩, ?_, ?_, ?_, ?_, all_acts ?_ ?_⟩ <;> decide +kernel

/-- A launch whose register v6 is a chain register. -/
def chainLaunch : Launch := { wl with record := { wl.record with chain := [{ reg := 6, maxk := 1 }] } }
def chainWorld : State := world wg wt chainLaunch

theorem witness_LaneInstructions : Issues chainWorld 0 false (theIssue chainWorld) ∧
    allFit [.vote (vo (.p 1) (.p 2) .none .none .b32 2), .ballot (vo (.s 2) (.p 2) .none .none .b32), .shfl (vo (.v 1) (.v 2) (.v 3) .none .b32 3),
      .lanes (vo (.v 1) .none .none .none .b32), .chst (vo (.v 1) (.v 6) .none .none .b32 2), .shape (vo (.v 1) (.v 6) .none .none .b32)] ∧
    chainSlot (theIssue chainWorld).l 6 = some (0, { reg := 6, maxk := 1 }) ∧
    (∀ t ∈ [Ty.f32, .i32], unchained (oUn t) ∧ allFit [.redadd (oUn t), .redmax (oUn t), .redmin (oUn t), .scan (oUn t)]) := by
  refine ⟨issues_of ?_, ?_, ?_, ?_⟩ <;>
    first
    | decide +kernel
    | (unfold allFit; decide +kernel)
    | (unfold allFit unchained; decide +kernel)

def oPub : VOps := { vo (.v 6) .none .none .none .b32 with pub := true }

/-- A group with one result on its way. -/
def pendGroup (part : Nat) : Group :=
  { wg with pend := [{ seq := 0, scalar := false, reg := 3, vec := .u 5, sca := 0, part := 1, left := part :: List.replicate 15 0, arrived := false }] }

/-- `add v1, v6~1, v3`, and the same with `v6!` for its destination. -/
def oRead : VOps := { vo (.v 1) (.v 6) (.v 3) .none .i32 with ka := 1 }
def oReadPub : VOps := { oRead with d := .v 6, pub := true }

/-- The launch once item 0 has made this many reads. -/
def readLaunch (n : Nat) : Launch := { chainLaunch with chain := [(chainKey 0 0, { reads := n, pubs := [] })] }

/-- With lane 1 running, whose value item 0 has not published; with a write to a peer on its way; in a handler. -/
def waitWorld : State := world { wg with lanes := .wait :: .run :: List.replicate 14 .done } wt chainLaunch
def busyWorld : State := { chainWorld with link := { chainWorld.link with reqs := [(0, {
  seq := 0, dev := 7, port := 0, ports := 1, pa := 0, ask := .write [1], for_ := .nobody, ctx := 1, group := 0, cls := .plain, sentAt := 0 })] } }
def handlerGroup : Group := { wg with handler := some { lanes := 1, cause := 32, states := wg.lanes, lpcs := wg.regs.lpc, sets := wg.regs.j } }

theorem witness_ArrivingValues_chains :
    allFit [.add oRead, .add oReadPub, .add { oRead with ka := 2 }, .add { oRead with a := .v 7 }, .add { oRead with d := .v 6, pub := true, ka := 0 }] ∧
    (∀ l ∈ [chainLaunch, readLaunch 65534, readLaunch 65535], Clear (world wg wt l) ∧ chainSlot l 6 = some (0, { reg := 6, maxk := 1 }) ∧
      (theIssue (world wg wt l)).gd ≠ 0 ∧ mustWait (world wg wt l) 0 .rel true = false) ∧
    (∀ n ∈ [65534, 65535], readsOf (theIssue (world wg wt (readLaunch n))) 0 0 = n) ∧
    chainValue chainWorld 0 chainLaunch 0 1 0 1 1 = some 0 ∧
    (Clear waitWorld ∧ (theIssue waitWorld).gd = 2 ∧ chainValue waitWorld 0 chainLaunch 0 2 1 1 1 = none) ∧
    (Clear busyWorld ∧ mustWait busyWorld 0 .rel true = true) ∧
    (Clear (world handlerGroup wt chainLaunch) ∧ handlerGroup.handler.isSome = true) ∧ chainSlot chainLaunch 7 = none := by
  unfold allFit; decide +kernel

theorem witness_ArrivingValues : Issues chainWorld 0 false (theIssue chainWorld) ∧ WellFormed (.pub oPub) = true ∧
    chainSlot (theIssue chainWorld).l 6 = some (0, { reg := 6, maxk := 1 }) ∧ (theIssue chainWorld).g.handler = none ∧
    (∀ l, acts (theIssue chainWorld) l → ((theIssue chainWorld).l.chainItem 0 ((theIssue chainWorld).g.item l)).pubs.length < 65535 ∧
      unconsumed chainWorld 0 (theIssue chainWorld).l 0 1 ((theIssue chainWorld).g.item l) < 8) ∧
    chainWorld.group (groupKey 0 0) = some wg ∧ lookup chainWorld.launches wg.launch = some chainLaunch ∧ wg.halted = false ∧
    (∀ n ∈ [0, 2], (world (pendGroup n)).group (groupKey 0 0) = some (pendGroup n) ∧ ∀ p ∈ (pendGroup n).pend, p.arrived = false ∧ p.missing = 0) := by
  refine ⟨issues_of ?_, ?_, ?_, ?_, all_acts ?_ ?_, ?_⟩ <;> decide +kernel

end Sys2Proof.Tests
end

section
/-! SUPPORT. Every step keeps memory canonical (O60). Memory changes through `State.poke` and the other stores of Machine/Memory alone.
Each function of the model that a step reaches has one lemma, `f_canonical`: it keeps the memory of its state canonical. The lemma's proof
follows the function's own branches, down to the lemmas of the functions it calls. -/
namespace Sys2Proof.Machine

variable {s t : State}

/-! ### A state whose memory is canonical -/

/-- The memory of `s` is canonical: keys strictly rise, and no entry holds what an unlisted byte reads as. -/
structure State.Canonical (s : State) : Prop where
  wf : Memory.wf s.mem = true

theorem State.Canonical.congr (h : s.Canonical) (e : t.mem = s.mem) : t.Canonical := ⟨e ▸ h.wf⟩

/-! ### States inside what the model's functions answer

An answer is canonical when the state it carries is; an answer without a state always is. -/

def Outcome.Canonical : Host.Outcome State Fault Refusal → Prop
  | .next s => s.Canonical
  | _ => True

def Verdict.Canonical : Verdict → Prop
  | .commit s _ _ | .hold s | .trap s _ _ _ _ | .after s _ _ _ _ _ => s.Canonical

def Checked.Canonical : Checked → Prop
  | .go s _ _ => s.Canonical
  | .stop v => v.Canonical

def ReadOnce.Canonical : ReadOnce → Prop
  | .got _ s _ => s.Canonical
  | .stop v => v.Canonical

def Fetched.Canonical : Fetched → Prop
  | .slot s _ | .trap s _ _ | .wait s | .parked s => s.Canonical

def Opened.Canonical : Opened → Prop
  | .ok _ s | .code _ s => s.Canonical

def UnitEnd.Canonical : UnitEnd → Prop
  | .written s _ | .missing s _ | .failed s _ _ | .stays s => s.Canonical

def FqPut.Canonical : FqPut → Prop
  | .put s | .kept s => s.Canonical

def Entered.Canonical : Entered → Prop
  | .ok _ s | .bad s => s.Canonical
  | .fault _ => True

def Acted.Canonical : Acted → Prop
  | .done s | .error s _ | .blocked s => s.Canonical
  | .fault _ => True

def QStep.Canonical : QStep → Prop
  | .go s _ | .ended s => s.Canonical
  | _ => True

def Restored.Canonical : Restored → Prop
  | .ok s | .rejected s => s.Canonical

def AreaRead.Canonical : AreaRead → Prop
  | .got _ s | .wait s => s.Canonical
  | .fault _ => True

/-- The checks before a body answer with the state they were given, or nothing. -/
def Ahead.Canonical (a : Ahead) : Prop := ∀ {is s v}, a.second is s = some v → s.Canonical → v.Canonical

theorem ahead_canonical {first needs} : Ahead.Canonical { first, needs } := by
  rintro _ _ _ ⟨⟩

/-! ### The state out of an answer that is known -/

theorem fst_canonical {α : Type} {p : State × α} {b} (e : p = (s, b)) (h : p.1.Canonical) : s.Canonical := by subst e; exact h

theorem snd_canonical {α : Type} {p : α × State} {b} (e : p = (b, s)) (h : p.2.Canonical) : s.Canonical := by subst e; exact h

theorem snd_snd_canonical {α β : Type} {p : α × β × State} {a b} (e : p = (a, b, s)) (h : p.2.2.Canonical) : s.Canonical := by
  subst e; exact h

theorem snd_s_canonical {α : Type} {p : α × Accesses} {x : Accesses} {b} (e : p = (b, x)) (h : p.2.s.Canonical) : x.s.Canonical := by
  subst e; exact h

theorem Verdict.Canonical.commit {c : Verdict} {a b} (h : c.Canonical) (e : c = .commit s a b) : s.Canonical := by subst e; exact h

theorem Checked.Canonical.go {c : Checked} {ok parked} (h : c.Canonical) (e : c = .go s ok parked) : s.Canonical := by subst e; exact h

theorem Checked.Canonical.stop {c : Checked} {v} (h : c.Canonical) (e : c = .stop v) : v.Canonical := by subst e; exact h

theorem ReadOnce.Canonical.got {c : ReadOnce} {b p} (h : c.Canonical) (e : c = .got b s p) : s.Canonical := by subst e; exact h

theorem ReadOnce.Canonical.stop {c : ReadOnce} {v} (h : c.Canonical) (e : c = .stop v) : v.Canonical := by subst e; exact h

theorem Fetched.Canonical.slot {c : Fetched} {w} (h : c.Canonical) (e : c = .slot s w) : s.Canonical := by subst e; exact h

theorem Fetched.Canonical.trap {c : Fetched} {k a} (h : c.Canonical) (e : c = .trap s k a) : s.Canonical := by subst e; exact h

theorem Fetched.Canonical.wait {c : Fetched} (h : c.Canonical) (e : c = .wait s) : s.Canonical := by subst e; exact h

theorem Fetched.Canonical.parked {c : Fetched} (h : c.Canonical) (e : c = .parked s) : s.Canonical := by subst e; exact h

theorem Opened.Canonical.ok {c : Opened} {k} (h : c.Canonical) (e : c = .ok k s) : s.Canonical := by subst e; exact h

theorem Opened.Canonical.code {c : Opened} {k} (h : c.Canonical) (e : c = .code k s) : s.Canonical := by subst e; exact h

theorem UnitEnd.Canonical.written {c : UnitEnd} {k} (h : c.Canonical) (e : c = .written s k) : s.Canonical := by subst e; exact h

theorem UnitEnd.Canonical.missing {c : UnitEnd} {k} (h : c.Canonical) (e : c = .missing s k) : s.Canonical := by subst e; exact h

theorem UnitEnd.Canonical.failed {c : UnitEnd} {k a} (h : c.Canonical) (e : c = .failed s k a) : s.Canonical := by subst e; exact h

theorem UnitEnd.Canonical.stays {c : UnitEnd} (h : c.Canonical) (e : c = .stays s) : s.Canonical := by subst e; exact h

theorem FqPut.Canonical.put {c : FqPut} (h : c.Canonical) (e : c = .put s) : s.Canonical := by subst e; exact h

theorem FqPut.Canonical.kept {c : FqPut} (h : c.Canonical) (e : c = .kept s) : s.Canonical := by subst e; exact h

theorem Entered.Canonical.ok {c : Entered} {k} (h : c.Canonical) (e : c = .ok k s) : s.Canonical := by subst e; exact h

theorem Entered.Canonical.bad {c : Entered} (h : c.Canonical) (e : c = .bad s) : s.Canonical := by subst e; exact h

theorem Acted.Canonical.done {c : Acted} (h : c.Canonical) (e : c = .done s) : s.Canonical := by subst e; exact h

theorem Acted.Canonical.error {c : Acted} {k} (h : c.Canonical) (e : c = .error s k) : s.Canonical := by subst e; exact h

theorem Acted.Canonical.blocked {c : Acted} (h : c.Canonical) (e : c = .blocked s) : s.Canonical := by subst e; exact h

theorem QStep.Canonical.go {c : QStep} {q} (h : c.Canonical) (e : c = .go s q) : s.Canonical := by subst e; exact h

theorem Restored.Canonical.ok {c : Restored} (h : c.Canonical) (e : c = .ok s) : s.Canonical := by subst e; exact h

theorem Restored.Canonical.rejected {c : Restored} (h : c.Canonical) (e : c = .rejected s) : s.Canonical := by subst e; exact h

theorem AreaRead.Canonical.got {c : AreaRead} {b} (h : c.Canonical) (e : c = .got b s) : s.Canonical := by subst e; exact h

theorem AreaRead.Canonical.wait {c : AreaRead} (h : c.Canonical) (e : c = .wait s) : s.Canonical := by subst e; exact h

theorem Outcome.Canonical.next {c : Host.Outcome State Fault Refusal} (h : Outcome.Canonical c) (e : c = .next s) : s.Canonical := by
  subst e; exact h

theorem bind_eq_ok {ε α β : Type} {x : Except ε α} {f : α → Except ε β} {b : β} (e : x >>= f = .ok b) :
    ∃ a, x = .ok a ∧ f a = .ok b := by
  cases x with
  | error _ => cases e
  | ok a => exact ⟨a, rfl, e⟩

theorem map_eq_ok {ε α β : Type} {x : Except ε α} {f : α → β} {b : β} (e : x.map f = .ok b) : ∃ a, x = .ok a ∧ f a = b := by
  cases x with
  | error _ => cases e
  | ok a => exact ⟨a, rfl, Except.ok.inj e⟩

/-! ### Choices and folds -/

theorem ite_keeps {α : Type} {P : α → Prop} {c : Prop} {_ : Decidable c} {a b : α} (ha : P a) (hb : P b) : P (if c then a else b) := by
  split <;> assumption

theorem ite_canonical {c : Prop} {_ : Decidable c} (hs : s.Canonical) (ht : t.Canonical) : (if c then s else t).Canonical :=
  ite_keeps hs ht

theorem ite_fst_canonical {α : Type} {c : Prop} {_ : Decidable c} {p q : State × α} (hp : p.1.Canonical) (hq : q.1.Canonical) :
    (if c then p else q).1.Canonical := ite_keeps (P := fun p : State × α => p.1.Canonical) hp hq

theorem ite_snd_canonical {α : Type} {c : Prop} {_ : Decidable c} {p q : α × State} (hp : p.2.Canonical) (hq : q.2.Canonical) :
    (if c then p else q).2.Canonical := ite_keeps (P := fun p : α × State => p.2.Canonical) hp hq

theorem ite_s_canonical {c : Prop} {_ : Decidable c} {x y : Accesses} (hx : x.s.Canonical) (hy : y.s.Canonical) :
    (if c then x else y).s.Canonical := ite_keeps (P := fun x : Accesses => x.s.Canonical) hx hy

theorem ite_snd_s_canonical {α : Type} {c : Prop} {_ : Decidable c} {p q : α × Accesses} (hp : p.2.s.Canonical) (hq : q.2.s.Canonical) :
    (if c then p else q).2.s.Canonical := ite_keeps (P := fun p : α × Accesses => p.2.s.Canonical) hp hq

theorem verdict_ite_canonical {c : Prop} {_ : Decidable c} {v w : Verdict} (hv : v.Canonical) (hw : w.Canonical) :
    (if c then v else w).Canonical := ite_keeps hv hw

theorem outcome_ite_canonical {c : Prop} {_ : Decidable c} {x y : Host.Outcome State Fault Refusal} (hx : Outcome.Canonical x)
    (hy : Outcome.Canonical y) : Outcome.Canonical (if c then x else y) := ite_keeps hx hy

theorem foldl_keeps {α β : Type} {P : β → Prop} {f : β → α → β} (hf : ∀ b a, P b → P (f b a)) {l : List α} {b : β} (hb : P b) :
    P (l.foldl f b) := List.foldlRecOn l f hb fun b h a _ => hf b a h

theorem foldl_canonical {α : Type} {f : State → α → State} {l : List α} (h : s.Canonical)
    (hf : ∀ s a, s.Canonical → (f s a).Canonical) : (l.foldl f s).Canonical := foldl_keeps hf h

theorem foldl_fst_canonical {α β : Type} {f : State × β → α → State × β} {l : List α} {x : State × β} (h : x.1.Canonical)
    (hf : ∀ (x : State × β) a, x.1.Canonical → (f x a).1.Canonical) : (l.foldl f x).1.Canonical :=
  foldl_keeps (P := fun x : State × β => x.1.Canonical) hf h

theorem foldl_s_canonical {α : Type} {f : Accesses → α → Accesses} {l : List α} {x : Accesses} (h : x.s.Canonical)
    (hf : ∀ (x : Accesses) a, x.s.Canonical → (f x a).s.Canonical) : (l.foldl f x).s.Canonical :=
  foldl_keeps (P := fun x : Accesses => x.s.Canonical) hf h

theorem foldl_snd_s_canonical {α β : Type} {f : β × Accesses → α → β × Accesses} {l : List α} {x : β × Accesses}
    (h : x.2.s.Canonical) (hf : ∀ (x : β × Accesses) a, x.2.s.Canonical → (f x a).2.s.Canonical) : (l.foldl f x).2.s.Canonical :=
  foldl_keeps (P := fun x : β × Accesses => x.2.s.Canonical) hf h

/-! ### Machine/Memory -/

theorem noteWrites_canonical {l} (h : s.Canonical) : (s.noteWrites l).Canonical := h.congr rfl

theorem poke_canonical {k b} (h : s.Canonical) : (s.poke k b).Canonical := ⟨Memory.store_wf _ _ _ h.wf⟩

/-! ### Machine/Translate -/

theorem setCtx_canonical {c x} (h : s.Canonical) : (s.setCtx c x).Canonical := h.congr rfl

theorem cache_canonical {c va w pa} (h : s.Canonical) : (s.cache c va w pa).Canonical := h.congr rfl

theorem dirtyLeaf_canonical {p} (h : s.Canonical) : (dirtyLeaf s p).Canonical := ite_canonical h (poke_canonical h)

theorem shareDirty_canonical {c w} (h : s.Canonical) : (s.shareDirty c w).Canonical :=
  ite_canonical h (foldl_canonical h (fun _ _ => dirtyLeaf_canonical))

theorem markDirty_canonical {c va w pa} (h : s.Canonical) : (s.markDirty c va w pa).Canonical :=
  cache_canonical (shareDirty_canonical (ite_canonical h (poke_canonical h)))

theorem dirtyFrame_canonical {pa n} (h : s.Canonical) : (s.dirtyFrame pa n).Canonical := foldl_canonical h fun _ _ => dirtyLeaf_canonical

theorem devStore_canonical {pa b} (h : s.Canonical) : (s.devStore pa b).Canonical := poke_canonical (dirtyFrame_canonical h)

theorem busWrite_canonical {a l} (h : s.Canonical) : (busWrite a l s).Canonical := by
  fun_induction busWrite a l s
  · exact h
  next ih => exact ih (poke_canonical h)

theorem hostStore_canonical {a b} (h : s.Canonical) : (s.hostStore a b).Canonical :=
  busWrite_canonical (foldl_canonical h (fun _ _ h' => ite_canonical (dirtyFrame_canonical h') h'))

theorem used_canonical {c va u w pa} (h : s.Canonical) : (s.used c va u w pa).Canonical :=
  ite_canonical (markDirty_canonical h) (cache_canonical h)

theorem holdDirty_canonical {ctx key} (h : s.Canonical) : (holdDirty s ctx key).Canonical := ite_canonical h (h.congr rfl)

theorem readVA_canonical {c va n u b t} (h : s.Canonical) : s.readVA c va n u = .ok (b, t) → t.Canonical := by
  unfold State.readVA
  split
  · rintro ⟨⟩
  · intro e
    obtain ⟨_, e, ⟨⟩⟩ := map_eq_ok e
    exact foldl_canonical h fun _ _ => used_canonical

theorem storePieces_canonical {c l b} (h : s.Canonical) : (storePieces c l b s).Canonical := by
  induction l generalizing s b with
  | nil => exact h
  | cons x l ih =>
    unfold storePieces
    refine ih ?_
    split
    · exact poke_canonical (used_canonical h)
    · exact used_canonical h

theorem writeVA_canonical {c va bs t} (h : s.Canonical) : s.writeVA c va bs = .ok t → t.Canonical := by
  unfold State.writeVA
  split
  · rintro ⟨⟩
  · intro e
    obtain ⟨_, e, ⟨⟩⟩ := map_eq_ok e
    exact storePieces_canonical h

/-! ### Machine/Report -/

theorem signal_canonical {fn vec} (h : s.Canonical) : (s.signal fn vec).Canonical := h.congr rfl

theorem setFunc_canonical {fn f} (h : s.Canonical) : (s.setFunc fn f).Canonical := h.congr rfl

theorem evWrite_canonical {r} (h : s.Canonical) : (evWrite s r).Canonical :=
  ite_canonical h (signal_canonical ((hostStore_canonical (hostStore_canonical h)).congr rfl))

theorem reportDevice_canonical {r} (h : s.Canonical) : (reportDevice s r).Canonical :=
  ite_canonical h (ite_canonical (evWrite_canonical h) (ite_canonical (h.congr rfl) ((hostStore_canonical h).congr rfl)))

theorem errqWrite_canonical {c r t} (h : s.Canonical) : errqWrite s c r = .ok t → t.Canonical := by
  unfold errqWrite
  dsimp only
  split
  · rintro ⟨⟩
  next e =>
    split
    · rintro ⟨⟩
    next e1 =>
      rintro ⟨⟩
      exact signal_canonical (setCtx_canonical (writeVA_canonical (writeVA_canonical h e) e1))

theorem errqFaulted_canonical {c f at_} (h : s.Canonical) : (errqFaulted s c f at_).Canonical := reportDevice_canonical h

theorem errqLost_canonical {c} (h : s.Canonical) : (errqLost s c).Canonical := by
  unfold errqLost
  dsimp only
  split
  next e => exact writeVA_canonical (setCtx_canonical h) e
  · exact setCtx_canonical h

theorem report_canonical {c r} (h : s.Canonical) : (report s c r).Canonical := by
  unfold report
  refine ite_canonical h (ite_canonical (ite_canonical (setCtx_canonical h) (errqLost_canonical h)) ?_)
  split
  · exact errqFaulted_canonical h
  · exact setCtx_canonical h
  · split
    next e1 => exact errqWrite_canonical h e1
    · exact errqFaulted_canonical h

theorem errqDrain_canonical {n n1} (h : s.Canonical) : (errqDrain n s n1).Canonical := by
  fun_induction errqDrain n s n1
  · exact h
  · exact h
  · exact h
  next ih => exact ih (errqFaulted_canonical (setCtx_canonical h))
  next e2 ih => exact ih (errqWrite_canonical (setCtx_canonical h) e2)
  next ih => exact ih (errqFaulted_canonical (setCtx_canonical h))

theorem evDrain_canonical {n} (h : s.Canonical) : (evDrain n s).Canonical := by
  fun_induction evDrain n s
  · exact h
  · exact h
  · exact h
  next ih => exact ih (evWrite_canonical (h.congr rfl))

theorem logEvent_canonical {c corrected source core unit address v1 v2} (h : s.Canonical) :
    (logEvent s c corrected source core unit address v1 v2).Canonical :=
  report_canonical h

theorem logDevice_canonical {corrected source unit address} (h : s.Canonical) : (logDevice s corrected source unit address).Canonical :=
  reportDevice_canonical h

theorem logMalformed_canonical {c core va} (h : s.Canonical) : (logMalformed s c core va).Canonical := logEvent_canonical h

theorem logDevFault_canonical {c f} (h : s.Canonical) : (logDevFault s c f).Canonical := by
  unfold logDevFault
  split
  · exact logMalformed_canonical h
  · exact logEvent_canonical h
  · exact h

/-! ### Machine/Accessors -/

theorem setGroup_canonical {k g} (h : s.Canonical) : (s.setGroup k g).Canonical := h.congr rfl

theorem onGroup_canonical {k f} (h : s.Canonical) : (s.onGroup k f).Canonical := by
  unfold State.onGroup
  split
  · exact setGroup_canonical h
  · exact h

theorem setCore_canonical {c x} (h : s.Canonical) : (s.setCore c x).Canonical := h.congr rfl

theorem setTeam_canonical {t x} (h : s.Canonical) : (s.setTeam t x).Canonical := h.congr rfl

theorem setLaunch_canonical {t x} (h : s.Canonical) : (s.setLaunch t x).Canonical := h.congr rfl

theorem setQueue_canonical {q x} (h : s.Canonical) : (s.setQueue q x).Canonical := h.congr rfl

theorem draw_canonical {n} (h : s.Canonical) : (s.draw n).2.Canonical := by
  unfold State.draw
  split <;> exact h.congr rfl

theorem free_canonical (h : s.Canonical) : (s.free).2.Canonical := h.congr rfl

theorem fresh_canonical (h : s.Canonical) : (s.fresh).2.Canonical := h.congr rfl

/-! ### Machine/Peer -/

theorem send_canonical {port f} (h : s.Canonical) : (s.send port f).Canonical := h.congr rfl

theorem dispatchReq_canonical {id port r} (h : s.Canonical) : (dispatchReq s id port r).Canonical := send_canonical (h.congr rfl)

theorem sendReq_canonical {dev ports group ctx pa cls ask who} (h : s.Canonical) :
    (sendReq s dev ports group ctx pa cls ask who).Canonical := by
  unfold sendReq
  split
  next e =>
    split
    · exact (snd_canonical e (fresh_canonical h)).congr rfl
    · exact ite_canonical ((snd_canonical e (fresh_canonical h)).congr rfl) (dispatchReq_canonical (snd_canonical e (fresh_canonical h)))

theorem flushReq_canonical {x} (h : s.Canonical) : (flushReq s x).Canonical := by
  unfold flushReq
  split
  · exact h
  · exact ite_canonical h (dispatchReq_canonical h)

theorem flushReqs_canonical (h : s.Canonical) : (flushReqs s).Canonical := foldl_canonical h fun _ _ => flushReq_canonical

theorem sendPeer_canonical {group ctx va w pa cls ask who} (h : s.Canonical) : (sendPeer s group ctx va w pa cls ask who).Canonical := by
  unfold sendPeer
  split
  · exact h
  · exact sendReq_canonical h

theorem askOnce_canonical {key ctx va w pa n} (h : s.Canonical) : (askOnce s key ctx va w pa n).Canonical :=
  ite_canonical h (sendPeer_canonical h)

theorem ringReply_canonical {ctx addr value status fail} (h : s.Canonical) : (ringReply s ctx addr value status fail).Canonical := by
  unfold ringReply
  split
  · exact logDevFault_canonical h
  next e =>
    split
    · exact logDevFault_canonical (writeVA_canonical h e)
    next e1 =>
      split
      · exact logDevFault_canonical (writeVA_canonical (writeVA_canonical h e) e1)
      next e2 => exact writeVA_canonical (writeVA_canonical (writeVA_canonical h e) e1) e2

theorem dropReq_canonical {id} (h : s.Canonical) : (dropReq s id).Canonical := flushReqs_canonical (h.congr rfl)

theorem loadReply_canonical {group seq lanes x} (h : s.Canonical) : (loadReply s group seq lanes x).Canonical := onGroup_canonical h

/-! ### Machine/Collective -/

theorem setColl_canonical {gid c} (h : s.Canonical) : (s.setColl gid c).Canonical := h.congr rfl

theorem bump_canonical {addr n} (h : s.Canonical) : (bump s addr n).Canonical := hostStore_canonical h

theorem countStale_canonical {gid} (h : s.Canonical) : (countStale s gid).Canonical :=
  ite_canonical (bump_canonical h) (setColl_canonical h)

theorem sendColl_canonical {type gid rank dev round off payload rel} (h : s.Canonical) :
    (sendColl s type gid rank dev round off payload rel).Canonical := by
  unfold sendColl
  split
  · exact logDevice_canonical h
  · exact send_canonical h

theorem writeRed_canonical {c va x t} (h : s.Canonical) : writeRed s c va x = .ok t → t.Canonical := by
  unfold writeRed
  split
  · rintro ⟨⟩
  · rintro ⟨⟩
  · rintro ⟨⟩
  · split
    · rintro ⟨⟩
    · rintro ⟨⟩
      exact poke_canonical (used_canonical h)

theorem writeRanks_canonical {off x l} (h : s.Canonical) : (writeRanks off x l s).2.Canonical := by
  fun_induction writeRanks off x l s
  · exact h
  next e _ _ e1 ih => exact snd_canonical e1 (ih (writeRed_canonical h e))
  next ih => exact ih (logDevFault_canonical h)

theorem writeResult_canonical {gid off round mask x} (h : s.Canonical) : (writeResult s gid off round mask x).Canonical :=
  setColl_canonical (bump_canonical (ite_canonical (writeRanks_canonical h)
    (bump_canonical (hostStore_canonical (hostStore_canonical (writeRanks_canonical h))))))

theorem endRound_canonical {gid r} (h : s.Canonical) : (endRound s gid r).Canonical :=
  foldl_canonical (setColl_canonical h) (fun _ _ h' => ite_canonical (writeResult_canonical h') (sendColl_canonical h'))

theorem rootTakes_canonical {gid x} (h : s.Canonical) : (rootTakes s gid x).Canonical :=
  ite_canonical (bump_canonical h) (ite_canonical (endRound_canonical h) (setColl_canonical h))

theorem releaseHeld_canonical {gid} (h : s.Canonical) : (releaseHeld s gid).2.Canonical := setColl_canonical h

theorem sendAll_canonical {n n1 l} (h : s.Canonical) : (sendAll n s n1 l).Canonical := by
  fun_induction sendAll n s n1 l
  · exact h
  · exact h
  next e1 ih => exact ih (snd_canonical e1 (releaseHeld_canonical (rootTakes_canonical h)))
  next ih => exact ih (sendColl_canonical h)

theorem sendContributions_canonical {gid l} (h : s.Canonical) : (sendContributions s gid l).Canonical := sendAll_canonical h

theorem contribute_canonical {rel ctx w va x} (h : s.Canonical) : (contribute rel s ctx w va x).Canonical := by
  unfold contribute
  refine ite_canonical (logDevice_canonical h) ?_
  split
  · exact countStale_canonical h
  · exact ite_canonical (sendContributions_canonical (setColl_canonical h)) (setColl_canonical h)

theorem contributeAll_canonical {rel ctx w va l} (h : s.Canonical) : (contributeAll rel s ctx w va l).Canonical := by
  fun_induction contributeAll rel s ctx w va l
  next ih => exact ih (contribute_canonical h)
  · exact h

theorem storePage_canonical {k c x b} (h : s.Canonical) : (storePage k c s x b).Canonical := by
  unfold storePage
  refine ite_canonical (contributeAll_canonical (used_canonical h)) ?_
  split
  · exact poke_canonical (holdDirty_canonical (used_canonical h))
  · exact sendPeer_canonical (used_canonical h)

theorem storePagesOf_canonical {k c l l1} (h : s.Canonical) : (storePagesOf k c l l1 s).Canonical := by
  fun_induction storePagesOf k c l l1 s
  · exact h
  next ih => exact ih (storePage_canonical h)

theorem storeVA_canonical {k c va b t} (h : s.Canonical) : s.storeVA k c va b = .ok t → t.Canonical := by
  unfold State.storeVA
  split
  · rintro ⟨⟩
  · intro e
    obtain ⟨_, e, ⟨⟩⟩ := map_eq_ok e
    exact storePagesOf_canonical h

/-! ### Machine/Ops -/

theorem mendWord_canonical {k w} {x : State × Bool} (h : x.1.Canonical) : (mendWord k x w).1.Canonical := by
  unfold mendWord
  split
  · exact h
  · exact ite_fst_canonical (logEvent_canonical (setGroup_canonical h)) (logEvent_canonical h)

theorem haltGroup_canonical {k first second pc lanes} (h : s.Canonical) : (haltGroup s k first second pc lanes).Canonical := by
  unfold haltGroup
  split
  · exact report_canonical (setGroup_canonical h)
  · exact h

theorem takeTrap_canonical {k code detail pc saved faddr lanes} (h : s.Canonical) :
    (takeTrap s k code detail pc saved faddr lanes).Canonical := by
  unfold takeTrap
  split
  · dsimp only
    split
    · exact haltGroup_canonical (setGroup_canonical h)
    · have hm {g : Group} {l : List RegWord} : (l.foldl (mendWord k) (s.setGroup k g, true)).1.Canonical :=
        foldl_fst_canonical (setGroup_canonical h) fun _ _ => mendWord_canonical
      refine ite_canonical (haltGroup_canonical hm) (ite_canonical (haltGroup_canonical hm) ?_)
      split
      · exact haltGroup_canonical (logDevFault_canonical hm)
      next e => exact onGroup_canonical (storeVA_canonical hm e)
  · exact h

theorem issued_canonical {is} (h : s.Canonical) : (s.issued is).Canonical := setCore_canonical h

theorem finish_canonical {is v} (h : v.Canonical) : Outcome.Canonical (Issue.finish is v) :=
  match v, h with
  | .commit .., h => issued_canonical (onGroup_canonical h)
  | .hold _, h => h.congr rfl
  | .trap .., h => issued_canonical (takeTrap_canonical h)
  | .after .., h => issued_canonical (takeTrap_canonical (onGroup_canonical h))

theorem checkWord_canonical {is w} {x : Checking} (h : x.1.Canonical) : (checkWord is x w).1.Canonical := mendWord_canonical h

theorem checkReg_canonical {is n} {x : Checking} (h : x.1.Canonical) : (checkReg is x n).1.Canonical := by
  unfold checkReg
  split
  · exact foldl_fst_canonical h fun _ _ => checkWord_canonical
  · exact ite_fst_canonical h (ite_fst_canonical (foldl_canonical h (fun _ _ => logEvent_canonical))
      (ite_fst_canonical (foldl_fst_canonical h (fun _ _ => checkWord_canonical))
        (foldl_canonical (onGroup_canonical (foldl_fst_canonical h (fun _ _ => checkWord_canonical))) (fun _ _ => logEvent_canonical))))

theorem checkTable_canonical {is n} {x : Checking} (h : x.1.Canonical) : (checkTable is x n).1.Canonical := by
  unfold checkTable
  split
  · exact h
  · exact ite_fst_canonical (logEvent_canonical (setGroup_canonical h)) h

theorem checkRegs_canonical {is reads} (h : s.Canonical) : (checkRegs s is reads).1.Canonical :=
  ite_fst_canonical h (foldl_fst_canonical h (fun _ _ h' => checkTable_canonical (checkReg_canonical h')))

theorem conclude_canonical {is v} (h : s.Canonical) (hv : v.Canonical) : Outcome.Canonical (Issue.conclude is s v) := by
  unfold Issue.conclude
  split
  · exact finish_canonical hv
  · exact finish_canonical hv
  · split
    · exact finish_canonical h
    · exact finish_canonical hv

theorem resumeFault_canonical {is} (h : s.Canonical) : (resumeFault s is).Canonical := onGroup_canonical h

theorem afterParity_canonical {is go} {x : Checking} (h : s.Canonical) (hx : x.1.Canonical)
    (hgo : ∀ s, s.Canonical → Outcome.Canonical (go s)) : Outcome.Canonical (afterParity is x go s) := by
  unfold afterParity
  split
  · exact conclude_canonical h hx
  · exact hgo _ hx

/-- The common frame of every group instruction keeps memory canonical where the instruction's own effect does. -/
theorem run_canonical {pred neg reads writes body ahead} (h : s.Canonical) (hb : ∀ is s, s.Canonical → (body is s).Canonical)
    (ha : ahead.Canonical) : Outcome.Canonical (s.run pred neg reads writes body ahead) := by
  unfold State.run
  split
  · exact trivial
  · split
    · exact finish_canonical h
    · split
      · exact conclude_canonical h h
      · refine afterParity_canonical h (checkRegs_canonical h) fun s' h' => ?_
        split
        next v e => exact conclude_canonical h (ha e h')
        · split
          · exact conclude_canonical h (resumeFault_canonical h')
          · exact afterParity_canonical h (checkRegs_canonical h') fun s'' h'' => conclude_canonical h (hb _ _ h'')

/-! ### Machine/FaultBuffer -/

theorem enterFault_canonical {f b t} (h : s.Canonical) : enterFault s f = some (b, t) → t.Canonical := by
  unfold enterFault
  split
  · rintro ⟨⟩
    exact h.congr rfl
  · split
    · rintro ⟨⟩
    · rintro ⟨⟩
      exact h.congr rfl

theorem enterFaults_canonical {l t} (h : s.Canonical) : enterFaults s l = some t → t.Canonical := by
  fun_induction enterFaults s l generalizing t
  · rintro ⟨⟩
    exact h
  · rintro ⟨⟩
  next e ih => exact fun h' => ih (enterFault_canonical h e) h'

/-! ### Machine/Access -/

theorem parkLanes_canonical {is u fetch l t} (h : s.Canonical) : parkLanes s is u fetch l = some t → t.Canonical := by
  intro e
  obtain ⟨_, e', ⟨⟩⟩ := Option.map_eq_some_iff.mp e
  exact onGroup_canonical (enterFaults_canonical h e')

theorem logMalformedLanes_canonical {is l} (h : s.Canonical) : (logMalformedLanes s is l).Canonical := by
  fun_induction logMalformedLanes s is l
  · exact h
  next ih => exact ih (logMalformed_canonical h)
  next ih => exact ih h

theorem settleAccess_canonical {is u l} (h : s.Canonical) : (settleAccess s is u l).Canonical := by
  unfold settleAccess
  split
  · exact h
  · split
    · exact logMalformedLanes_canonical h
    · split
      · dsimp only
        split
        · exact h
        · split
          · exact h
          next e4 => exact parkLanes_canonical h e4
      · dsimp only
        split <;> exact h

theorem checkLanes_canonical {is space u wide n addr} (h : s.Canonical) : (checkLanes s is space u wide n addr).Canonical :=
  settleAccess_canonical h

/-! ### Machine/VExec -/

theorem shadowsDone_canonical {is} (h : s.Canonical) : (shadowsDone is s).Canonical := ite_canonical (onGroup_canonical h) h

theorem shadowed_canonical {is stay primaries wrote val} (h : s.Canonical) : (shadowed is s stay primaries wrote val).Canonical := by
  unfold shadowed
  split
  · exact shadowsDone_canonical h
  · exact foldl_canonical (shadowsDone_canonical h) fun _ _ => logEvent_canonical

theorem vCommit_canonical {is o f look serial p} (h : s.Canonical) : (vCommit s is o f look serial p).Canonical := by
  unfold vCommit
  split
  · split
    · exact shadowed_canonical (onGroup_canonical (setLaunch_canonical h))
    · exact onGroup_canonical (setLaunch_canonical h)
  · split
    · exact shadowed_canonical (onGroup_canonical (setLaunch_canonical h))
    · exact onGroup_canonical (setLaunch_canonical h)

theorem chainAhead_canonical {o reads} : (chainAhead o reads).Canonical := by
  intro is s v e h
  dsimp only [chainAhead] at e
  split at e <;> cases e
  exact h

theorem vBody_canonical {o f long fn is} (h : s.Canonical) : (vBody o f long fn is s).Canonical := by
  unfold vBody
  split
  · exact h
  · exact vCommit_canonical h

theorem execV_canonical {o f fn long} (h : s.Canonical) : Outcome.Canonical (execV o f fn s long) :=
  run_canonical h (fun _ _ => vBody_canonical) chainAhead_canonical

/-! ### Machine/Transfer -/

theorem freeBytes_canonical {n} (h : s.Canonical) : (freeBytes s n).2.Canonical := h.congr rfl

theorem readKey_canonical {ctx core key n} (h : s.Canonical) : (readKey s ctx core key n).2.Canonical :=
  ite_snd_canonical (freeBytes_canonical (logEvent_canonical h)) h

theorem touch_canonical {ctx u x} (h : s.Canonical) : (touch s ctx u x).Canonical := by
  unfold touch
  split
  · exact h
  · exact used_canonical h

theorem readPlace_canonical {is p n} (h : s.Canonical) : (readPlace s is p n).2.Canonical := by
  unfold readPlace
  split
  · exact readKey_canonical (touch_canonical h)
  · exact touch_canonical h

theorem readPlaces_canonical {is n l} (h : s.Canonical) : (readPlaces is n s l).2.Canonical := by
  fun_induction readPlaces is n s l
  · exact h
  next e _ _ e1 ih => exact snd_canonical e1 (ih (snd_canonical e (readPlace_canonical h)))

theorem askPeers_canonical {is cls seq n ok p} (h : s.Canonical) : (askPeers is cls seq n ok s p).Canonical := by
  unfold askPeers
  split
  · exact h
  · split
    · exact h
    · exact sendPeer_canonical h

theorem loadLanes_canonical {is d look n cls uniform ok} (h : s.Canonical) : (loadLanes s is d look n cls uniform ok).Canonical := by
  unfold loadLanes
  split
  · exact h
  next l p r =>
    have hr : (readPlaces is n s ((l, p) :: r)).2.Canonical := readPlaces_canonical h
    exact foldl_canonical (onGroup_canonical hr) fun _ _ => askPeers_canonical

theorem storePlace_canonical {is cls p b} (h : s.Canonical) : (storePlace s is cls p b).Canonical := by
  unfold storePlace
  split
  · exact poke_canonical h
  · refine ite_canonical (contributeAll_canonical (used_canonical h)) ?_
    split
    · exact poke_canonical (holdDirty_canonical (used_canonical h))
    · exact sendPeer_canonical (used_canonical h)

theorem storeLanes_canonical {is cls n val ok} (h : s.Canonical) : (storeLanes s is cls n val ok).Canonical :=
  foldl_canonical h (fun _ _ => storePlace_canonical)

theorem readOncePeer_canonical {is p a n w pa} (h : s.Canonical) : (readOncePeer s is p a n w pa).Canonical := by
  unfold readOncePeer
  split
  · exact h
  · exact askOnce_canonical h

theorem onceChecks_canonical {is a al} (h : s.Canonical) : (onceChecks s is a al).Canonical := by
  unfold onceChecks
  split
  · exact settleAccess_canonical h
  · dsimp only
    split
    · exact logMalformed_canonical h
    · exact settleAccess_canonical h

theorem readOnce_canonical {is a n al} (h : s.Canonical) : (readOnce s is a n al).Canonical := by
  unfold readOnce
  split
  · exact h
  · split
    next e => exact (onceChecks_canonical h).stop e
    next e =>
      split
      · exact readOncePeer_canonical ((onceChecks_canonical h).go e)
      · split
        next e1 => exact snd_canonical e1 (readPlace_canonical ((onceChecks_canonical h).go e))
        next e1 => exact snd_canonical e1 (readPlace_canonical ((onceChecks_canonical h).go e))
    next e => exact (onceChecks_canonical h).go e

theorem readRange_canonical {is n n1 n2} (h : s.Canonical) : (readRange is n n1 n2 s).Canonical := by
  fun_induction readRange is n n1 n2 s
  · exact readOnce_canonical h
  next e => exact (readOnce_canonical h).stop e
  next e _ => exact (readOnce_canonical h).got e
  next e _ _ e1 ih => exact (ih ((readOnce_canonical h).got e)).stop e1
  next e _ _ _ _ e1 ih => exact (ih ((readOnce_canonical h).got e)).got e1

/-! ### Machine/Tile -/

theorem execE_canonical {o reads writes body ahead} (hbody : ∀ is s, s.Canonical → (body is s).Canonical) (h : s.Canonical)
    (hahead : ahead.Canonical) : Outcome.Canonical (execE o reads writes body s ahead) := by
  unfold execE
  refine run_canonical h (fun _ _ h' => ?_) hahead
  split
  · exact h'
  · exact hbody _ _ h'

theorem onTile_canonical {team k f} (h : s.Canonical) : (s.onTile team k f).Canonical := by
  unfold State.onTile
  split
  · exact setTeam_canonical h
  · exact h

theorem execTcfg_canonical {o} (h : s.Canonical) : Outcome.Canonical (execTcfg o s) := by
  unfold execTcfg
  refine execE_canonical (fun _ _ h' => ?_) h ahead_canonical
  dsimp only
  split
  · exact h'
  · exact h'
  · exact h'
  · split
    · exact h'
    · split
      · exact h'
      · split
        · exact h'
        · exact onTile_canonical h'

theorem execTset_canonical {o} (h : s.Canonical) : Outcome.Canonical (execTset o s) := by
  unfold execTset
  refine execE_canonical (fun _ _ h' => ?_) h ahead_canonical
  dsimp only
  split
  · split
    · exact h'
    · split
      · exact onTile_canonical h'
      · exact h'
  · split
    · exact h'
    · split
      · exact onTile_canonical h'
      · exact h'
  · exact h'

theorem tileAccess_canonical {o write is go} (h : s.Canonical) (hgo : ∀ t n, (go t n).Canonical) :
    (tileAccess o write is s go).Canonical := by
  unfold tileAccess
  extract_lets num t n at_ code
  clear_value at_ code
  rcases (if write then t.forWrite else t.forRead) with _ | _ | _
  · dsimp only
    split
    · exact h
    · exact verdict_ite_canonical h (hgo _ _)
  · exact h
  · exact h

theorem execTld_canonical {o} (h : s.Canonical) : Outcome.Canonical (execTld o s) :=
  execE_canonical (fun _ _ h' => tileAccess_canonical h' (fun _ _ => onGroup_canonical h')) h ahead_canonical

theorem execTst_canonical {o} (h : s.Canonical) : Outcome.Canonical (execTst o s) :=
  execE_canonical (fun _ _ h' => tileAccess_canonical h' (fun _ _ => foldl_canonical h' (fun _ _ => poke_canonical))) h ahead_canonical

/-! ### Machine/Matrix -/

theorem teamWrite_canonical {t l off l1} (h : s.Canonical) : (teamWrite t l s off l1).Canonical := by
  fun_induction teamWrite t l s off l1
  · exact h
  next ih =>
    refine ih ?_
    split
    · exact poke_canonical h
    · exact h

theorem startArray_canonical {core} (h : s.Canonical) : (startArray s core).Canonical := ite_canonical (setCore_canonical h) h

theorem restArray_canonical {core} (h : s.Canonical) : (restArray s core).Canonical := setCore_canonical h

theorem execPlaneArrayIdle_canonical {core} (h : s.Canonical) : Outcome.Canonical (execPlaneArrayIdle core s) := by
  unfold execPlaneArrayIdle
  split
  · exact setCore_canonical h
  · exact h

theorem execRampStep_canonical {core} (h : s.Canonical) : Outcome.Canonical (execRampStep core s) := by
  unfold execRampStep
  dsimp only
  split
  · exact setCore_canonical h
  · exact h

theorem joinFused_canonical {core f} (h : s.Canonical) : (joinFused s core f).Canonical := by
  unfold joinFused
  dsimp only
  split
  · exact setCore_canonical h
  · exact ite_canonical h (setCore_canonical h)

theorem settleFused_canonical (h : s.Canonical) : (settleFused s).Canonical :=
  foldl_canonical h (fun _ _ h' => ite_canonical h' (setCore_canonical (foldl_canonical h' (fun _ _ => onGroup_canonical))))

theorem countConflicts_canonical {is o a b pb xs} (h : s.Canonical) : (countConflicts s is o a b pb xs).Canonical :=
  foldl_canonical (onGroup_canonical h) (fun _ _ => joinFused_canonical)

theorem mmaTiles_canonical {is o v} (h : s.Canonical) : mmaTiles is o s = some v → v.Canonical := by
  unfold mmaTiles
  extract_lets d
  clear_value d
  rcases d.forWrite with _ | _ | _
  · dsimp only
    split
    · rintro ⟨⟩
      exact h
    · split
      · rintro ⟨⟩
      · split
        · rintro ⟨⟩
          exact h
        · rintro ⟨⟩
          exact h
        · rintro ⟨⟩
  · rintro ⟨⟩
    exact h
  · rintro ⟨⟩
    exact h

theorem startMat_canonical {is o acc a b xs} (h : s.Canonical) : (startMat s is o acc a b xs).Canonical := by
  unfold startMat
  split
  next k s1 e =>
    extract_lets d op s2 s3 s4 s5
    have h1 : s1.Canonical := snd_canonical e (h.congr rfl)
    have h4 : s4.Canonical := onTile_canonical ((startArray_canonical h1).congr rfl)
    have h5 : s5.Canonical := by
      unfold s5
      split
      · exact h4
      · exact onTile_canonical h4
    exact countConflicts_canonical (onGroup_canonical h5)

theorem mmaBody_canonical {o acc is} (h : s.Canonical) : (mmaBody o acc is s).Canonical := by
  unfold mmaBody
  split
  next e => exact mmaTiles_canonical h e
  · dsimp only
    split
    · exact h
    · split
      · exact h
      · split
        · exact h
        · split
          · exact h
          · exact startMat_canonical h

theorem racedResults_canonical {op} (h : s.Canonical) : (racedResults s op).Canonical := by
  unfold racedResults
  split
  · split
    · exact h
    · split
      next e2 =>
        refine foldl_canonical (onGroup_canonical (snd_canonical e2 (free_canonical h))) (fun _ _ h' => ?_)
        split
        next e3 => exact poke_canonical (snd_canonical e3 (freeBytes_canonical h'))
  · exact h

theorem endMat_canonical {id op} (h : s.Canonical) : (endMat s id op).Canonical := by
  unfold endMat
  refine restArray_canonical (onGroup_canonical ?_)
  split
  · exact onTile_canonical ((ite_canonical h (racedResults_canonical h)).congr rfl)
  · exact onTile_canonical (onTile_canonical ((ite_canonical h (racedResults_canonical h)).congr rfl))

theorem octetResult_wf {t l op o} (h : s.Canonical) : Memory.wf (octetResult s t l op o).1 = true := by
  unfold octetResult
  refine foldl_keeps (P := fun m : List Host.Cell × Word => Memory.wf m.1 = true) (fun _ _ hm => ?_) h.wf
  exact foldl_keeps (P := fun m : List Host.Cell × Word => Memory.wf m.1 = true) (fun _ _ hm => Memory.store_wf _ _ _ hm) hm

theorem execMatrixOpComplete_canonical {op} (h : s.Canonical) : Outcome.Canonical (execMatrixOpComplete op s) := by
  unfold execMatrixOpComplete
  split
  · exact h
  · split
    · split
      · refine ite_canonical (endMat_canonical (onGroup_canonical (noteWrites_canonical ?_)))
          ((onGroup_canonical (noteWrites_canonical ?_)).congr rfl)
        · exact ⟨octetResult_wf h⟩
        · exact ⟨octetResult_wf h⟩
      · exact h
    · exact h

/-! ### Machine/Gate -/

theorem execGcfg_canonical {o} (h : s.Canonical) : Outcome.Canonical (execGcfg o s) := by
  unfold execGcfg
  refine execE_canonical (fun _ _ h' => ?_) h ahead_canonical
  split
  next e => exact (readOnce_canonical h').stop e
  next e =>
    refine onGroup_canonical (ite_canonical ?_ ((readOnce_canonical h').got e))
    split
    · exact setTeam_canonical ((readOnce_canonical h').got e)
    · exact (readOnce_canonical h').got e

theorem setStream_canonical {c n e} (h : s.Canonical) : (s.setStream c n e).Canonical := setCtx_canonical h

theorem joinStream_canonical {c n x} (h : s.Canonical) : (joinStream s c n x).Canonical := setCtx_canonical h

theorem leaveStream_canonical {c n x} (h : s.Canonical) : (leaveStream s c n x).Canonical := setCtx_canonical h

theorem startGate_canonical {is o prog} (h : s.Canonical) : (startGate s is o prog).Canonical := by
  unfold startGate
  split
  next k s1 e =>
    extract_lets _ _ _ op s2 s3 s4 s5
    have h1 : s1.Canonical := snd_canonical e (h.congr rfl)
    have h2 : s2.Canonical := h1.congr rfl
    have h4 : s4.Canonical := onTile_canonical (foldl_canonical h2 fun _ _ h' => ite_canonical h' (onTile_canonical h'))
    have h5 : s5.Canonical := by
      unfold s5
      split
      · exact h4
      · exact joinStream_canonical h4
    exact onGroup_canonical h5

theorem gateBody_canonical {o is} (h : s.Canonical) : (gateBody o is s).Canonical := by
  unfold gateBody
  split
  · exact h
  · exact h
  · split
    · exact h
    · split
      · split
        · dsimp only
          split <;> exact h
        · split
          · dsimp only
            split <;> exact h
          · dsimp only
            split
            · exact h
            · exact startGate_canonical h

theorem writeStream_canonical {t l op n x h0} (h : s.Canonical) : (writeStream s t l op n x h0).Canonical :=
  setStream_canonical (foldl_canonical h (fun _ _ => teamWrite_canonical))

theorem racedColumn_canonical {t l op x j} {z : State × Bool} (h : z.1.Canonical) : (racedColumn t l op x z j).1.Canonical := by
  unfold racedColumn
  split
  · split
    · refine ite_fst_canonical ?_ (foldl_canonical h (fun _ _ h' => ?_))
      · split
        next e1 =>
          refine teamWrite_canonical (snd_canonical e1 (freeBytes_canonical (foldl_canonical h (fun _ _ h' => ?_))))
          split
          next e2 => exact poke_canonical (snd_canonical e2 (freeBytes_canonical h'))
      · split
        next e1 => exact poke_canonical (snd_canonical e1 (freeBytes_canonical h'))
    · refine foldl_canonical h (fun _ _ h' => ?_)
      split
      next e1 => exact poke_canonical (snd_canonical e1 (freeBytes_canonical h'))

theorem racedGate_canonical {t l op x flags} (h : s.Canonical) : (racedGate s t l op x flags).1.Canonical :=
  ite_fst_canonical h (ite_fst_canonical (free_canonical (foldl_fst_canonical h (fun _ _ => racedColumn_canonical)))
    (foldl_fst_canonical h (fun _ _ => racedColumn_canonical)))

theorem endGate_canonical {id op flags} (h : s.Canonical) : (endGate s id op flags).Canonical := by
  have hr {l : List (Nat × GateOp)} {ks : List Nat} :
      (ks.foldl (fun (s : State) k => if k == op.tileD then s else s.onTile op.team k Tile.endRead) { s with gateops := l }).Canonical :=
    foldl_canonical (h.congr rfl) fun _ _ h' => ite_canonical h' (onTile_canonical h')
  unfold endGate
  split
  · dsimp only
    split
    · exact onGroup_canonical (free_canonical (onTile_canonical hr))
    · exact onGroup_canonical (onTile_canonical hr)
  · dsimp only
    split
    · exact onGroup_canonical (free_canonical (leaveStream_canonical (onTile_canonical hr)))
    · exact onGroup_canonical (leaveStream_canonical (onTile_canonical hr))

theorem gateRows_wf {t l op x} (h : s.Canonical) : Memory.wf (gateRows s t l op x).mem = true := by
  refine foldl_keeps (P := fun p : GProg => Memory.wf p.mem = true) (fun _ _ hp => ?_) h.wf
  exact foldl_keeps (P := fun p : GProg => Memory.wf p.mem = true) (fun _ _ hp => Memory.store_wf _ _ _ hp) hp

theorem execGateOpComplete_canonical {core} (h : s.Canonical) : Outcome.Canonical (execGateOpComplete core s) := by
  unfold execGateOpComplete
  split
  · exact h
  next op _ =>
    split
    next t l _ _ =>
      have hg {m : GProg} (hm : Memory.wf m.mem = true) : (({ s with mem := m.mem } : State).noteWrites (gateBytes t l op)).Canonical :=
        ⟨hm⟩
      refine outcome_ite_canonical h (endGate_canonical (racedGate_canonical ?_))
      split
      · exact writeStream_canonical (hg (gateRows_wf h))
      · exact hg (gateRows_wf h)
    · exact h

/-! ### Machine/Job -/

theorem enterTickets_canonical {l b t} (h : s.Canonical) : enterTickets s l = some (b, t) → t.Canonical := by
  fun_induction enterTickets s l generalizing b t
  · rintro ⟨⟩
    exact h
  · rintro ⟨⟩
  next e ih =>
    intro e'
    obtain ⟨⟨_, _⟩, e2, ⟨⟩⟩ := Option.map_eq_some_iff.mp e'
    exact ih (enterFault_canonical h e) e2

theorem askLine_canonical {id j x} (h : s.Canonical) : (askLine id j s x).Canonical := ite_canonical h (sendPeer_canonical h)

theorem jobStore_canonical {id j p b} (h : s.Canonical) : (jobStore id j s p b).Canonical := by
  unfold jobStore
  split
  · exact poke_canonical (holdDirty_canonical (ite_canonical (dirtyFrame_canonical h) h))
  · split
    · exact poke_canonical (holdDirty_canonical (used_canonical h))
    · exact sendPeer_canonical (used_canonical h)

theorem unitCheck_canonical {id j reads writes go} (h : s.Canonical) (hgo : ∀ s, s.Canonical → (go s).Canonical) :
    (unitCheck s id j reads writes go).Canonical := by
  unfold unitCheck
  split
  · split
    · exact logMalformed_canonical h
    · exact h
  · split
    · exact logEvent_canonical h
    · dsimp only
      split
      · split
        · exact hgo _ (foldl_canonical h (fun _ _ => touch_canonical))
        · exact foldl_canonical (foldl_canonical h (fun _ _ => touch_canonical)) fun _ _ => askLine_canonical
      · split
        · exact h
        next e2 => exact enterTickets_canonical h e2

theorem orFree_canonical {open_ a b} (h : s.Canonical) : (orFree open_ s a b).2.Canonical := by
  unfold orFree
  refine ite_snd_canonical ?_ h
  split
  next e => exact snd_canonical e (freeBytes_canonical h)

theorem copyUnit_canonical {id j t l srcSump dstSump u} (h : s.Canonical) : (copyUnit s id j t l srcSump dstSump u).Canonical := by
  unfold copyUnit
  exact unitCheck_canonical h (fun _ h' => foldl_canonical h' (fun _ _ h'' => jobStore_canonical (orFree_canonical h'')))

theorem planeUnit_canonical {id j t l src dst u} (h : s.Canonical) : (planeUnit s id j t l src dst u).Canonical := by
  unfold planeUnit
  exact unitCheck_canonical h fun _ => teamWrite_canonical

theorem putWord7_canonical {id j} (h : s.Canonical) : (putWord7 s id j).1.Canonical := by
  unfold putWord7
  dsimp only
  split
  · split
    · exact jobStore_canonical h
    · exact logMalformed_canonical h
    · exact h
  · exact h

theorem jobFaulted_canonical {j} (h : s.Canonical) : (jobFaulted s j).Canonical := by
  unfold jobFaulted
  split
  · exact setLaunch_canonical h
  · exact h

theorem racedPiece_canonical {id j t l srcSump dstSump p} (h : s.Canonical) : (racedPiece id j t l srcSump dstSump s p).Canonical := by
  unfold racedPiece
  refine foldl_canonical h (fun _ _ h' => ite_canonical ?_ h')
  split
  · split
    next e1 => exact jobStore_canonical (snd_canonical e1 (freeBytes_canonical h'))
  · exact h'

theorem racedBlock_canonical {j t l src dst u} (h : s.Canonical) : (racedBlock j t l src dst s u).1.Canonical := by
  unfold racedBlock
  refine foldl_canonical h (fun _ _ h' => ite_canonical ?_ h')
  split
  next e => exact teamWrite_canonical (snd_canonical e (freeBytes_canonical h'))

theorem racedResult_canonical {id j} (h : s.Canonical) : (racedResult s id j).1.Canonical := by
  unfold racedResult
  split
  · split
    · exact foldl_canonical h (fun _ _ h' => foldl_canonical h' (fun _ _ => racedPiece_canonical))
    · exact ite_fst_canonical (free_canonical (foldl_fst_canonical h (fun _ _ => racedBlock_canonical)))
        (foldl_fst_canonical h (fun _ _ => racedBlock_canonical))
    · exact h
  · exact h

theorem leavePump_canonical {id j} (h : s.Canonical) : (leavePump s id j).Canonical := by
  unfold leavePump
  extract_lets s1 s2 s3 s4
  have h1 : s1.Canonical := by
    unfold s1
    split
    · exact onTile_canonical h
    · exact h
  have h2 : s2.Canonical := by
    unfold s2
    split
    · exact onTile_canonical h1
    · exact h1
  have h4 : s4.Canonical := onGroup_canonical (ite_canonical h2 (report_canonical (jobFaulted_canonical h2)))
  exact h4.congr rfl

theorem finishJob_canonical {id j} (h : s.Canonical) : (finishJob s id j).Canonical := by
  unfold finishJob
  split
  next e =>
    have hr := fst_canonical e (ite_fst_canonical h (racedResult_canonical h))
    exact ite_canonical (leavePump_canonical (putWord7_canonical hr)) ((putWord7_canonical hr).congr rfl)

theorem joinCcwait_canonical {j} (h : s.Canonical) : (joinCcwait s j).Canonical := ite_canonical h (h.congr rfl)

theorem afterUnit_canonical {id j} (h : s.Canonical) : (afterUnit s id j).Canonical :=
  ite_canonical (h.congr rfl) (ite_canonical (finishJob_canonical h)
    (ite_canonical ((putWord7_canonical h).congr rfl) (joinCcwait_canonical ((putWord7_canonical h).congr rfl))))

theorem tryUnit_canonical {id j t l u} (h : s.Canonical) : (tryUnit s id j t l u).Canonical := by
  unfold tryUnit
  split
  · exact copyUnit_canonical h
  · exact planeUnit_canonical h
  · exact h

theorem execJobStart_canonical {job} (h : s.Canonical) : Outcome.Canonical (execJobStart job s) := by
  unfold execJobStart
  split
  · exact h
  · split
    · exact h.congr rfl
    · exact h

theorem copySector_canonical {id c} (h : s.Canonical) : (copySector s id c).Canonical := by
  unfold copySector
  split
  · exact h
  · refine ite_canonical h ?_
    split
    next e1 => exact (copyUnit_canonical h).stays e1
    next e1 => exact ((copyUnit_canonical h).written e1).congr rfl
    next e1 => exact ((copyUnit_canonical h).missing e1).congr rfl
    next e1 => exact ((copyUnit_canonical h).failed e1).congr rfl

theorem serveJob_canonical {id j} (h : s.Canonical) : (serveJob s id j).Canonical := by
  unfold serveJob
  split
  · exact afterUnit_canonical h
  · split
    next e3 => exact (tryUnit_canonical h).stays e3
    next e3 => exact afterUnit_canonical ((tryUnit_canonical h).written e3)
    next e3 => exact afterUnit_canonical ((tryUnit_canonical h).missing e3)
    next e3 => exact afterUnit_canonical ((tryUnit_canonical h).failed e3)
  · exact h

theorem openSome_canonical {id l} {x : State × Job} (h : x.1.Canonical) : (openSome id l x).1.Canonical := by
  fun_induction openSome id l x
  · exact h
  · exact h
  next e ih => exact ih (enterFault_canonical h e)

theorem openPages_canonical {id} (h : s.Canonical) : (openPages s id).Canonical := by
  unfold openPages
  split
  · exact h
  · exact (openSome_canonical h).congr rfl

theorem execPumpSector_canonical {job} (h : s.Canonical) : Outcome.Canonical (execPumpSector job s) := by
  unfold execPumpSector
  split
  · split
    · exact copySector_canonical h
    · exact h
  · split
    · exact openPages_canonical h
    · split
      · exact ite_canonical (leavePump_canonical h) h
      · split
        · exact serveJob_canonical (setCore_canonical h)
        · exact h

theorem startJob_canonical {is j} (h : s.Canonical) : (startJob s is j).2.Canonical := by
  unfold startJob
  split
  next k s1 e =>
    extract_lets j1 s2 s3
    have h1 : s1.Canonical := snd_canonical e (h.congr rfl)
    have h2 : s2.Canonical := by
      unfold s2
      split
      · exact onTile_canonical h1
      · exact h1
    have h3 : s3.Canonical := by
      unfold s3
      split
      · exact onTile_canonical h2
      · exact h2
    exact onGroup_canonical (h3.congr rfl)

theorem withPump_canonical {is go} (h : s.Canonical) (hgo : go.Canonical) : (withPump is s go).Canonical := by
  unfold withPump
  split
  · exact h
  · exact hgo

theorem cpyCard_canonical {o is a at_ c} (h : s.Canonical) : (cpyCard o is s a at_ c).Canonical := by
  unfold cpyCard
  extract_lets srcSump dstSump d counter n
  clear_value d counter
  split
  · exact h
  · exact h
  · refine verdict_ite_canonical h (verdict_ite_canonical h ?_)
    split
    next e =>
      have hc := fst_canonical e (checkRegs_canonical h)
      exact verdict_ite_canonical hc (verdict_ite_canonical hc (startJob_canonical hc))

theorem execCpy_canonical {o} (h : s.Canonical) : Outcome.Canonical (execCpy o s) := by
  unfold execCpy
  refine execE_canonical (fun _ _ h' => withPump_canonical h' ?_) h ahead_canonical
  split
  next e => exact (readOnce_canonical h').stop e
  next e => exact cpyCard_canonical ((readOnce_canonical h').got e)

theorem planeIssue_canonical {o is} (h : s.Canonical) : (planeIssue o is s).Canonical := by
  unfold planeIssue
  split
  · dsimp only
    split <;> exact h
  · dsimp only
    split <;> exact h
  · split
    · dsimp only
      split
      · exact h
      · split <;> exact h
    · dsimp only
      split
      · exact h
      · split
        · exact h
        · exact startJob_canonical h

theorem parkCcwait_canonical {is n ts} (h : s.Canonical) : (parkCcwait s is n ts).Canonical := (onGroup_canonical h).congr rfl

theorem execCcwait_canonical {o} (h : s.Canonical) : Outcome.Canonical (execCcwait o s) := by
  unfold execCcwait
  refine execE_canonical (fun _ _ h' => ?_) h ahead_canonical
  dsimp only
  split
  · exact h'
  · split
    · exact h'
    · exact parkCcwait_canonical h'

theorem streamJob_canonical {o isImport is} (h : s.Canonical) : (streamJob o isImport is s).Canonical := by
  unfold streamJob
  split
  · dsimp only
    split
    · exact h
    · split
      · exact h
      · exact joinStream_canonical (startJob_canonical h)
  · dsimp only
    split
    · exact h
    · split
      · exact h
      · exact joinStream_canonical (startJob_canonical h)

theorem racedRead_canonical {t l j off} {x : List Byte × State} (h : x.2.Canonical) : (racedRead t l j x off).2.Canonical :=
  ite_snd_canonical h (orFree_canonical h)

theorem racedWritten_canonical {t l j off n} (h : s.Canonical) : (racedWritten t l j off n s).Canonical :=
  ite_canonical h (teamWrite_canonical (racedRead_canonical h))

theorem writeRow_canonical {t l j r n b} (h : s.Canonical) : (writeRow t l j r n b s).Canonical :=
  foldl_canonical h (fun _ _ h' => racedWritten_canonical (teamWrite_canonical h'))

theorem rowBytes_canonical {t l j r l1} (h : s.Canonical) : (rowBytes t l j r l1 s).2.Canonical := by
  fun_induction rowBytes t l j r l1 s
  · exact h
  next e _ _ e1 ih => exact snd_canonical e1 (ih (snd_canonical e (ite_snd_canonical (racedRead_canonical h) h)))

theorem exportStream_canonical {t l j n a st it} (h : s.Canonical) : (exportStream s t l j n a st it).Canonical :=
  racedWritten_canonical (teamWrite_canonical (ite_snd_canonical (rowBytes_canonical (rowBytes_canonical h)) (rowBytes_canonical h)))

theorem importStream_canonical {t l j n a st it} (h : s.Canonical) : (importStream s t l j n a st it).2.Canonical :=
  ite_snd_canonical (racedRead_canonical h) (setStream_canonical
    (ite_canonical (writeRow_canonical (writeRow_canonical (racedRead_canonical h))) (writeRow_canonical (racedRead_canonical h))))

theorem endStreamJob_canonical {id j n flags} (h : s.Canonical) : (endStreamJob s id j n flags).Canonical :=
  finishJob_canonical (leaveStream_canonical h)

theorem execStreamJobComplete_canonical {job} (h : s.Canonical) : Outcome.Canonical (execStreamJobComplete job s) := by
  unfold execStreamJobComplete
  split
  · exact h
  · split
    · split
      · split
        · exact endStreamJob_canonical (exportStream_canonical h)
        · exact h
      · split
        · exact endStreamJob_canonical (importStream_canonical h)
        · exact h
      · exact h
    · exact h

theorem execSrst_canonical {o} (h : s.Canonical) : Outcome.Canonical (execSrst o s) := by
  unfold execSrst
  refine execE_canonical (fun _ _ h' => ?_) h ahead_canonical
  split
  · dsimp only
    split
    · exact h'
    · split
      · exact h'
      · exact setStream_canonical h'
  · split
    · dsimp only
      split <;> exact h'
    · dsimp only
      split
      · exact h'
      · exact setStream_canonical h'

/-! ### Machine/Barrier -/

theorem releaseBar_canonical {team n gen} (h : s.Canonical) : (releaseBar s team n gen).Canonical := h.congr rfl

theorem settleBar_canonical {team n} (h : s.Canonical) : (settleBar s team n).Canonical := by
  unfold settleBar
  split
  · exact h
  · exact ite_canonical (releaseBar_canonical (setTeam_canonical h)) h

theorem arriveBar_canonical {is n} (h : s.Canonical) : (arriveBar s is n).Canonical := by
  unfold arriveBar
  split
  · exact h
  · exact settleBar_canonical (setTeam_canonical h)

theorem leaveTeam_canonical {team index} (h : s.Canonical) : (leaveTeam s team index).Canonical := by
  unfold leaveTeam
  split
  · exact h
  · exact ite_canonical (setTeam_canonical h) (foldl_canonical (setTeam_canonical h) (fun _ _ => settleBar_canonical))

theorem execBarrier_canonical {o pair reads writes body} (hbody : ∀ is s, s.Canonical → (body is s).Canonical) (h : s.Canonical) :
    Outcome.Canonical (execBarrier o pair reads writes body s) := by
  unfold execBarrier
  refine execE_canonical (fun _ _ h' => ?_) h ahead_canonical
  split
  · exact h'
  · split
    · exact h'
    · split
      · exact h'
      · exact hbody _ _ h'

theorem barBody_canonical {o is} (h : s.Canonical) : (barBody o is s).Canonical := arriveBar_canonical (onGroup_canonical h)

theorem execBarw_canonical {o} (h : s.Canonical) : Outcome.Canonical (execBarw o s) := by
  unfold execBarw
  refine execBarrier_canonical (fun _ _ h' => ?_) h
  dsimp only
  split
  · exact h'
  · exact onGroup_canonical h'

theorem execQcfg_canonical {o} (h : s.Canonical) : Outcome.Canonical (execQcfg o s) := by
  unfold execQcfg
  refine execE_canonical (fun is s h => ?_) h ahead_canonical
  extract_lets a cap code held s1
  clear_value code held
  generalize mustWait s is.key .rel true = waits
  exact verdict_ite_canonical h (verdict_ite_canonical h (verdict_ite_canonical (setTeam_canonical h)
    (teamWrite_canonical (setTeam_canonical h))))

theorem setHandoff_canonical {is n q} (h : s.Canonical) : (setHandoff s is n q).Canonical := by
  unfold setHandoff
  split
  · exact setTeam_canonical h
  · exact h

theorem ringNow_canonical {is q} (h : s.Canonical) : (ringNow s is q).2.Canonical := by
  unfold ringNow
  refine ite_snd_canonical (draw_canonical (draw_canonical (draw_canonical ?_))) h
  split
  · exact setTeam_canonical h
  · exact h

theorem execQpush_canonical {o} (h : s.Canonical) : Outcome.Canonical (execQpush o s) := by
  unfold execQpush
  refine execE_canonical (fun _ _ h' => ?_) h ahead_canonical
  extract_lets n
  split
  · exact h'
  · split
    · exact h'
    · exact setHandoff_canonical h'
    · dsimp only
      split
      · exact teamWrite_canonical (teamWrite_canonical (setHandoff_canonical (ringNow_canonical h')))
      · exact setHandoff_canonical (ringNow_canonical h')

theorem execQpop_canonical {o} (h : s.Canonical) : Outcome.Canonical (execQpop o s) := by
  unfold execQpop
  refine execE_canonical (fun _ _ h' => ?_) h ahead_canonical
  dsimp only
  split
  · exact h'
  · split
    · exact onGroup_canonical (teamWrite_canonical (setHandoff_canonical (ringNow_canonical h')))
    · exact setHandoff_canonical (ringNow_canonical h')

/-! ### Machine/System -/

theorem execS_canonical {o reads writes body} (hbody : ∀ is s, s.Canonical → (body is s).Canonical) (h : s.Canonical) :
    Outcome.Canonical (execS o reads writes body s) :=
  run_canonical h (fun _ _ h' => hbody _ _ h') ahead_canonical

theorem execTrap_canonical {o} (h : s.Canonical) : Outcome.Canonical (execTrap o s) := by
  unfold execTrap
  refine execS_canonical (fun _ _ h' => ?_) h
  split <;> exact h'

theorem areaLine_canonical {k g va} (h : s.Canonical) : (areaLine s k g va).Canonical := by
  unfold areaLine
  split
  · exact trivial
  · split
    · exact trivial
    · exact trivial
    · exact trivial
    · split
      · dsimp only
        split
        · exact trivial
        · exact used_canonical h
      · split
        · exact used_canonical h
        · dsimp only
          split
          · exact used_canonical h
          · split
            · split
              · exact askOnce_canonical (used_canonical h)
              · exact trivial
            · exact trivial

theorem areaLines_canonical {k g n n1} (h : s.Canonical) : (areaLines k g n n1 s).Canonical := by
  fun_induction areaLines k g n n1 s
  · exact h
  · exact trivial
  next e _ _ e1 ih => exact (ih ((areaLine_canonical h).got e)).got e1
  next e _ ih => exact ih ((areaLine_canonical h).got e)
  next e _ _ e1 ih => exact (ih ((areaLine_canonical h).wait e)).got e1
  next e _ ih => exact ih ((areaLine_canonical h).wait e)

theorem finishTret_canonical {is g h0} (h : s.Canonical) : (finishTret s is g h0).Canonical := by
  unfold finishTret
  split
  · exact haltGroup_canonical (logDevFault_canonical (setGroup_canonical h))
  next e => exact (areaLines_canonical h).wait e
  next e =>
    split
    · exact setGroup_canonical ((areaLines_canonical h).got e)
    · exact haltGroup_canonical (setGroup_canonical ((areaLines_canonical h).got e))

theorem tretBody_canonical {is} (h : s.Canonical) : (tretBody is s).Canonical := by
  unfold tretBody
  split
  · exact h
  · split
    · exact h
    · dsimp only
      split
      · exact finishTret_canonical h
      · split
        · exact h
        · exact setGroup_canonical h

theorem execWsp_canonical {o} (h : s.Canonical) : Outcome.Canonical (execWsp o s) := by
  unfold execWsp
  refine execS_canonical (fun _ _ h' => ?_) h
  dsimp only
  split
  · exact h'
  · exact onGroup_canonical h'

theorem execRgn_canonical {o} (h : s.Canonical) : Outcome.Canonical (execRgn o s) := by
  unfold execRgn
  refine execS_canonical (fun _ _ h' => ?_) h
  split
  · exact h'
  · exact onGroup_canonical h'

theorem execPause_canonical {o} (h : s.Canonical) : Outcome.Canonical (execPause o s) := by
  unfold execPause
  refine execS_canonical (fun _ _ h' => ?_) h
  split
  · exact h'
  · exact onGroup_canonical h'

/-! ### Machine/MainFile -/

theorem dropDups_canonical {core} (h : s.Canonical) : (dropDups s core).Canonical := h.congr rfl

theorem saveParity_canonical {key} (h : s.Canonical) : (saveParity s key).Canonical := by
  unfold saveParity
  split
  · exact h
  · exact onGroup_canonical (foldl_fst_canonical h (fun _ _ => mendWord_canonical))

theorem evict_canonical {key} (h : s.Canonical) : (evict s key).Canonical := onGroup_canonical (saveParity_canonical (onGroup_canonical h))

theorem refile_canonical {key} (h : s.Canonical) : (refile s key).Canonical := onGroup_canonical h

theorem fitWords_canonical {before after core key} (h : before.Canonical) (h' : after.Canonical) :
    (fitWords before after core key).Canonical := by
  unfold fitWords
  refine ite_canonical h' (ite_canonical (dropDups_canonical h') ?_)
  split
  · exact h'
  · exact ite_canonical (h.congr rfl) ((evict_canonical (dropDups_canonical h)).congr rfl)

/-! ### Machine/MemOps -/

theorem afterOrder_canonical {cls stores body is} (hbody : ∀ is s, s.Canonical → (body is s).Canonical) (h : s.Canonical) :
    (afterOrder cls stores body is s).Canonical := by
  unfold afterOrder
  split
  · exact h
  · split
    · exact h
    · exact hbody _ _ h

theorem execM_canonical {o reads writes stores body} (hbody : ∀ is s, s.Canonical → (body is s).Canonical) (h : s.Canonical) :
    Outcome.Canonical (execM o reads writes stores body s) :=
  run_canonical h (fun _ _ h' => afterOrder_canonical (fun _ _ h'' => hbody _ _ h'') h') ahead_canonical

theorem execLd_canonical {o} (h : s.Canonical) : Outcome.Canonical (execLd o s) := by
  unfold execLd
  refine execM_canonical (fun _ _ h' => ?_) h
  split
  next e => exact (checkLanes_canonical h').stop e
  next e => exact loadLanes_canonical ((checkLanes_canonical h').go e)

theorem execSt_canonical {o} (h : s.Canonical) : Outcome.Canonical (execSt o s) := by
  unfold execSt
  refine execM_canonical (fun _ _ h' => ?_) h
  split
  next e => exact (checkLanes_canonical h').stop e
  next e =>
    split
    · exact h'
    · exact storeLanes_canonical ((checkLanes_canonical h').go e)

theorem blockCheck_canonical {is o n go} (h : s.Canonical) (hgo : ∀ f, (go f).Canonical) : (blockCheck s is o n go).Canonical := by
  unfold blockCheck
  dsimp only
  split
  · exact h
  · split
    · exact h
    · exact hgo _

theorem execLdb_canonical {o} (h : s.Canonical) : Outcome.Canonical (execLdb o s) := by
  unfold execLdb
  refine execM_canonical (fun _ _ h' => blockCheck_canonical h' (fun _ => ?_)) h
  split
  next e => exact (checkLanes_canonical h').stop e
  next e => exact loadLanes_canonical ((checkLanes_canonical h').go e)

theorem execStb_canonical {o} (h : s.Canonical) : Outcome.Canonical (execStb o s) := by
  unfold execStb
  refine execM_canonical (fun _ _ h' => blockCheck_canonical h' (fun _ => ?_)) h
  split
  next e => exact (checkLanes_canonical h').stop e
  next e =>
    split
    · exact h'
    · exact storeLanes_canonical ((checkLanes_canonical h').go e)

theorem protOn_canonical {is o m} (h : s.Canonical) : (protOn s is o m).Canonical := h

theorem execCtag_canonical {o} (h : s.Canonical) : Outcome.Canonical (execCtag o s) := by
  unfold execCtag
  refine run_canonical h (fun _ _ h' => afterOrder_canonical (fun _ _ h'' => ?_) h') ahead_canonical
  split
  · exact protOn_canonical h''
  · exact onGroup_canonical h''

theorem execCins_canonical {o} (h : s.Canonical) : Outcome.Canonical (execCins o s) := by
  unfold execCins
  refine run_canonical h (fun _ _ h' => afterOrder_canonical (fun _ _ h'' => ?_) h') ahead_canonical
  split
  · exact protOn_canonical h''
  · dsimp only
    split
    · exact protOn_canonical h''
    · exact setCore_canonical h''

theorem execCinv_canonical {o} (h : s.Canonical) : Outcome.Canonical (execCinv o s) := by
  unfold execCinv
  refine run_canonical h (fun _ _ h' => afterOrder_canonical (fun _ _ h'' => ?_) h') ahead_canonical
  split
  · exact protOn_canonical h''
  · exact setCore_canonical h''

theorem hallocLane_canonical {is n} (h : s.Canonical) : (hallocLane is s n).2.2.Canonical := by
  unfold hallocLane
  split
  · exact h
  · split
    · exact h
    · dsimp only
      split
      · exact h
      · exact setCtx_canonical (draw_canonical h)

theorem hallocLanes_canonical {is o l} (h : s.Canonical) : (hallocLanes is o l s).2.2.Canonical := by
  fun_induction hallocLanes is o l s
  · exact h
  next e _ _ _ e1 ih => exact snd_snd_canonical e1 (ih (snd_snd_canonical e (hallocLane_canonical h)))

theorem execHalloc_canonical {o} (h : s.Canonical) : Outcome.Canonical (execHalloc o s) :=
  run_canonical h (fun _ _ h' => afterOrder_canonical (fun _ _ h'' => onGroup_canonical (hallocLanes_canonical h'')) h') ahead_canonical

theorem execHfree_canonical {o} (h : s.Canonical) : Outcome.Canonical (execHfree o s) := by
  unfold execHfree
  refine run_canonical h (fun _ _ h' => afterOrder_canonical (fun _ _ h'' => ?_) h') ahead_canonical
  dsimp only
  split
  · exact protOn_canonical h''
  · exact setCtx_canonical h''

/-! ### Machine/Launch -/

theorem readSeeds_canonical {c r b t} (h : s.Canonical) : readSeeds s c r = .ok (b, t) → t.Canonical := by
  unfold readSeeds
  split
  · rintro ⟨⟩
    exact h
  · intro e
    obtain ⟨⟨_, _⟩, e, ⟨⟩⟩ := map_eq_ok e
    exact readVA_canonical h e

theorem readArgs_canonical {c r args b t} (h : s.Canonical) : readArgs s c r args = .ok (b, t) → t.Canonical := by
  unfold readArgs
  split
  · rintro ⟨⟩
    exact h
  · split
    · rintro ⟨⟩
      exact h
    · intro e
      obtain ⟨⟨_, _⟩, e, ⟨⟩⟩ := map_eq_ok e
      exact readVA_canonical h e

theorem enterLaunch_canonical {c va live args origin iv} (h : s.Canonical) : (enterLaunch s c va live args origin iv).Canonical := by
  unfold enterLaunch
  split
  · exact h
  · split
    · exact trivial
    next e =>
      dsimp only
      split
      · exact readVA_canonical h e
      · split
        · exact trivial
        next e1 =>
          split
          · exact trivial
          next e2 => exact setLaunch_canonical (fresh_canonical (readArgs_canonical (readSeeds_canonical (readVA_canonical h e) e1) e2))

theorem complete_canonical {c q tag addr irq status} (h : s.Canonical) : (complete s c q tag addr irq status).Canonical := by
  unfold complete
  refine ite_canonical (signal_canonical (ite_canonical h ?_)) (ite_canonical h ?_)
  · split
    next e => exact writeVA_canonical h e
    · exact report_canonical (logDevFault_canonical h)
  · split
    next e => exact writeVA_canonical h e
    · exact report_canonical (logDevFault_canonical h)

theorem endWork_canonical {q w} (h : s.Canonical) : (endWork s q w).Canonical := setQueue_canonical h

theorem joinAdd_canonical {l} (h : s.Canonical) : (joinAdd s l).Canonical := by
  unfold joinAdd
  refine ite_canonical h ?_
  split
  · exact report_canonical (logDevFault_canonical h)
  next e =>
    split
    · exact report_canonical (logDevFault_canonical h)
    next e1 => exact writeVA_canonical (readVA_canonical h e) e1

theorem tellOrigin_canonical {id l status} (h : s.Canonical) : (tellOrigin s id l status).Canonical := by
  unfold tellOrigin
  split
  · exact endWork_canonical (complete_canonical h)
  · exact h
  · split
    · exact h.congr rfl
    · exact h

theorem endLaunch_canonical {id} (h : s.Canonical) : (endLaunch s id).Canonical := by
  unfold endLaunch
  split
  · exact h
  · exact ite_canonical (joinAdd_canonical (tellOrigin_canonical (h.congr rfl))) h

theorem noteDispatch_canonical {core n} (h : s.Canonical) : (noteDispatch s core n).Canonical := ite_canonical h (setCore_canonical h)

theorem givePart_canonical {key} (h : s.Canonical) : (givePart s key).Canonical := by
  unfold givePart
  split
  · exact h
  · exact setCore_canonical (onGroup_canonical h)

theorem fillParts_canonical {core} (h : s.Canonical) : (fillParts s core).Canonical := by
  unfold fillParts
  dsimp only
  split
  · exact h
  · exact givePart_canonical h

theorem unseat_canonical {key} (h : s.Canonical) : (unseat s key).Canonical :=
  ite_canonical (setCore_canonical (h.congr rfl)) (fillParts_canonical (h.congr rfl))

theorem keepReserve_canonical {id} (h : s.Canonical) : (keepReserve s id).Canonical := by
  unfold keepReserve
  split
  · exact h
  · exact ite_canonical (setLaunch_canonical h) (ite_canonical h (setLaunch_canonical h))

theorem keepReserves_canonical {c} (h : s.Canonical) : (keepReserves s c).Canonical := foldl_canonical h fun _ _ => keepReserve_canonical

theorem nextTeam_canonical {l} (h : s.Canonical) : (nextTeam s l).2.Canonical := by
  unfold nextTeam
  split
  · exact h
  · exact ite_snd_canonical h (draw_canonical h)

theorem dispatchGroup_canonical {id team t l x} (h : s.Canonical) : (dispatchGroup id team t l s x).Canonical :=
  givePart_canonical (setGroup_canonical (fresh_canonical h))

theorem makeWords_canonical {core} (h : s.Canonical) : (makeWords s core).Canonical := ite_canonical h (dropDups_canonical h)

theorem placeTeam_canonical {id l t seat keys} (h : s.Canonical) : (placeTeam s id l t seat keys).Canonical :=
  ite_canonical (endLaunch_canonical (setLaunch_canonical h)) (foldl_canonical
    (foldl_canonical (setTeam_canonical (setLaunch_canonical (foldl_canonical (fresh_canonical h) (fun _ _ => noteDispatch_canonical))))
      (fun _ _ => dispatchGroup_canonical)) (fun _ _ => makeWords_canonical))

theorem execTeamPlacement_canonical {launch slots} (h : s.Canonical) : Outcome.Canonical (execTeamPlacement launch slots s) := by
  unfold execTeamPlacement
  split
  · exact h
  · split
    · exact h
    · split
      · exact h
      next e1 =>
        split
        · exact h
        · split
          · exact keepReserve_canonical (placeTeam_canonical (snd_canonical e1 (nextTeam_canonical h)))
          · exact h

/-! ### Machine/Command -/

theorem endCtxcmd_canonical {fn st} (h : s.Canonical) : (endCtxcmd s fn st).Canonical := setFunc_canonical h

theorem endQcmd_canonical {fn st} (h : s.Canonical) : (endQcmd s fn st).Canonical := setFunc_canonical h

theorem endInval_canonical {fn st} (h : s.Canonical) : (endInval s fn st).Canonical := setFunc_canonical h

theorem endPincmd_canonical {fn st} (h : s.Canonical) : (endPincmd s fn st).Canonical := setFunc_canonical h

theorem endClscmd_canonical {fn st} (h : s.Canonical) : (endClscmd s fn st).Canonical := setFunc_canonical h

theorem endPoolcmd_canonical {fn st} (h : s.Canonical) : (endPoolcmd s fn st).Canonical := setFunc_canonical h

theorem endFwcmd_canonical {fn st} (h : s.Canonical) : (endFwcmd s fn st).Canonical := setFunc_canonical h

/-! ### Machine/Queue -/

theorem writeStatus_canonical {n} (h : s.Canonical) : (writeStatus s n).Canonical := by
  unfold writeStatus
  dsimp only
  split
  next e => exact setQueue_canonical (writeVA_canonical h e)
  · exact ite_canonical (report_canonical (logDevFault_canonical h)) (setQueue_canonical (report_canonical (logDevFault_canonical h)))

theorem moveQueue_canonical {n q} (h : s.Canonical) : (moveQueue s n q).Canonical := writeStatus_canonical (setQueue_canonical h)

theorem settleDisable_canonical {n} (h : s.Canonical) : (settleDisable s n).Canonical := ite_canonical (moveQueue_canonical h) h

theorem failPacket_canonical {n code} (h : s.Canonical) : (failPacket s n code).Canonical := settleDisable_canonical (moveQueue_canonical h)

theorem faultPacket_canonical {n f} (h : s.Canonical) : (faultPacket s n f).Canonical := failPacket_canonical (logDevFault_canonical h)

theorem blockQueue_canonical {n hold} (h : s.Canonical) : (blockQueue s n hold).Canonical := settleDisable_canonical (moveQueue_canonical h)

theorem consume_canonical {n signal} (h : s.Canonical) : (consume s n signal).Canonical := by
  unfold consume
  extract_lets q ri x s1 s2
  have h2 : s2.Canonical := ite_canonical (signal_canonical (setQueue_canonical h)) (setQueue_canonical h)
  exact ite_canonical (settleDisable_canonical h2) (ite_canonical (writeStatus_canonical h2) h2)

theorem takePacket_canonical {n b} (h : s.Canonical) : (takePacket s n b).Canonical := by
  unfold takePacket
  extract_lets q x s1
  have h1 : s1.Canonical := ite_canonical (moveQueue_canonical h) (setQueue_canonical h)
  refine ite_canonical (ite_canonical h (moveQueue_canonical h)) (ite_canonical h1 ?_)
  split
  · exact failPacket_canonical h1
  · exact h1

theorem testSlot_canonical {n} (h : s.Canonical) : (testSlot s n).Canonical := by
  unfold testSlot
  refine ite_canonical h ?_
  split
  · exact faultPacket_canonical h
  next e => exact takePacket_canonical (readVA_canonical h e)

theorem execUnitAssignment_canonical {unit} (h : s.Canonical) : Outcome.Canonical (execUnitAssignment unit s) := by
  unfold execUnitAssignment
  split
  · exact h
  · split
    · exact h
    · exact setQueue_canonical h

theorem execEnable_canonical {fn queue} (h : s.Canonical) : Outcome.Canonical (execEnable fn queue s) := by
  unfold execEnable
  split
  · exact h
  · split
    · exact endQcmd_canonical h
    · split
      · exact endQcmd_canonical h
      · exact endQcmd_canonical (ite_canonical (moveQueue_canonical h) h)

theorem execDisable_canonical {fn queue} (h : s.Canonical) : Outcome.Canonical (execDisable fn queue s) := by
  unfold execDisable
  split
  · exact h
  · split
    · exact endQcmd_canonical h
    · dsimp only
      split
      · exact endQcmd_canonical h
      · exact endQcmd_canonical (ite_canonical (setQueue_canonical h) (settleDisable_canonical (setQueue_canonical h)))

theorem execRestart_canonical {fn queue} (h : s.Canonical) : Outcome.Canonical (execRestart fn queue s) := by
  unfold execRestart
  split
  · exact h
  · split
    · exact endQcmd_canonical h
    · dsimp only
      split
      · exact endQcmd_canonical h
      · split
        · exact endQcmd_canonical h
        · exact endQcmd_canonical (moveQueue_canonical h)

theorem killQueue_canonical {n} (h : s.Canonical) : (killQueue s n).Canonical := setQueue_canonical (moveQueue_canonical h)

/-! ### Machine/RunArith -/

theorem fault_canonical {c f} {x : Accesses} (h : x.s.Canonical) : (Accesses.fault x c f).s.Canonical := logDevFault_canonical h

theorem runRead_canonical {r id j} {x : Accesses} (h : x.s.Canonical) : (runRead r id j x).2.s.Canonical := by
  unfold runRead
  refine ite_snd_s_canonical h (ite_snd_s_canonical ?_ ?_)
  · split
    · exact h
    · exact ite_snd_s_canonical (fault_canonical h) h
  · split
    · exact fault_canonical h
    next e => exact readVA_canonical h e

theorem runWrite_canonical {r id j v} {x : Accesses} (h : x.s.Canonical) : (runWrite r id j v x).s.Canonical := by
  unfold runWrite
  refine ite_s_canonical h (ite_s_canonical ?_ ?_)
  · split
    · exact h
    · exact poke_canonical h
  · split
    · exact fault_canonical h
    next e => exact writeVA_canonical h e

theorem eachComponent_canonical {r f} {x : Accesses} (h : x.s.Canonical) (hf : ∀ j (x : Accesses), x.s.Canonical → (f j x).s.Canonical) :
    (eachComponent r f x).s.Canonical :=
  foldl_s_canonical h (fun _ _ h' => hf _ _ h')

theorem mapComponents_canonical {r f} {x : Accesses} (h : x.s.Canonical) (hf : ∀ j (x : Accesses), x.s.Canonical → (f j x).2.s.Canonical) :
    (mapComponents r f x).2.s.Canonical :=
  foldl_snd_s_canonical h (fun _ _ h' => hf _ _ h')

theorem stageSum_canonical {r terms j} {x : Accesses} (h : x.s.Canonical) : (stageSum r terms j x).2.s.Canonical :=
  foldl_snd_s_canonical h (fun _ _ => runRead_canonical)

theorem stageBase_canonical {r i j} {x : Accesses} (h : x.s.Canonical) : (stageBase r i j x).2.s.Canonical :=
  runRead_canonical (runRead_canonical (stageSum_canonical h))

theorem formStage_canonical {r i} {x : Accesses} (h : x.s.Canonical) : (formStage r i x).s.Canonical :=
  eachComponent_canonical h (fun _ _ h' => runWrite_canonical (stageBase_canonical h'))

theorem tolerances_canonical {r j} {x : Accesses} (h : x.s.Canonical) : (tolerances r j x).2.2.s.Canonical := by
  unfold tolerances
  split
  next e =>
    have h1 := snd_s_canonical e (ite_snd_s_canonical (runRead_canonical h) h)
    split
    next e => exact snd_s_canonical e (ite_snd_s_canonical (runRead_canonical h1) h1)

theorem combineComponent_canonical {r j} {x : Accesses} (h : x.s.Canonical) : (combineComponent r j x).2.s.Canonical :=
  ite_snd_s_canonical (tolerances_canonical (runWrite_canonical
    (runRead_canonical (runRead_canonical (stageSum_canonical (stageSum_canonical h))))))
      (runWrite_canonical (runRead_canonical (runRead_canonical (stageSum_canonical (stageSum_canonical h)))))

theorem commitComponent_canonical {r j} {x : Accesses} (h : x.s.Canonical) : (commitComponent r j x).s.Canonical :=
  runWrite_canonical (runWrite_canonical (runWrite_canonical (runRead_canonical
    (runRead_canonical (runRead_canonical (stageSum_canonical h))))))

theorem newtonResidual_canonical {r i} {x : Accesses} (h : x.s.Canonical) : (newtonResidual r i x).s.Canonical :=
  eachComponent_canonical h (fun _ _ h' => runWrite_canonical (runRead_canonical (stageBase_canonical (runRead_canonical h'))))

theorem newtonUpdate_canonical {r} {x : Accesses} (h : x.s.Canonical) : (newtonUpdate r x).2.s.Canonical :=
  mapComponents_canonical h (fun _ _ h' => tolerances_canonical
    (runRead_canonical (runWrite_canonical (runRead_canonical (runRead_canonical h')))))

theorem denseValue_canonical {r th j} {x : Accesses} (h : x.s.Canonical) : (denseValue r th j x).2.s.Canonical :=
  runRead_canonical (stageSum_canonical h)

theorem eventState_canonical {r th} {x : Accesses} (h : x.s.Canonical) : (eventState r th x).s.Canonical := by
  refine eachComponent_canonical h fun _ _ h' => runWrite_canonical ?_
  cases th with
  | none => exact runRead_canonical h'
  | some th => exact denseValue_canonical h'

theorem truncateState_canonical {r th} {x : Accesses} (h : x.s.Canonical) : (truncateState r th x).s.Canonical :=
  eachComponent_canonical h (fun _ _ h' => runWrite_canonical (runWrite_canonical (denseValue_canonical h')))

/-! ### Machine/RunSeq -/

theorem setRun_canonical {id r} (h : s.Canonical) : (s.setRun id r).Canonical := h.congr rfl

theorem writeBack_canonical {r t} (h : s.Canonical) : writeBack s r = .ok t → t.Canonical := by
  unfold writeBack
  split
  · rintro ⟨⟩
    exact poke_canonical (poke_canonical h)
  · dsimp only
    split
    · rintro ⟨⟩
    next e1 => exact fun h' => writeVA_canonical (writeVA_canonical h e1) h'

theorem endPacket_canonical {id r status} (h : s.Canonical) : (endPacket s id r status).1.Canonical := by
  unfold endPacket
  split
  · exact h
  · exact endWork_canonical (complete_canonical h)

theorem loseWork_canonical {r} (h : s.Canonical) : (loseWork s r).Canonical := by
  unfold loseWork
  refine ite_canonical h (foldl_canonical h (fun _ _ h' => ?_))
  split
  · split
    next e1 => exact poke_canonical (snd_canonical e1 (freeBytes_canonical h'))
  · exact h'

theorem restRun_canonical {id r phase cause} (h : s.Canonical) : (restRun s id r phase cause).Canonical := by
  unfold restRun
  dsimp only
  split
  next e =>
    have hw := writeBack_canonical (loseWork_canonical h) e
    exact ite_canonical ((ite_fst_canonical (endPacket_canonical hw) hw).congr rfl)
      (setRun_canonical (ite_fst_canonical (endPacket_canonical hw) hw))
  · have hw {r} : (loseWork s r).Canonical := loseWork_canonical h
    exact ite_canonical ((ite_fst_canonical (endPacket_canonical (logDevFault_canonical hw)) (logDevFault_canonical hw)).congr rfl)
      (setRun_canonical (ite_fst_canonical (endPacket_canonical (logDevFault_canonical hw)) (logDevFault_canonical hw)))

theorem failRun_canonical {id r cause} (h : s.Canonical) : (failRun s id r cause).Canonical := restRun_canonical h

theorem killRuns_canonical {c} (h : s.Canonical) : (killRuns s c).Canonical :=
  foldl_canonical h (fun _ _ h' => (endPacket_canonical h').congr rfl)

theorem retireTeamRuns_canonical {team} (h : s.Canonical) : (retireTeamRuns s team).Canonical :=
  foldl_canonical h (fun _ _ h' => ite_canonical (failRun_canonical h') (setRun_canonical h'))

theorem runLaunch_canonical {id r which addr values count} (h : s.Canonical) : (runLaunch s id r which addr values count).Canonical := by
  unfold runLaunch
  refine ite_canonical (failRun_canonical h) ?_
  split
  next e => exact setRun_canonical ((enterLaunch_canonical h).ok e)
  next e => exact failRun_canonical ((enterLaunch_canonical h).bad e)
  · exact failRun_canonical (logDevFault_canonical h)

theorem rhsLaunch_canonical {id r i} (h : s.Canonical) : (rhsLaunch s id r i).Canonical := runLaunch_canonical h

theorem solveLaunch_canonical {id r i} (h : s.Canonical) : (solveLaunch s id r i).Canonical := runLaunch_canonical h

theorem eventLaunch_canonical {id r e th h0 time number} (h : s.Canonical) : (eventLaunch s id r e th h0 time number).Canonical := by
  unfold eventLaunch
  split
  · exact failRun_canonical (logDevFault_canonical h)
  next e1 => exact runLaunch_canonical (writeVA_canonical h e1)

theorem withAccesses_canonical {id r f go} (h : s.Canonical) (hf : ∀ x : Accesses, x.s.Canonical → (f x).s.Canonical)
    (hgo : ∀ s, s.Canonical → (go s).Canonical) : (withAccesses s id r f go).Canonical :=
  ite_canonical (failRun_canonical (hf _ h)) (hgo _ (hf _ h))

theorem nextStep_canonical {id r} (h : s.Canonical) : (nextStep s id r).Canonical := setRun_canonical h

theorem afterReject_canonical {id r} (h : s.Canonical) : (afterReject s id r).Canonical :=
  ite_canonical (failRun_canonical h) (ite_canonical (failRun_canonical h) (nextStep_canonical h))

theorem afterAccept_canonical {id r} (h : s.Canonical) : (afterAccept s id r).Canonical :=
  ite_canonical (restRun_canonical h) (ite_canonical (failRun_canonical h) (ite_canonical (restRun_canonical h) (nextStep_canonical h)))

theorem afterStage_canonical {id r i} (h : s.Canonical) : (afterStage s id r i).Canonical := setRun_canonical h

theorem evaluateY_canonical {id r e th h0} (h : s.Canonical) : (evaluateY s id r e th h0).Canonical :=
  withAccesses_canonical h (fun _ => eventState_canonical) fun _ => eventLaunch_canonical

theorem startRun_canonical {id r n} (h : s.Canonical) : (startRun s id r n).Canonical :=
  ite_canonical (restRun_canonical h) (ite_canonical (evaluateY_canonical h) (nextStep_canonical h))

theorem execStageFormed_canonical {run} (h : s.Canonical) : Outcome.Canonical (execStageFormed run s) := by
  unfold execStageFormed
  split
  · exact h
  · split
    · exact h
    · split
      · exact failRun_canonical h
      · exact withAccesses_canonical h (fun _ => formStage_canonical)
          (fun _ h'' => ite_canonical (rhsLaunch_canonical h'') (rhsLaunch_canonical h''))

theorem landing_canonical {id which go} (h : s.Canonical) (hgo : ∀ r l, (go r l).Canonical) : (landing s id which go).Canonical := by
  unfold landing
  split
  · exact h
  · split
    · exact ite_canonical h (ite_canonical (failRun_canonical h) (ite_canonical (failRun_canonical h) (hgo _ _)))
    · exact h

theorem execStageLaunchDone_canonical {run} (h : s.Canonical) : Outcome.Canonical (execStageLaunchDone run s) :=
  landing_canonical h (fun _ _ => ite_canonical (withAccesses_canonical h (fun _ => newtonResidual_canonical)
    (fun _ => solveLaunch_canonical)) (afterStage_canonical h))

theorem execSolveLaunchDone_canonical {run} (h : s.Canonical) : Outcome.Canonical (execSolveLaunchDone run s) :=
  landing_canonical h (fun _ _ => ite_canonical (failRun_canonical (newtonUpdate_canonical h))
    (ite_canonical (afterStage_canonical (newtonUpdate_canonical h))
      (ite_canonical (afterReject_canonical (newtonUpdate_canonical h)) (rhsLaunch_canonical (newtonUpdate_canonical h)))))

theorem execEstimateFormed_canonical {run} (h : s.Canonical) : Outcome.Canonical (execEstimateFormed run s) := by
  unfold execEstimateFormed
  split
  · exact h
  · split
    · exact h
    · split
      · exact failRun_canonical h
      · split
        next e =>
          have hx := snd_s_canonical e (mapComponents_canonical h fun _ _ => combineComponent_canonical)
          split
          · exact failRun_canonical hx
          · extract_lets err
            exact outcome_ite_canonical (afterReject_canonical hx)
              (withAccesses_canonical hx (fun _ h' => eachComponent_canonical h' fun _ _ => commitComponent_canonical)
                fun _ h' => ite_canonical (evaluateY_canonical h') (afterAccept_canonical h'))

theorem goOnLocating_canonical {id r l ended} (h : s.Canonical) : (goOnLocating s id r l ended).Canonical := by
  unfold goOnLocating
  split
  · exact withAccesses_canonical h (fun _ => truncateState_canonical) fun _ => restRun_canonical
  · exact withAccesses_canonical h (fun _ => eventState_canonical) fun _ => eventLaunch_canonical

theorem evaluated_canonical {id r e g} (h : s.Canonical) : (evaluated s id r e g).Canonical := by
  unfold evaluated
  split
  · exact nextStep_canonical h
  · exact ite_canonical (afterAccept_canonical h) (goOnLocating_canonical h)
  · split
    · exact h
    · exact goOnLocating_canonical h

theorem execEventLaunchDone_canonical {run} (h : s.Canonical) : Outcome.Canonical (execEventLaunchDone run s) := by
  unfold execEventLaunchDone
  refine landing_canonical h (fun _ _ => ?_)
  split
  · exact failRun_canonical (logDevFault_canonical h)
  next e =>
    split
    · exact evaluated_canonical (readVA_canonical h e)
    · exact readVA_canonical h e

theorem toleranceOk_canonical {r id} {x : Accesses} (h : x.s.Canonical) : (toleranceOk r id x).2.s.Canonical :=
  foldl_snd_s_canonical h (fun _ _ => runRead_canonical)

theorem tolerancesOk_canonical {r} {x : Accesses} (h : x.s.Canonical) : (tolerancesOk r x).2.s.Canonical := by
  unfold tolerancesOk
  split
  next e =>
    have h1 := snd_s_canonical e (ite_snd_s_canonical (toleranceOk_canonical h) h)
    split
    next e => exact snd_s_canonical e (ite_snd_s_canonical (toleranceOk_canonical h1) h1)

theorem openRun_canonical {ctx core die team tab at_ atKey b ev packet} (h : s.Canonical) :
    (openRun s ctx core die team tab at_ atKey b ev packet).Canonical := by
  unfold openRun
  split
  · exact h
  · dsimp only
    split
    · exact h
    · split
      · exact h
      · split
        · exact tolerancesOk_canonical h
        · split
          · exact tolerancesOk_canonical h
          · split
            · exact tolerancesOk_canonical h
            · split
              next e => exact setRun_canonical (writeBack_canonical (loseWork_canonical (draw_canonical (tolerancesOk_canonical h))) e)
              · exact failRun_canonical (logDevFault_canonical (loseWork_canonical (draw_canonical (tolerancesOk_canonical h))))

theorem putScal_canonical {is o x} (h : s.Canonical) : (putScal s is o x).Canonical := onGroup_canonical h

theorem execIvtab_canonical {o} (h : s.Canonical) : Outcome.Canonical (execIvtab o s) := by
  unfold execIvtab
  refine execE_canonical (fun _ _ h' => ?_) h ahead_canonical
  dsimp only
  split
  · exact h'
  · split
    next e => exact (readRange_canonical h').stop e
    next e =>
      have h1 := (readRange_canonical h').got e
      split
      next e => exact (readRange_canonical h1).stop e
      next e =>
        have h2 := (readRange_canonical h1).got e
        exact putScal_canonical (ite_canonical (setCtx_canonical h2) h2)

theorem readEvent_canonical {is a go} (h : s.Canonical) (hgo : ∀ s ev, s.Canonical → (go s ev).Canonical) :
    (readEvent is a s go).Canonical := by
  unfold readEvent
  split
  · exact hgo _ _ h
  · split
    next e => exact (readRange_canonical h).stop e
    next e =>
      split
      · exact hgo _ _ ((readRange_canonical h).got e)
      · split
        next e1 => exact (readRange_canonical ((readRange_canonical h).got e)).stop e1
        next e1 => exact hgo _ _ ((readRange_canonical ((readRange_canonical h).got e)).got e1)

theorem execIvopen_canonical {o} (h : s.Canonical) : Outcome.Canonical (execIvopen o s) := by
  unfold execIvopen
  refine execE_canonical (fun _ _ h' => ?_) h ahead_canonical
  split
  · dsimp only
    split <;> exact h'
  · dsimp only
    split
    · exact h'
    · split
      next e => exact (readRange_canonical h').stop e
      next e =>
        refine readEvent_canonical ((readRange_canonical h').got e) (fun _ _ h' => ?_)
        split
        next e1 => exact putScal_canonical ((openRun_canonical h').ok e1)
        next e1 => exact putScal_canonical ((openRun_canonical h').code e1)

theorem execIvgo_canonical {o} (h : s.Canonical) : Outcome.Canonical (execIvgo o s) := by
  unfold execIvgo
  refine execE_canonical (fun _ _ h' => ?_) h ahead_canonical
  split
  · exact h'
  · dsimp only
    split
    · exact putScal_canonical h'
    · split
      · exact putScal_canonical h'
      · split
        · exact putScal_canonical h'
        · exact putScal_canonical (startRun_canonical h')

theorem denseQuery_canonical {run time c} (h : s.Canonical) : (denseQuery s run time c).2.2.Canonical := by
  unfold denseQuery
  split
  · exact h
  · split
    · exact h
    · split
      · exact h
      · dsimp only
        split
        · exact h
        · split <;> exact denseValue_canonical h

theorem denseQueries_canonical {run time comp l} (h : s.Canonical) : (denseQueries run time comp l s).2.Canonical := by
  fun_induction denseQueries run time comp l s
  · exact h
  next e _ _ e1 ih => exact snd_canonical e1 (ih (snd_snd_canonical e (denseQuery_canonical h)))

theorem execIvwait_canonical {o} (h : s.Canonical) : Outcome.Canonical (execIvwait o s) := by
  unfold execIvwait
  refine execE_canonical (fun _ _ h' => ?_) h ahead_canonical
  split
  · exact putScal_canonical h'
  · split
    · exact putScal_canonical h'
    · exact h'

theorem execIvclose_canonical {o} (h : s.Canonical) : Outcome.Canonical (execIvclose o s) := by
  refine execE_canonical (fun is s h => ?_) h ahead_canonical
  extract_lets k
  split
  · exact h
  · split
    · exact putScal_canonical h
    next r _ =>
      split
      · exact putScal_canonical h
      · extract_lets s2
        have h2 : s2.Canonical := by
          unfold s2
          split
          next e => exact writeBack_canonical h e
          · exact logDevFault_canonical h
        exact putScal_canonical (h2.congr rfl)

/-! ### Machine/Packet -/

theorem addWork_canonical {n w} (h : s.Canonical) : (addWork s n w).Canonical := setQueue_canonical h

theorem actLaunch_canonical {n q} (h : s.Canonical) : (actLaunch s n q).Canonical := by
  unfold actLaunch
  dsimp only
  split
  · exact h
  · split
    next e => exact addWork_canonical ((enterLaunch_canonical h).ok e)
    next e => exact (enterLaunch_canonical h).bad e
    · exact trivial

theorem actCopy_canonical {n q} (h : s.Canonical) : (actCopy s n q).Canonical := by
  unfold actCopy
  split
  next e =>
    dsimp only
    split
    · exact h
    · exact addWork_canonical ((snd_canonical e (fresh_canonical h)).congr rfl)

theorem actWaitval_canonical {q} (h : s.Canonical) : (actWaitval s q).Canonical := by
  unfold actWaitval
  dsimp only
  split
  · exact h
  · split
    · exact trivial
    next e =>
      split <;> exact readVA_canonical h e

theorem actWriteval_canonical {q} (h : s.Canonical) : (actWriteval s q).Canonical := by
  unfold actWriteval
  dsimp only
  split
  · exact h
  · split
    · split
      · exact trivial
      next e1 => exact writeVA_canonical h e1
    · split
      · exact trivial
      next e =>
        split
        · exact trivial
        next e1 => exact writeVA_canonical (readVA_canonical h e) e1

theorem readRunEvent_canonical {c a b t} (h : s.Canonical) : readRunEvent s c a = .ok (b, t) → t.Canonical := by
  unfold readRunEvent
  split
  · rintro ⟨⟩
    exact h
  · split
    · rintro ⟨⟩
    next e =>
      split
      · rintro ⟨⟩
        exact readVA_canonical h e
      · intro e'
        obtain ⟨⟨_, _⟩, e2, ⟨⟩⟩ := map_eq_ok e'
        exact readVA_canonical (readVA_canonical h e) e2

theorem actRun_canonical {n q} (h : s.Canonical) : (actRun s n q).Canonical := by
  unfold actRun
  dsimp only
  split
  · exact h
  · split
    · exact trivial
    next e =>
      have h1 := readVA_canonical h e
      split
      · exact h1
      · split
        · exact trivial
        next e =>
          have h2 := readRunEvent_canonical h1 e
          split
          next e => exact (openRun_canonical h2).code e
          next e =>
            have h3 := (openRun_canonical h2).ok e
            split
            · exact h3
            · exact startRun_canonical (addWork_canonical h3)

theorem actProgram_canonical {n q} (h : s.Canonical) : (actProgram s n q).Canonical := by
  unfold actProgram
  dsimp only
  split
  · exact h
  · split
    · exact trivial
    next e =>
      split
      · exact readVA_canonical h e
      · split
        · exact trivial
        next e1 => exact setQueue_canonical (writeVA_canonical (readVA_canonical h e) e1)

theorem act_canonical {n q} (h : s.Canonical) : (act s n q).Canonical := by
  unfold act
  split
  · exact h
  · split
    · split <;> exact h
    · exact actLaunch_canonical h
    · exact actCopy_canonical h
    · exact actWaitval_canonical h
    · exact actWriteval_canonical h
    · exact actRun_canonical h
    · exact actProgram_canonical h
    · exact h

theorem performPacket_canonical {n} (h : s.Canonical) : (performPacket s n).Canonical := by
  unfold performPacket
  split
  next e => exact consume_canonical ((act_canonical h).done e)
  next e => exact failPacket_canonical ((act_canonical h).error e)
  · exact faultPacket_canonical h
  next e => exact blockQueue_canonical ((act_canonical h).blocked e)

theorem recheckWait_canonical {n} (h : s.Canonical) : (recheckWait s n).Canonical := by
  unfold recheckWait
  dsimp only
  split
  next e => exact (actWaitval_canonical h).blocked e
  · exact faultPacket_canonical h
  next e => exact failPacket_canonical ((actWaitval_canonical h).error e)
  next e =>
    exact ite_canonical (consume_canonical (moveQueue_canonical ((actWaitval_canonical h).done e)))
        (moveQueue_canonical ((actWaitval_canonical h).done e))

theorem rerunProgram_canonical {n} (h : s.Canonical) : (rerunProgram s n).Canonical := by
  unfold rerunProgram
  dsimp only
  split
  · exact faultPacket_canonical h
  next e => exact moveQueue_canonical (readVA_canonical h e)

theorem wakeQueues_canonical {keys} (h : s.Canonical) : (wakeQueues s keys).Canonical := h.congr rfl

theorem execDoorbell_canonical {queue} (h : s.Canonical) : Outcome.Canonical (execDoorbell queue s) :=
  ite_canonical (testSlot_canonical h) (ite_canonical (recheckWait_canonical h) (ite_canonical (rerunProgram_canonical h) h))

theorem reportCopy_canonical {c} (h : s.Canonical) : (reportCopy s c).Canonical := ite_canonical h (report_canonical h)

theorem endCopy_canonical {id c status} (h : s.Canonical) : (endCopy s id c status).Canonical :=
  endWork_canonical (complete_canonical (h.congr rfl))

theorem execCopyComplete_canonical {id} (h : s.Canonical) : Outcome.Canonical (execCopyComplete id s) := by
  unfold execCopyComplete
  split
  · exact h
  · exact ite_canonical (endCopy_canonical (reportCopy_canonical h)) h

/-! ### Machine/Busoron -/

theorem after_canonical {r n x} (h : s.Canonical) (hx : x.Canonical) : (ProgRun.after r s n x).Canonical :=
  match x, hx with
  | .go .., hx => setQueue_canonical hx
  | .jump _, _ => setQueue_canonical h
  | .ended _, hx => hx
  | .wait, _ => h

theorem busoron_canonical {body} (h : s.Canonical) (hbody : ∀ s n q r, s.Canonical → (body s n q r).Canonical) :
    Outcome.Canonical (s.busoron body) := by
  unfold State.busoron
  split
  · dsimp only
    split
    · exact trivial
    · split
      · exact h
      · split
        · exact failPacket_canonical h
        · split
          · exact h
          · exact after_canonical (setQueue_canonical h) (hbody _ _ _ _ (setQueue_canonical h))
  · exact trivial

theorem putReg_canonical {q n x} (h : s.Canonical) : (putReg s q n x).Canonical := h

theorem execQA_canonical {o f} (h : s.Canonical) : Outcome.Canonical (execQA o f s) := busoron_canonical h fun _ _ _ _ => putReg_canonical

theorem execQK_canonical {o f} (h : s.Canonical) : Outcome.Canonical (execQK o f s) := busoron_canonical h fun _ _ _ _ => putReg_canonical

theorem execQld_canonical {o} (h : s.Canonical) : Outcome.Canonical (execQld o s) := by
  unfold execQld
  refine busoron_canonical h (fun _ _ _ _ h' => ?_)
  split
  · exact failPacket_canonical h'
  · split
    · exact faultPacket_canonical h'
    next e1 => exact putReg_canonical (readVA_canonical h' e1)

theorem execQst_canonical {o} (h : s.Canonical) : Outcome.Canonical (execQst o s) := by
  unfold execQst
  refine busoron_canonical h (fun _ _ _ _ h' => ?_)
  split
  · exact failPacket_canonical h'
  · split
    · exact faultPacket_canonical h'
    next e1 => exact writeVA_canonical h' e1

theorem execQJ_canonical {o test} (h : s.Canonical) : Outcome.Canonical (execQJ o test s) := by
  unfold execQJ
  refine busoron_canonical h (fun _ _ _ _ h' => ?_)
  split
  · exact trivial
  · exact h'

theorem execQbucket_canonical {o} (h : s.Canonical) : Outcome.Canonical (execQbucket o s) := by
  unfold execQbucket
  refine busoron_canonical h (fun _ _ _ _ h' => ?_)
  split
  · exact faultPacket_canonical h'
  next e =>
    dsimp only
    split <;> exact putReg_canonical (readVA_canonical h' e)

theorem execQact_canonical (h : s.Canonical) : Outcome.Canonical (execQact s) := by
  unfold execQact
  refine busoron_canonical h (fun _ _ _ _ h' => ?_)
  split
  · exact failPacket_canonical h'
  · split
    · exact trivial
    · split
      next e => exact (act_canonical h').done e
      next e => exact failPacket_canonical ((act_canonical h').error e)
      · exact faultPacket_canonical h'
      next e => exact blockQueue_canonical ((act_canonical h').blocked e)

theorem submit_canonical {n q t e cmd} (h : s.Canonical) : (submit s n q t e cmd).Canonical := by
  unfold submit
  dsimp only
  split
  · exact faultPacket_canonical (hostStore_canonical h)
  next e1 => exact hostStore_canonical (writeVA_canonical (hostStore_canonical h) e1)

theorem execQnvme_canonical {o} (h : s.Canonical) : Outcome.Canonical (execQnvme o s) := by
  unfold execQnvme
  refine busoron_canonical h (fun _ _ _ _ h' => ?_)
  dsimp only
  split
  · exact failPacket_canonical h'
  · split
    · exact faultPacket_canonical h'
    next e1 =>
      split
      · exact failPacket_canonical (readVA_canonical h' e1)
      · split
        · exact faultPacket_canonical (readVA_canonical h' e1)
        next e2 => exact submit_canonical (readVA_canonical (readVA_canonical h' e1) e2)

theorem execQpass_canonical (h : s.Canonical) : Outcome.Canonical (execQpass s) := by
  unfold execQpass
  refine busoron_canonical h (fun _ _ _ _ h' => ?_)
  split
  · exact trivial
  · exact performPacket_canonical h'

/-! ### Machine/Atomic -/

theorem atomAt_canonical {ctx core key aop n v c} (h : s.Canonical) : (atomAt s ctx core key aop n v c).2.Canonical :=
  poke_canonical (holdDirty_canonical (readKey_canonical h))

theorem atomLane_canonical {is o l p} (h : s.Canonical) : (atomLane s is o l p).2.Canonical := by
  unfold atomLane
  split
  · split
    · exact atomAt_canonical (touch_canonical h)
    · exact touch_canonical h

theorem atomLanes_canonical {is o l} (h : s.Canonical) : (atomLanes is o l s).2.Canonical := by
  fun_induction atomLanes is o l s
  · exact h
  next e _ _ e1 ih => exact snd_canonical e1 (ih (snd_canonical e (atomLane_canonical h)))

theorem atomBody_canonical {o keep is} (h : s.Canonical) : (atomBody o keep is s).Canonical := by
  unfold atomBody
  split
  next e => exact (settleAccess_canonical h).stop e
  next e =>
    split
    next e' =>
      have hl := snd_canonical e' (atomLanes_canonical ((settleAccess_canonical h).go e))
      dsimp only
      split
      · exact h
      · split
        · exact h
        · exact ite_canonical (onGroup_canonical hl) hl

theorem ratomLane_canonical {is o key l p} (h : s.Canonical) : (ratomLane is o key s l p).2.Canonical := by
  unfold ratomLane
  split
  · split
    · split
      · exact sendPeer_canonical (used_canonical (poke_canonical h))
      · exact poke_canonical h
  · exact h

theorem ratomLanes_canonical {is o key l} (h : s.Canonical) : (ratomLanes is o key l s).2.Canonical := by
  fun_induction ratomLanes is o key l s
  · exact h
  next e _ _ e1 ih => exact snd_canonical e1 (ih (snd_canonical e (ratomLane_canonical h)))

theorem ratomBody_canonical {o is} (h : s.Canonical) : (ratomBody o is s).Canonical := by
  unfold ratomBody
  dsimp only
  split
  next e => exact (settleAccess_canonical h).stop e
  next e =>
    have hs := (settleAccess_canonical h).go e
    split
    · split
      · exact ite_canonical (ratomLanes_canonical (ite_canonical hs (used_canonical hs)))
          (onGroup_canonical (ratomLanes_canonical (ite_canonical hs (used_canonical hs))))
      · exact hs
    · exact hs

theorem rpollLane_canonical {is p} (h : s.Canonical) : (rpollLane s is p).2.Canonical := by
  unfold rpollLane
  split
  · exact ite_canonical (poke_canonical (touch_canonical h)) (touch_canonical h)
  · exact touch_canonical h

theorem rpollLanes_canonical {is l} (h : s.Canonical) : (rpollLanes is l s).2.Canonical := by
  fun_induction rpollLanes is l s
  · exact h
  next e _ _ e1 ih => exact snd_canonical e1 (ih (snd_canonical e (rpollLane_canonical h)))

theorem execRpoll_canonical {o} (h : s.Canonical) : Outcome.Canonical (execRpoll o s) := by
  unfold execRpoll
  refine execM_canonical (fun _ _ h' => ?_) h
  split
  next e => exact (settleAccess_canonical h').stop e
  next e =>
    exact ite_canonical (rpollLanes_canonical ((settleAccess_canonical h').go e))
        (onGroup_canonical (rpollLanes_canonical ((settleAccess_canonical h').go e)))

theorem execRatomTimeout_canonical {req} (h : s.Canonical) : Outcome.Canonical (execRatomTimeout req s) := by
  unfold execRatomTimeout
  split
  · split
    · split
      · exact ringReply_canonical (dropReq_canonical h)
      · exact h
    · exact h
  · exact h

/-! ### Machine/Fetch -/

theorem refetchLine_canonical {is} (h : s.Canonical) : (refetchLine s is).Canonical := by
  unfold refetchLine
  dsimp only
  split
  · exact askOnce_canonical h
  · exact logEvent_canonical (onGroup_canonical (used_canonical h))
  · exact onGroup_canonical h

theorem execLineRefetch_canonical {core slot} (h : s.Canonical) : Outcome.Canonical (execLineRefetch core slot s) := by
  unfold execLineRefetch
  dsimp only
  split
  · split
    · exact (refetchLine_canonical h).congr rfl
    · exact h
  · exact h

/-! ### Machine/Branch -/

theorem logTargets_canonical {is l} (h : s.Canonical) : (logTargets s is l).Canonical := by
  unfold logTargets
  refine foldl_canonical h (fun _ _ h' => ?_)
  split
  · exact logMalformed_canonical h'
  · exact h'

theorem askTargets_canonical {is l t} (h : s.Canonical) : askTargets s is l = some t → t.Canonical := by
  unfold askTargets
  dsimp only
  split
  · rintro ⟨⟩
  · rintro ⟨⟩
    refine foldl_canonical h (fun _ _ h' => ?_)
    split
    · exact askOnce_canonical h'
    · exact h'

theorem targetsStop_canonical {is ts v} (h : s.Canonical) : targetsStop s is ts = some v → v.Canonical := by
  unfold targetsStop
  split
  next e =>
    rintro ⟨⟩
    exact askTargets_canonical h e
  next e =>
    intro e
    obtain ⟨⟨_, _, _⟩, e, ⟨⟩⟩ := Option.map_eq_some_iff.mp e
    exact logTargets_canonical h

theorem parkOrTrap_canonical {is fetches u data go} (h : s.Canonical) (hgo : ∀ s m, s.Canonical → (go s m).Canonical) :
    (parkOrTrap s is fetches u data go).Canonical := by
  unfold parkOrTrap
  generalize (s.ctx is.g.ctx).replayable = b
  split
  · exact hgo _ _ h
  · refine verdict_ite_canonical ?_ h
    split
    · exact h
    next e =>
      split
      · exact h
      next e' => exact hgo _ _ (parkLanes_canonical (parkLanes_canonical h e) e')

theorem jumpBody_canonical {o is} (h : s.Canonical) : (jumpBody o is s).Canonical := by
  unfold jumpBody
  dsimp only
  split
  next e => exact targetsStop_canonical h e
  · exact parkOrTrap_canonical h fun _ _ => onGroup_canonical

theorem pushReturn_canonical {is x} (h : s.Canonical) : (pushReturn is s x).Canonical := storePlace_canonical h

theorem logStack_canonical {is l} (h : s.Canonical) : (logStack s is l).Canonical := logMalformedLanes_canonical h

theorem callBody_canonical {o is} (h : s.Canonical) : (callBody o is s).Canonical := by
  unfold callBody
  dsimp only
  split
  next e => exact targetsStop_canonical h e
  · split
    · exact h
    · split
      · exact logStack_canonical h
      · split
        · exact h
        · exact parkOrTrap_canonical h (fun _ _ h' => onGroup_canonical (foldl_canonical h' (fun _ _ => pushReturn_canonical)))

theorem popReturn_canonical {is p} (h : s.Canonical) : (popReturn is s p).2.Canonical := by
  unfold popReturn
  split
  · exact readKey_canonical (touch_canonical h)
  · exact touch_canonical h

theorem popReturns_canonical {is l} (h : s.Canonical) : (popReturns is s l).2.Canonical := by
  fun_induction popReturns is s l
  · exact h
  next e _ _ e1 ih => exact snd_canonical e1 (ih (snd_canonical e (popReturn_canonical h)))

theorem askReturn_canonical {is x} (h : s.Canonical) : (askReturn is s x).Canonical := by
  unfold askReturn
  split
  · exact h
  · split
    · exact h
    · exact ite_canonical h (askOnce_canonical h)

theorem retTo_canonical {is ok xl} (h : s.Canonical) : (retTo is s ok xl).Canonical := by
  unfold retTo
  split
  next e =>
    dsimp only
    split
    next e1 => exact targetsStop_canonical (snd_canonical e (popReturns_canonical h)) e1
    · exact parkOrTrap_canonical (snd_canonical e (popReturns_canonical h)) fun _ _ => onGroup_canonical

theorem retBody_canonical {is} (h : s.Canonical) : (retBody is s).Canonical := by
  unfold retBody
  extract_lets sp bad orphan acc
  clear_value bad orphan acc
  generalize stackSplit acc = x, (s.ctx is.g.ctx).replayable = replays, mustWait s is.key .plain false = waits, returnSent is = sent
  exact verdict_ite_canonical h (verdict_ite_canonical h (verdict_ite_canonical (logStack_canonical h)
    (verdict_ite_canonical (parkOrTrap_canonical h fun _ _ h => h) (verdict_ite_canonical h
      (verdict_ite_canonical (foldl_canonical h fun _ _ => askReturn_canonical) (retTo_canonical h))))))

theorem exitBody_canonical {is} (h : s.Canonical) : (exitBody is s).Canonical := by
  unfold exitBody
  extract_lets g
  clear_value g
  exact verdict_ite_canonical h (verdict_ite_canonical h (verdict_ite_canonical h (setGroup_canonical h)))

theorem branchAhead_canonical {o} : (branchAhead o).Canonical := fun e h => targetsStop_canonical h e

/-! ### Machine/Pages -/

theorem walkHeap_canonical {c lo hi} (h : s.Canonical) : (walkHeap s c lo hi).Canonical := setCtx_canonical h

theorem dropRange_canonical {c lo n} (h : s.Canonical) : (dropRange s c lo n).Canonical := h.congr rfl

theorem execInval_canonical {fn ctx} (h : s.Canonical) : Outcome.Canonical (execInval fn ctx s) := by
  unfold execInval
  extract_lets w st
  clear_value w st
  refine outcome_ite_canonical h (outcome_ite_canonical (endInval_canonical h) ?_)
  split
  · exact endInval_canonical h
  · exact outcome_ite_canonical h
      (endInval_canonical (ite_canonical (walkHeap_canonical (dropRange_canonical h)) (dropRange_canonical h)))

theorem wakeLane_canonical {k l} (h : s.Canonical) : (wakeLane s k l).Canonical := onGroup_canonical h

theorem freeTicket_canonical {id ticket} (h : s.Canonical) : (freeTicket s id ticket).Canonical := by
  unfold freeTicket
  split
  · exact h.congr rfl
  · split
    · exact h.congr rfl
    · exact h

theorem failWork_canonical {id ticket addr} (h : s.Canonical) : (failWork s id ticket addr).Canonical := by
  unfold failWork
  split
  · exact ite_canonical (afterUnit_canonical h) (h.congr rfl)
  · split
    · exact h.congr rfl
    · exact h

theorem dropWaiter_canonical {w} (h : s.Canonical) : (dropWaiter s w).Canonical := by
  unfold dropWaiter
  split
  · exact h
  · exact h.congr rfl

theorem failLanes_canonical {addr l} (h : s.Canonical) : (failLanes s addr l).Canonical :=
  foldl_canonical h (fun _ _ h' => ite_canonical h' (refile_canonical (takeTrap_canonical h')))

theorem replayEntry_canonical {e r} (h : s.Canonical) : (replayEntry s e r).Canonical := by
  unfold replayEntry
  refine foldl_canonical ?_ (fun _ _ h' => ?_)
  · split
    · exact foldl_canonical (setFunc_canonical (h.congr rfl)) fun _ _ => dropWaiter_canonical
    · exact failLanes_canonical (foldl_canonical (setFunc_canonical (h.congr rfl)) (fun _ _ => dropWaiter_canonical))
  · split
    · exact wakeLane_canonical h'
    · exact h'
    · exact wakeLane_canonical h'
    · exact freeTicket_canonical h'
    · exact failWork_canonical h'

theorem replayLater_canonical {c ticket r} (h : s.Canonical) : (replayLater s c ticket r).Canonical := by
  unfold replayLater
  dsimp only
  split
  · exact h
  · split
    · exact setCtx_canonical h
    · split
      next e2 => exact writeVA_canonical (setCtx_canonical h) e2
      · exact logDevFault_canonical (setCtx_canonical h)

theorem replay_canonical {fn ticket r} (h : s.Canonical) : (replay s fn ticket r).Canonical := by
  unfold replay
  split
  · exact ite_canonical h (ite_canonical (h.congr rfl) (ite_canonical h (replayEntry_canonical h)))
  · split
    · exact h
    · exact ite_canonical (replayLater_canonical h) h

theorem writeReplay_canonical {fn w} (h : s.Canonical) : (writeReplay s fn w).Canonical := by
  unfold writeReplay
  split
  · exact replay_canonical h
  · exact replay_canonical h
  · exact h

theorem execPin_canonical {fn ctx} (h : s.Canonical) : Outcome.Canonical (execPin fn ctx s) := by
  unfold execPin
  split
  · exact h
  · dsimp only
    split
    · exact endPincmd_canonical h
    · split
      · exact endPincmd_canonical h
      · exact endPincmd_canonical (setCtx_canonical h)

theorem execUnpin_canonical {fn ctx} (h : s.Canonical) : Outcome.Canonical (execUnpin fn ctx s) := by
  unfold execUnpin
  split
  · exact h
  · dsimp only
    split
    · exact endPincmd_canonical h
    · split
      · exact endPincmd_canonical h
      · split
        · exact h
        · exact endPincmd_canonical (setCtx_canonical h)

theorem fqStore_canonical {fn r t} (h : s.Canonical) : fqStore s fn r = .ok t → t.Canonical := by
  unfold fqStore
  dsimp only
  split
  · exact fun h' => writeVA_canonical h h'
  · rintro ⟨⟩
    exact hostStore_canonical h

theorem fqPut_canonical {fn r} (h : s.Canonical) : (fqPut s fn r).Canonical := by
  unfold fqPut
  split
  · dsimp only
    split
    · exact h
    · exact logDevFault_canonical h
  next e =>
    dsimp only
    split
    · exact h
    · exact signal_canonical (setFunc_canonical (fqStore_canonical h e))

theorem execFaultRecordWrite_canonical {fn} (h : s.Canonical) : Outcome.Canonical (execFaultRecordWrite fn s) := by
  unfold execFaultRecordWrite
  split
  · exact h
  · split
    next e1 => exact (fqPut_canonical h).kept e1
    next e1 => exact ((fqPut_canonical h).put e1).congr rfl

theorem countFills_canonical {ctx page quadrant n} (h : s.Canonical) : (countFills s ctx page quadrant n).Canonical := h.congr rfl

theorem execPlacementHint_canonical {ctx page} (h : s.Canonical) : Outcome.Canonical (execPlacementHint ctx page s) := by
  have hs {l} : ({ s with hinted := l } : State).Canonical := h.congr rfl
  unfold execPlacementHint
  split
  · dsimp only
    split
    · exact h
    · split
      · exact h
      · split
        next e => exact ((fqPut_canonical hs).kept e).congr rfl
        next e => exact (fqPut_canonical hs).put e
  · exact h

/-! ### Machine/Retire -/

theorem endTeam_canonical {team launch} (h : s.Canonical) : (endTeam s team launch).Canonical := by
  unfold endTeam
  refine ite_canonical h ?_
  dsimp only
  split
  · exact retireTeamRuns_canonical (h.congr rfl)
  · exact endLaunch_canonical (keepReserves_canonical (setLaunch_canonical (retireTeamRuns_canonical (h.congr rfl))))

theorem execGroupRetire_canonical {core slot} (h : s.Canonical) : Outcome.Canonical (execGroupRetire core slot s) := by
  unfold execGroupRetire
  dsimp only
  split
  · exact h
  · split
    · exact h
    · refine endTeam_canonical ?_
      split
      · exact setLaunch_canonical (leaveTeam_canonical (unseat_canonical h))
      · exact leaveTeam_canonical (unseat_canonical h)

/-! ### Machine/Save -/

theorem stillGroup_canonical {x} (h : s.Canonical) : (stillGroup s x).Canonical :=
  onGroup_canonical (saveParity_canonical (setGroup_canonical h))

theorem suspendJob_canonical {x} (h : s.Canonical) : (suspendJob s x).Canonical := ite_canonical h ((putWord7_canonical h).congr rfl)

theorem writePieces_canonical {c l} (h : s.Canonical) : (writePieces c s l).Canonical := by
  unfold writePieces
  refine foldl_canonical h (fun _ _ h' => ?_)
  split
  next e => exact writeVA_canonical h' e
  · exact logDevFault_canonical h'

theorem askAreas_canonical {c t} (h : s.Canonical) : askAreas s c = some t → t.Canonical := by
  unfold askAreas
  split
  next e =>
    split
    · rintro ⟨⟩
      refine fst_canonical e (foldl_fst_canonical h (fun _ _ h' => ite_fst_canonical h' ?_))
      split
      next e2 => exact (areaLines_canonical h').wait e2
      · exact h'
    · rintro ⟨⟩

theorem takeImage_canonical {c area room} (h : s.Canonical) : (takeImage s c area room).1.Canonical :=
  setCtx_canonical (writePieces_canonical ((foldl_canonical (foldl_canonical h (fun _ _ => stillGroup_canonical))
    (fun _ _ => suspendJob_canonical)).congr rfl))

theorem leaveCores_canonical {c} (h : s.Canonical) : (leaveCores s c).Canonical :=
  (foldl_canonical (setFunc_canonical h) (fun _ _ => unseat_canonical)).congr rfl

theorem logPieces_canonical {c i l} (h : s.Canonical) : (logPieces s c i l).Canonical := by
  unfold logPieces
  refine foldl_canonical h (fun _ _ h' => ?_)
  split
  · exact h'
  · exact logDevFault_canonical h'

theorem putArea_canonical {key g b} (h : s.Canonical) : (putArea s key g b).Canonical := by
  unfold putArea
  refine ite_canonical h ?_
  split
  next e => exact storeVA_canonical h e
  · exact logDevFault_canonical h

theorem putChains_canonical {g b} (h : s.Canonical) : (putChains s g b).Canonical := by
  unfold putChains
  split
  · exact h
  · exact setLaunch_canonical h

theorem readGroups_canonical {c i l b t} (h : s.Canonical) : readGroups s c i l = .ok (b, t) → t.Canonical := by
  induction l generalizing s b t with
  | nil =>
    rintro ⟨⟩
    exact h
  | cons x l ih =>
    unfold readGroups
    split
    split
    · rintro ⟨⟩
    · split
      · rintro ⟨⟩
      · intro e
        obtain ⟨⟨_, _⟩, e', ⟨⟩⟩ := map_eq_ok e
        exact ih (putChains_canonical (putArea_canonical h)) e'

theorem readImage_canonical {c i b t} (h : s.Canonical) : readImage s c i = .ok (b, t) → t.Canonical := by
  unfold readImage
  split
  · rintro ⟨⟩
  · split
    · rintro ⟨⟩
    next e1 =>
      split
      · rintro ⟨⟩
      · rintro ⟨⟩
        exact readGroups_canonical h e1

theorem awakeFaults_canonical {c l} (h : s.Canonical) : (awakeFaults s c l).Canonical :=
  foldl_canonical (setFunc_canonical (h.congr rfl)) (fun _ _ => replayEntry_canonical)

theorem seatGroup_canonical {x} (h : s.Canonical) : (seatGroup s x).Canonical := by
  unfold seatGroup
  extract_lets core fits _ y _ s1 s2
  have h2 : s2.Canonical := makeWords_canonical (setGroup_canonical (setCore_canonical h))
  exact ite_canonical (givePart_canonical h2) h2

theorem replayDue_canonical {c} (h : s.Canonical) : (replayDue s c).Canonical := foldl_canonical h fun _ _ => replayEntry_canonical

theorem putCells_wf {m cores cells} (h : Memory.wf m = true) : Memory.wf (putCells m cores cells) = true :=
  foldl_keeps (P := fun m : List Host.Cell => Memory.wf m = true) (fun _ _ hm => Memory.write_wf _ _ _ hm) (Memory.filter_wf _ _ h)

theorem putImage_canonical {c i gs} (h : s.Canonical) : (putImage s c i gs).Canonical := by
  refine keepReserves_canonical (replayDue_canonical (awakeFaults_canonical
      (foldl_canonical (foldl_canonical ?_ fun _ _ => setCore_canonical)
    fun _ _ => seatGroup_canonical)))
  exact ⟨putCells_wf h.wf⟩

theorem clearTags_canonical {d} (h : s.Canonical) : (clearTags s d).Canonical := foldl_canonical h fun _ _ => setCore_canonical

theorem rejectImage_canonical {c a} (h : s.Canonical) : (rejectImage s c a).Canonical := report_canonical (setCtx_canonical h)

theorem openAll_canonical {l} (h : s.Canonical) : (openAll l s).2.Canonical := by
  fun_induction openAll l s
  · exact h
  next e _ ih => exact ih (fst_canonical e (openSome_canonical h))

theorem readyImage_canonical {c} (h : s.Canonical) : (readyImage s c).Canonical := by
  unfold readyImage
  split
  · exact h
  · split
    · exact rejectImage_canonical h
    next e1 => exact setCtx_canonical (openAll_canonical (readImage_canonical h e1))

theorem restoreImage_canonical {c} (h : s.Canonical) : (restoreImage s c).Canonical := by
  unfold restoreImage
  split
  · exact setCtx_canonical (clearTags_canonical h)
  · split
    · exact putImage_canonical h
    · dsimp only
      split
      · exact rejectImage_canonical (logPieces_canonical h)
      next e1 => exact putImage_canonical (readImage_canonical (logPieces_canonical h) e1)

theorem restore_canonical {c} (h : s.Canonical) : (restore s c).Canonical := by
  unfold restore
  split
  next e => exact (readyImage_canonical h).rejected e
  next e => exact restoreImage_canonical ((readyImage_canonical h).ok e)

theorem killWork_canonical {c} (h : s.Canonical) : (killWork s c).Canonical := by
  unfold killWork
  refine foldl_canonical (killRuns_canonical (foldl_canonical h (fun _ _ => endCopy_canonical))) (fun _ _ h'' => ?_)
  split
  · exact tellOrigin_canonical (h''.congr rfl)
  · exact h''.congr rfl

theorem killCtx_canonical {c} (h : s.Canonical) : (killCtx s c).Canonical := by
  delta killCtx
  extract_lets cores s1 s2 s3 s4 s5
  have h1 : s1.Canonical := foldl_canonical (h.congr rfl) fun _ _ => restArray_canonical
  have h4 : s4.Canonical := foldl_canonical (killWork_canonical (leaveCores_canonical h1)) fun _ _ => killQueue_canonical
  exact setCtx_canonical (h4.congr rfl)

/-! ### Machine/Context -/

theorem openErrq_canonical {c d b t} (h : s.Canonical) : openErrq s c d = some (b, t) → t.Canonical := by
  unfold openErrq
  split
  · rintro ⟨⟩
  next e =>
    dsimp only
    split
    · rintro ⟨⟩
      exact readVA_canonical h e
    · rintro ⟨⟩

theorem execCreate_canonical {fn ctx} (h : s.Canonical) : Outcome.Canonical (execCreate fn ctx s) := by
  have hs {l} : ({ s with tlb := l } : State).Canonical := h.congr rfl
  unfold execCreate
  split
  · exact h
  · dsimp only
    split
    · exact endCtxcmd_canonical h
    · split
      · exact endCtxcmd_canonical h
      · split
        · exact endCtxcmd_canonical h
        · split
          · exact endCtxcmd_canonical h
          next e => exact endCtxcmd_canonical (setCtx_canonical (openErrq_canonical (setCtx_canonical hs) e))

theorem firstWalk_canonical {c} (h : s.Canonical) : (firstWalk s c).Canonical := ite_canonical h (walkHeap_canonical (setCtx_canonical h))

theorem joinSlices_canonical {c} (h : s.Canonical) : (joinSlices s c).Canonical := by
  unfold joinSlices
  split
  · exact h
  · exact setCtx_canonical h

theorem execResume_canonical {fn ctx} (h : s.Canonical) : Outcome.Canonical (execResume fn ctx s) := by
  have hw := readyImage_canonical (c := ctx) (firstWalk_canonical (c := ctx) h)
  unfold execResume
  refine outcome_ite_canonical h (outcome_ite_canonical (endCtxcmd_canonical h) (outcome_ite_canonical (endCtxcmd_canonical h) ?_))
  split
  next e => exact endCtxcmd_canonical (hw.rejected e)
  next e =>
    have hr := hw.ok e
    dsimp only
    split
    · exact endCtxcmd_canonical (joinSlices_canonical (setCtx_canonical hr))
    · split
      next e => exact endCtxcmd_canonical ((restoreImage_canonical hr).ok e)
      next e => exact endCtxcmd_canonical ((restoreImage_canonical hr).rejected e)

theorem beginSave_canonical {c why stop} (h : s.Canonical) : (beginSave s c why stop).Canonical := setCtx_canonical h

theorem haltCtx_canonical {id l} (h : s.Canonical) : (haltCtx s id l).Canonical :=
  setFunc_canonical (report_canonical (beginSave_canonical (setLaunch_canonical h)))

theorem killFirst_canonical {c} (h : s.Canonical) : (killFirst s c).Canonical := ite_canonical (killCtx_canonical h) h

theorem execDeadline_canonical {launch} (h : s.Canonical) : Outcome.Canonical (execDeadline launch s) := by
  unfold execDeadline
  split
  · exact h
  · exact ite_canonical (haltCtx_canonical (killFirst_canonical h)) (killFirst_canonical h)

theorem deadlineFirst_canonical {c} (h : s.Canonical) : (deadlineFirst s c).Canonical := by
  unfold deadlineFirst
  split
  · exact h
  · exact haltCtx_canonical h

theorem sliceFault_canonical {c} (h : s.Canonical) : (sliceFault s c).Canonical :=
  foldl_canonical h (fun _ _ h' => report_canonical (setCtx_canonical h'))

theorem comeIn_canonical {c} (h : s.Canonical) : (comeIn s c).Canonical := by
  unfold comeIn
  refine ite_canonical h (ite_canonical (setCtx_canonical h) ?_)
  split
  next e => exact (restore_canonical h).ok e
  next e => exact (restore_canonical h).rejected e

theorem comeInDue_canonical (h : s.Canonical) : (comeInDue s).Canonical := foldl_canonical h fun _ _ => comeIn_canonical

theorem takeSlice_canonical {c e} (h : s.Canonical) : (takeSlice s c e).Canonical :=
  ite_canonical (comeIn_canonical (foldl_canonical (foldl_canonical h (fun _ _ h' => deadlineFirst_canonical (killFirst_canonical h')))
    (fun _ _ h'' => ite_canonical (beginSave_canonical (setCtx_canonical h'')) (setCtx_canonical h''))))
      (foldl_canonical (foldl_canonical h (fun _ _ h'2 => deadlineFirst_canonical (killFirst_canonical h'2)))
        (fun _ _ h'' => ite_canonical (beginSave_canonical (setCtx_canonical h'')) (setCtx_canonical h'')))

theorem nextSlice_canonical {c e t} (h : s.Canonical) : nextSlice s c = some (.ok (e, t)) → t.Canonical := by
  unfold nextSlice
  dsimp only
  split
  · rintro ⟨⟩
  · intro e
    obtain ⟨⟨_, _⟩, e', ⟨⟩⟩ := map_eq_ok (Option.some.inj e)
    exact readVA_canonical h e'

theorem sliceNow_canonical {c} (h : s.Canonical) : (sliceNow s c).Canonical := by
  unfold sliceNow
  split
  · exact h
  · exact sliceFault_canonical (logDevFault_canonical h)
  next e =>
    have ht := nextSlice_canonical h e
    exact ite_canonical (sliceFault_canonical ht) (ite_canonical (takeSlice_canonical ht) h)

theorem sendTable_canonical {b port dev} (h : s.Canonical) : (sendTable b port s dev).Canonical :=
  foldl_canonical h (fun _ _ => send_canonical)

theorem shareTable_canonical {ctx gang b} (h : s.Canonical) : (shareTable s ctx gang b).Canonical := by
  unfold shareTable
  split
  · exact h
  · exact setCtx_canonical (foldl_canonical h (fun _ _ => sendTable_canonical))

theorem settleTables_canonical {ctx gang b} (h : s.Canonical) : (settleTables s ctx gang b).Canonical :=
  ite_canonical (foldl_canonical (h.congr rfl) (fun _ _ => setCtx_canonical)) (sliceFault_canonical (h.congr rfl))

theorem execSliceTableExchange_canonical {ctx gang} (h : s.Canonical) : Outcome.Canonical (execSliceTableExchange ctx gang s) := by
  unfold execSliceTableExchange
  dsimp only
  split
  · exact h
  · split
    · exact sliceFault_canonical (logDevFault_canonical h)
    next e =>
      have hr := readVA_canonical h e
      exact ite_canonical (settleTables_canonical (ite_canonical hr (shareTable_canonical hr)))
        (ite_canonical hr (shareTable_canonical hr))

theorem execTimeSyncLost_canonical (h : s.Canonical) : Outcome.Canonical (execTimeSyncLost s) := by
  unfold execTimeSyncLost
  split
  · exact h
  · exact foldl_canonical (h.congr rfl) fun _ _ => report_canonical

theorem execSuspend_canonical {fn ctx} (h : s.Canonical) : Outcome.Canonical (execSuspend fn ctx s) := by
  have hs := sliceNow_canonical (c := ctx) (deadlineFirst_canonical (c := ctx) (killFirst_canonical (c := ctx) h))
  unfold execSuspend
  split
  · exact h
  · split
    · exact endCtxcmd_canonical h
    · dsimp only
      split
      · exact endCtxcmd_canonical (beginSave_canonical hs)
      · exact endCtxcmd_canonical (setCtx_canonical hs)
      · exact endCtxcmd_canonical (setCtx_canonical hs)
      · exact endCtxcmd_canonical hs

theorem execKill_canonical {fn ctx} (h : s.Canonical) : Outcome.Canonical (execKill fn ctx s) := by
  unfold execKill
  split
  · exact h
  · split
    · dsimp only
      split <;> exact endCtxcmd_canonical h
    · dsimp only
      split
      · exact endCtxcmd_canonical h
      · split
        · exact h
        · exact killCtx_canonical h

theorem dumpHead_canonical {c} (h : s.Canonical) : (dumpHead s c).Canonical := by
  unfold dumpHead
  dsimp only
  split
  · split
    · exact ite_canonical h (writePieces_canonical h)
    · exact h
  · exact h

theorem execSaveComplete_canonical {ctx} (h : s.Canonical) : Outcome.Canonical (execSaveComplete ctx s) := by
  unfold execSaveComplete
  split
  next e =>
    dsimp only
    split
    · exact h
    · exact askAreas_canonical h e
  · dsimp only
    split
    · exact h
    · split
      · exact killCtx_canonical (report_canonical (takeImage_canonical h))
      · exact comeInDue_canonical (setCtx_canonical (leaveCores_canonical (dumpHead_canonical (takeImage_canonical h))))

theorem execKillComplete_canonical {ctx} (h : s.Canonical) : Outcome.Canonical (execKillComplete ctx s) := by
  unfold execKillComplete
  split
  · exact h
  · exact comeInDue_canonical (h.congr rfl)

theorem execErrqHeadPoll_canonical {ctx} (h : s.Canonical) : Outcome.Canonical (execErrqHeadPoll ctx s) := by
  unfold execErrqHeadPoll
  split
  · exact errqDrain_canonical h
  · exact evDrain_canonical h

/-! ### Machine/Checkpoint -/

theorem clearDirty_canonical {p} (h : s.Canonical) : (clearDirty s p).Canonical := (poke_canonical h).congr rfl

theorem logImage_canonical {c} (h : s.Canonical) : (logImage s c).Canonical := by
  unfold logImage
  split
  · exact ite_canonical h (logPieces_canonical h)
  · exact h

theorem beforeCheckpoint_canonical {c} (h : s.Canonical) : (beforeCheckpoint s c).Canonical := by
  have hs := sliceNow_canonical (c := c) (deadlineFirst_canonical (c := c) (killFirst_canonical (c := c) h))
  unfold beforeCheckpoint
  dsimp only
  split
  · exact hs
  · split
    next e => exact (execSuspend_canonical hs).next e
    · exact hs

theorem beginCheckpoint_canonical {c t} (h : s.Canonical) : beginCheckpoint s c = some t → t.Canonical := by
  unfold beginCheckpoint
  dsimp only
  split
  · rintro ⟨⟩
    exact beginSave_canonical h
  · rintro ⟨⟩
    exact setCtx_canonical h
  · rintro ⟨⟩
    exact setCtx_canonical h
  · rintro ⟨⟩
    exact setCtx_canonical h
  · rintro ⟨⟩

theorem execCheckpoint_canonical {fn ctx} (h : s.Canonical) : Outcome.Canonical (execCheckpoint fn ctx s) := by
  unfold execCheckpoint
  split
  · exact h
  · split
    · exact endCtxcmd_canonical h
    · dsimp only
      split
      next e => exact endCtxcmd_canonical (beginCheckpoint_canonical (beforeCheckpoint_canonical h) e)
      · exact endCtxcmd_canonical (beforeCheckpoint_canonical h)

theorem execCheckpointInterval_canonical {ctx} (h : s.Canonical) : Outcome.Canonical (execCheckpointInterval ctx s) := by
  unfold execCheckpointInterval
  dsimp only
  split
  · exact h
  · have hb := beforeCheckpoint_canonical (c := ctx) h
    show State.Canonical (Option.getD _ _)
    cases e : beginCheckpoint (beforeCheckpoint s ctx) ctx with
    | none => exact hb
    | some _ => exact beginCheckpoint_canonical hb e

theorem writeGeneration_canonical {c} (h : s.Canonical) : (writeGeneration s c).Canonical := by
  unfold writeGeneration
  extract_lets s1 s2 x first ps copied old pages x' launches runs digests g s3 flash
  have h1 : s1.Canonical := logImage_canonical h
  have h3 : s3.Canonical := foldl_canonical (setCtx_canonical h1) fun _ _ => clearDirty_canonical
  clear_value s3
  exact ite_canonical (h3.congr rfl) h1

theorem execCheckpointComplete_canonical {ctx} (h : s.Canonical) : Outcome.Canonical (execCheckpointComplete ctx s) := by
  have hw := writeGeneration_canonical (c := ctx) h
  unfold execCheckpointComplete
  generalize writeGeneration s ctx = s1 at *
  refine outcome_ite_canonical h (outcome_ite_canonical ?_ (comeInDue_canonical (setCtx_canonical hw)))
  split
  next e => exact (restore_canonical hw).ok e
  next e => exact (restore_canonical hw).rejected e

theorem execAutoRestore_canonical {ctx} (h : s.Canonical) : Outcome.Canonical (execAutoRestore ctx s) := by
  unfold execAutoRestore
  split
  · exact h
  · split
    · exact h
    · split
      · exact h
      · exact (foldl_canonical h (fun _ _ => poke_canonical)).congr rfl

/-! ### Machine/Integer -/

theorem movToGs_canonical {o is} (h : s.Canonical) : (movToGs o is s).Canonical := by
  unfold movToGs
  split
  · exact h
  · split
    · exact h
    · exact shadowed_canonical (onGroup_canonical h)

theorem movToLsp_canonical {o is} (h : s.Canonical) : (movToLsp o is s).Canonical := shadowed_canonical (onGroup_canonical h)

theorem execMov_canonical {o} (h : s.Canonical) : Outcome.Canonical (execMov o s) := by
  unfold execMov
  split
  · exact run_canonical h (fun _ _ => movToGs_canonical) ahead_canonical
  · exact run_canonical h (fun _ _ => movToLsp_canonical) ahead_canonical
  · exact execV_canonical h

/-! ### Machine/Combine -/

theorem holdAll_canonical {is waits} (h : s.Canonical) : (holdAll is s waits).Canonical := onGroup_canonical h

theorem combineBody_canonical {o f result is} (h : s.Canonical) : (combineBody o f result is s).Canonical := by
  unfold combineBody
  split
  · exact h
  · split
    · exact h
    · dsimp only
      split
      · exact holdAll_canonical h
      · exact onGroup_canonical (setLaunch_canonical h)

theorem execCombine_canonical {o f result} (h : s.Canonical) : Outcome.Canonical (execCombine o f result s) :=
  run_canonical h (fun _ _ => combineBody_canonical) chainAhead_canonical

theorem distTouch_canonical {is r q x} (h : s.Canonical) : (distTouch is r q s x).Canonical := by
  unfold distTouch
  refine ite_canonical (foldl_canonical h (fun _ _ h' => ?_)) ((foldl_canonical (foldl_canonical h (fun _ _ h'' => ?_))
      (fun _ _ => logEvent_canonical)).congr rfl)
  · split
    · exact touch_canonical h'
    · exact h'
  · split
    · exact touch_canonical h''
    · exact h''

theorem distAsk_canonical {is x} (h : s.Canonical) : (distAsk is s x).Canonical := askOnce_canonical h

theorem distRows_canonical {o is r q} (h : s.Canonical) : (distRows o is s r q).Canonical := by
  unfold distRows
  dsimp only
  split
  · exact foldl_canonical h fun _ _ => distAsk_canonical
  · split
    next e => exact (settleAccess_canonical h).stop e
    next e =>
      have hs := (settleAccess_canonical h).go e
      split
      next e => exact (vCommit_canonical (foldl_canonical hs fun _ _ => distTouch_canonical)).commit e
      · exact vCommit_canonical (foldl_canonical hs fun _ _ => distTouch_canonical)

theorem distBody_canonical {o is} (h : s.Canonical) : (distBody o is s).Canonical := by
  unfold distBody
  extract_lets r q code
  clear_value r q code
  generalize mustWait s is.key _ false = waits
  exact verdict_ite_canonical h (verdict_ite_canonical h (verdict_ite_canonical h (verdict_ite_canonical h (distRows_canonical h))))

theorem windowWrite_canonical {is off l} (h : s.Canonical) : (windowWrite is s off l).Canonical := by
  fun_induction windowWrite is s off l
  · exact h
  next ih =>
    refine ih ?_
    split
    · exact poke_canonical h
    · exact h

theorem writeList_canonical {is off l} (h : s.Canonical) : (writeList s is off l).Canonical :=
  windowWrite_canonical (windowWrite_canonical h)

theorem setFlags_canonical {is f} (h : s.Canonical) : (setFlags s is f).Canonical := onGroup_canonical h

theorem topkList_canonical {o is lanes} (h : s.Canonical) : (topkList o is s lanes).Canonical := by
  unfold topkList
  dsimp only
  split
  · exact h
  · exact h
  · exact setFlags_canonical h
  · exact setFlags_canonical (writeList_canonical h)

theorem topkBody_canonical {o is} (h : s.Canonical) : (topkBody o is s).Canonical := by
  unfold topkBody
  split
  · exact h
  · split
    · exact h
    · dsimp only
      split
      · exact holdAll_canonical h
      · split
        next e => exact setLaunch_canonical ((topkList_canonical h).commit e)
        · exact topkList_canonical h

theorem topmBody_canonical {o is} (h : s.Canonical) : (topmBody o is s).Canonical := by
  unfold topmBody
  split
  · exact h
  · split
    · exact h
    · dsimp only
      split
      · exact h
      · exact h
      · exact h
      · exact h
      · exact setFlags_canonical (writeList_canonical h)
      · exact setFlags_canonical h

/-! ### Machine/Convert -/

theorem planeAhead_canonical {o} : (planeAhead o).Canonical := fun e h => chainAhead_canonical (o := o) e h

theorem planeBody_canonical {o is} (h : s.Canonical) : (planeBody o is s).Canonical := by
  unfold planeBody
  extract_lets lanes pub p waits b0 b1 val flags la s1 serial
  clear_value waits serial flags val la
  have h1 : s1.Canonical := onGroup_canonical (setLaunch_canonical h)
  clear_value s1
  exact verdict_ite_canonical h (verdict_ite_canonical (onGroup_canonical h) (verdict_ite_canonical h1 (shadowed_canonical h1)))

/-! ### Machine/Link -/

theorem execDieLinkBeat_canonical {link crcOk} (h : s.Canonical) : Outcome.Canonical (execDieLinkBeat link crcOk s) := by
  unfold execDieLinkBeat
  split
  · dsimp only
    split
    · exact h
    · exact h.congr rfl
  · dsimp only
    split
    · exact h
    · split <;> exact logDevice_canonical (h.congr rfl)

theorem setPort_canonical {p x} (h : s.Canonical) : (s.setPort p x).Canonical := h.congr rfl

theorem resend_canonical {x} (h : s.Canonical) : (resend s x).Canonical := by
  unfold resend
  split
  · exact h
  · exact send_canonical (h.congr rfl)

theorem portsChange_canonical (h : s.Canonical) : (portsChange s).Canonical :=
  flushReqs_canonical (foldl_canonical h (fun _ _ => resend_canonical))

theorem portDown_canonical {p} (h : s.Canonical) : (portDown s p).Canonical :=
  portsChange_canonical (logDevice_canonical (setPort_canonical h))

theorem execFabricPortTraining_canonical {port lanes} (h : s.Canonical) : Outcome.Canonical (execFabricPortTraining port lanes s) := by
  unfold execFabricPortTraining
  split
  · exact h
  · split
    · exact ite_canonical (portDown_canonical h) (setPort_canonical h)
    · exact portsChange_canonical (setPort_canonical h)

theorem receive_canonical {port type f go} (h : s.Canonical) (hgo : ∀ s, s.Canonical → (go s).Canonical) :
    Outcome.Canonical (receive s port type f go) := by
  unfold receive
  split
  · dsimp only
    split
    · exact h
    · exact ite_canonical (logDevice_canonical (setPort_canonical h)) (portDown_canonical h)
  · dsimp only
    split
    · exact h
    · exact ite_canonical (hgo _ (setPort_canonical h)) (logDevice_canonical (setPort_canonical h))

theorem keepPerformed_canonical {f reply} (h : s.Canonical) : (keepPerformed s f reply).Canonical := h.congr rfl

theorem answer_canonical {port type f payload} (h : s.Canonical) : (answer s port type f payload).Canonical :=
  send_canonical (keepPerformed_canonical h)

theorem once_canonical {port f go} (h : s.Canonical) (hgo : ∀ s, s.Canonical → (go s).Canonical) : (once s port f go).Canonical := by
  unfold once
  split
  · exact send_canonical h
  · exact hgo _ h

theorem execFlitWrite_canonical {port f} (h : s.Canonical) : Outcome.Canonical (execFlitWrite port f s) :=
  receive_canonical h (fun _ h' => once_canonical h' (fun _ h'' => ite_canonical (logDevice_canonical h'')
    (ite_canonical h'' (answer_canonical (devStore_canonical h'')))))

theorem execFlitReadRequest_canonical {port f} (h : s.Canonical) : Outcome.Canonical (execFlitReadRequest port f s) :=
  receive_canonical h (fun _ h' => once_canonical h' (fun _ h'' => ite_canonical h'' (answer_canonical h'')))

theorem execFlitAtomicRequest_canonical {port f} (h : s.Canonical) : Outcome.Canonical (execFlitAtomicRequest port f s) :=
  receive_canonical h (fun _ h' => once_canonical h' (fun _ h'' => ite_canonical (h''.congr rfl)
    (ite_canonical (answer_canonical h'') (ite_canonical h'' (h''.congr rfl)))))

theorem runAtomics_canonical {die} (h : s.Canonical) : (runAtomics die s).Canonical := by
  unfold runAtomics
  split
  · exact h
  · exact answer_canonical (devStore_canonical (h.congr rfl))

theorem deliver_canonical {r b} (h : s.Canonical) : (deliver s r b).Canonical := by
  unfold deliver
  split
  · exact loadReply_canonical h
  · exact onGroup_canonical h
  · split
    · exact h.congr rfl
    · split
      · exact h.congr rfl
      · exact h
  · exact h

theorem failRead_canonical {r} (h : s.Canonical) : (failRead s r).Canonical := by
  unfold failRead
  split
  next e => exact deliver_canonical (snd_canonical e (freeBytes_canonical (logEvent_canonical h)))

theorem execFlitReadReply_canonical {port f} (h : s.Canonical) : Outcome.Canonical (execFlitReadReply port f s) := by
  unfold execFlitReadReply
  refine receive_canonical h (fun _ h' => ?_)
  split
  · exact h'
  · exact ite_canonical (deliver_canonical (dropReq_canonical h')) (failRead_canonical (dropReq_canonical h'))

theorem execFlitAtomicReply_canonical {port f} (h : s.Canonical) : Outcome.Canonical (execFlitAtomicReply port f s) := by
  unfold execFlitAtomicReply
  refine receive_canonical h (fun _ h' => ?_)
  split
  · exact h'
  · split
    · exact ringReply_canonical (dropReq_canonical h')
    · exact dropReq_canonical h'

theorem failToken_canonical {r} (h : s.Canonical) : (failToken s r).Canonical := by
  unfold failToken
  split
  · exact setFunc_canonical h
  · exact h

theorem takePiece_canonical {f} (h : s.Canonical) : (takePiece s f).Canonical := h.congr rfl

theorem takeAck_canonical {f} (h : s.Canonical) : (takeAck s f).Canonical := by
  unfold takeAck
  split
  · exact h
  · exact ite_canonical (dropReq_canonical h) (failToken_canonical (dropReq_canonical h))

theorem execPeerRequestTimeout_canonical {req} (h : s.Canonical) : Outcome.Canonical (execPeerRequestTimeout req s) := by
  unfold execPeerRequestTimeout
  split
  · exact h
  · split
    · exact h
    · split
      · exact failRead_canonical (dropReq_canonical h)
      · exact logEvent_canonical (dropReq_canonical h)
      · exact failToken_canonical (dropReq_canonical h)
      · exact h

/-! ### Machine/Groups -/

theorem collFlit_canonical {port f go} (h : s.Canonical) (hgo : ∀ s n, s.Canonical → (go s n).Canonical) :
    (collFlit s port f go).Canonical :=
  ite_canonical (logDevice_canonical h) (ite_canonical (countStale_canonical h) (hgo _ _ h))

theorem letGo_canonical {gid} (h : s.Canonical) : (letGo s gid).Canonical := sendContributions_canonical (releaseHeld_canonical h)

theorem execFlitContribution_canonical {port f} (h : s.Canonical) : Outcome.Canonical (execFlitContribution port f s) :=
  receive_canonical h (fun _ h' => collFlit_canonical h' (fun _ _ h'' => ite_canonical (logDevice_canonical h'')
    (letGo_canonical (rootTakes_canonical h''))))

theorem execFlitResult_canonical {port f} (h : s.Canonical) : Outcome.Canonical (execFlitResult port f s) :=
  receive_canonical h (fun _ h' => collFlit_canonical h' (fun _ _ h'' => letGo_canonical (writeResult_canonical h'')))

theorem execCollectiveTimeout_canonical {gid off} (h : s.Canonical) : Outcome.Canonical (execCollectiveTimeout gid off s) := by
  unfold execCollectiveTimeout
  dsimp only
  split
  · exact h
  · exact ite_canonical (letGo_canonical (endRound_canonical h)) h

theorem showInc_canonical {fn inc} (h : s.Canonical) : (showInc s fn inc).Canonical := setFunc_canonical h

theorem execBind_canonical {fn gid} (h : s.Canonical) : Outcome.Canonical (execBind fn gid s) := by
  unfold execBind
  split
  · exact h
  · split
    · exact endClscmd_canonical h
    · dsimp only
      split
      · exact endClscmd_canonical h
      · exact endClscmd_canonical (showInc_canonical (setColl_canonical h))

theorem execFree_canonical {fn gid} (h : s.Canonical) : Outcome.Canonical (execFree fn gid s) := by
  unfold execFree
  split
  · exact h
  · dsimp only
    split
    · exact endClscmd_canonical h
    · split
      · exact endClscmd_canonical (setColl_canonical (foldl_canonical h (fun _ _ h' => letGo_canonical (endRound_canonical h'))))
      · exact foldl_canonical h (fun _ _ h' => letGo_canonical (endRound_canonical h'))

/-! ### Machine/Exchange -/

theorem exchangeFails_canonical {fn areas} (h : s.Canonical) : (exchangeFails s fn areas).Canonical := setFunc_canonical h

theorem sendLines_canonical {fn c dev ports n n1 l} (h : s.Canonical) : (sendLines fn c dev ports n n1 l s).Canonical := by
  fun_induction sendLines fn c dev ports n n1 l s
  · exact h
  next ih => exact ih (sendReq_canonical h)

theorem putToken_canonical {fn c len d off b} (h : s.Canonical) : (putToken fn c len d off b s).Canonical := by
  unfold putToken
  split
  · split
    next e => exact writeVA_canonical h e
    · exact exchangeFails_canonical (logDevFault_canonical h)
  · exact sendLines_canonical h
  · exact exchangeFails_canonical h

theorem upsetArea_canonical {c x} (h : s.Canonical) : (upsetArea c s x).Canonical := by
  unfold upsetArea
  refine foldl_canonical h (fun _ _ h' => ?_)
  split
  next e =>
    split
    next e1 => exact writeVA_canonical (snd_canonical e (freeBytes_canonical h')) e1
    · exact snd_canonical e (freeBytes_canonical h')

theorem endExchange_canonical {fn c ring e status} (h : s.Canonical) : (endExchange s fn c ring e status).Canonical := by
  unfold endExchange
  extract_lets _ s1 s2
  have h1 : s1.Canonical := foldl_canonical (setFunc_canonical h) fun _ _ => upsetArea_canonical
  have h2 : s2.Canonical := by
    unfold s2
    split
    next e => exact writeVA_canonical h1 e
    · exact logDevFault_canonical h1
  split
  next e => exact writeVA_canonical h2 e
  · exact logDevFault_canonical h2

theorem performExchange_canonical {fn c d src dests table} (h : s.Canonical) : (performExchange s fn c d src dests table).Canonical :=
  foldl_canonical (foldl_canonical (setFunc_canonical h) (fun _ _ => putToken_canonical)) fun _ _ => putToken_canonical

theorem readExchange_canonical {c d b b1 b2 t} (h : s.Canonical) : readExchange s c d = .ok (b, b1, b2, t) → t.Canonical := by
  intro e
  obtain ⟨⟨_, _⟩, e1, e⟩ := bind_eq_ok e
  obtain ⟨⟨_, _⟩, e2, e⟩ := bind_eq_ok e
  obtain ⟨⟨_, _⟩, e3, ⟨⟩⟩ := bind_eq_ok e
  exact readVA_canonical (readVA_canonical (readVA_canonical h e1) e2) e3

theorem readTicket_canonical {c ring n b b1 t} (h : s.Canonical) : readTicket s c ring n = .ok (b, b1, t) → t.Canonical := by
  intro e
  obtain ⟨⟨_, _⟩, e1, e⟩ := bind_eq_ok e
  obtain ⟨⟨_, _⟩, e2, ⟨⟩⟩ := bind_eq_ok e
  exact readVA_canonical (readVA_canonical h e1) e2

theorem takeExchange_canonical {fn c ring b} (h : s.Canonical) : (takeExchange s fn c ring b).Canonical := by
  unfold takeExchange
  refine ite_canonical (endExchange_canonical h) ?_
  split
  · exact endExchange_canonical (logDevFault_canonical h)
  next e =>
    exact ite_canonical (performExchange_canonical (readExchange_canonical h e)) (endExchange_canonical (readExchange_canonical h e))

theorem execExchange_canonical {fn} (h : s.Canonical) : Outcome.Canonical (execExchange fn s) := by
  unfold execExchange
  extract_lets f c ring n
  refine outcome_ite_canonical h ?_
  split
  · exact ite_canonical (endExchange_canonical h) h
  · refine outcome_ite_canonical h ?_
    split
    · exact logDevFault_canonical h
    next e => exact ite_canonical (takeExchange_canonical (readTicket_canonical h e)) h

theorem execFlitExchangeToken_canonical {port f} (h : s.Canonical) : Outcome.Canonical (execFlitExchangeToken port f s) :=
  receive_canonical h (fun _ h' => ite_canonical (logDevice_canonical h')
    (once_canonical h' (fun _ h'' => answer_canonical (ite_canonical (devStore_canonical h'') h''))))

/-! ### Machine/HostPort -/

theorem execAssign_canonical {fn target} (h : s.Canonical) : Outcome.Canonical (execAssign fn target s) := by
  unfold execAssign
  dsimp only
  split
  · exact h
  · split
    · exact endPoolcmd_canonical h
    · split
      · exact endPoolcmd_canonical h
      · exact endPoolcmd_canonical (setFunc_canonical h)

theorem execLoad_canonical {fn} (h : s.Canonical) : Outcome.Canonical (execLoad fn s) := by
  unfold execLoad
  split
  · exact h
  · dsimp only
    split
    · exact endFwcmd_canonical h
    · split
      · exact h.congr rfl
      · exact endFwcmd_canonical (h.congr rfl)

theorem startPorts_canonical {fw} (h : s.Canonical) : (startPorts fw s).Canonical := h.congr rfl

theorem execPortFirmwareStart_canonical (h : s.Canonical) : Outcome.Canonical (execPortFirmwareStart s) := by
  unfold execPortFirmwareStart
  split
  · exact h
  · split
    · exact endFwcmd_canonical (startPorts_canonical (h.congr rfl))
    · exact h

theorem execFuse_canonical {fn kind} (h : s.Canonical) : Outcome.Canonical (execFuse fn kind s) := by
  unfold execFuse
  split
  · exact h
  · split
    · exact endFwcmd_canonical h
    · split
      · exact endFwcmd_canonical h
      · exact endFwcmd_canonical (h.congr rfl)

theorem execAttest_canonical {fn} (h : s.Canonical) : Outcome.Canonical (execAttest fn s) := by
  unfold execAttest
  split
  · exact h
  · exact endFwcmd_canonical (hostStore_canonical h)

theorem execCert_canonical {fn} (h : s.Canonical) : Outcome.Canonical (execCert fn s) := by
  unfold execCert
  split
  · exact h
  · dsimp only
    split
    · exact endFwcmd_canonical h
    · exact endFwcmd_canonical (hostStore_canonical h)

theorem execFabcfgInboundLoad_canonical {fn} (h : s.Canonical) : Outcome.Canonical (execFabcfgInboundLoad fn s) := by
  unfold execFabcfgInboundLoad
  dsimp only
  split
  · exact h
  · exact h.congr rfl

theorem loseLine_canonical {x} (h : s.Canonical) : (loseLine s x).Canonical :=
  foldl_canonical (poke_canonical h) (fun _ _ => logEvent_canonical)

theorem execCxlCacheDown_canonical {linkUp} (h : s.Canonical) : Outcome.Canonical (execCxlCacheDown linkUp s) := by
  unfold execCxlCacheDown
  split
  · exact h
  · exact ite_canonical (h.congr rfl) (foldl_canonical (h.congr rfl) (fun _ _ => loseLine_canonical))

theorem giveUpLine_canonical {k n} (h : s.Canonical) : (giveUpLine s k n).Canonical := h.congr rfl

theorem execHostWrite_canonical {t bytes} (h : s.Canonical) : Outcome.Canonical (execHostWrite t bytes s) := by
  unfold execHostWrite
  split
  · exact h
  · exact devStore_canonical (giveUpLine_canonical h)

theorem hostAtomic_canonical {pa op size v c} (h : s.Canonical) : (hostAtomic pa op size v c s).Canonical :=
  ite_canonical (h.congr rfl) ((devStore_canonical h).congr rfl)

theorem hostLink_canonical {io mem width} (h : s.Canonical) : (hostLink io mem width s).Canonical := ite_canonical h (h.congr rfl)

theorem mapBar_canonical {base len pa} (h : s.Canonical) : (mapBar base len pa s).Canonical := ite_canonical h (h.congr rfl)

/-! ### Machine/Housekeeping -/

theorem execStackTrainingComplete_canonical {x} (h : s.Canonical) : Outcome.Canonical (execStackTrainingComplete x s) := by
  unfold execStackTrainingComplete
  split
  · dsimp only
    split
    · exact h
    · exact h.congr rfl
  · dsimp only
    split
    · exact h
    · exact h.congr rfl
  · dsimp only
    split
    · exact h
    · exact ite_canonical (h.congr rfl) h

theorem execCoreIdle_canonical {core} (h : s.Canonical) : Outcome.Canonical (execCoreIdle core s) := by
  unfold execCoreIdle
  split
  · exact setCore_canonical h
  · exact h

theorem handOver_canonical {holder taker} (h : s.Canonical) : (handOver s holder taker).Canonical := by
  unfold handOver
  split
  · exact h
  · exact setCore_canonical (onGroup_canonical (setGroup_canonical h))

theorem execPartitionHandover_canonical {core holder taker} (h : s.Canonical) :
    Outcome.Canonical (execPartitionHandover core holder taker s) := by
  unfold execPartitionHandover
  dsimp only
  split
  · split
    · exact handOver_canonical h
    · exact h
  · exact h

theorem execStandpipeRotation_canonical {core} (h : s.Canonical) : Outcome.Canonical (execStandpipeRotation core s) := by
  unfold execStandpipeRotation
  dsimp only
  split
  · split
    · exact setCore_canonical (handOver_canonical h)
    · exact h
  · exact h

theorem execEvictedGroupRestore_canonical {core slot} (h : s.Canonical) : Outcome.Canonical (execEvictedGroupRestore core slot s) := by
  unfold execEvictedGroupRestore
  dsimp only
  split
  · exact h
  · split
    · exact makeWords_canonical (fillParts_canonical (setGroup_canonical h))
    · exact h

theorem execDuplicateCopy_canonical {core slot reg} (h : s.Canonical) : Outcome.Canonical (execDuplicateCopy core slot reg s) := by
  unfold execDuplicateCopy
  dsimp only
  split
  · split
    · exact setGroup_canonical h
    · exact h
  · exact h

/-! ### Machine/Rejoin -/

theorem jenterBody_canonical {o is} (h : s.Canonical) : (jenterBody o is s).Canonical := by
  unfold jenterBody
  split
  · exact h
  · dsimp only
    split
    · exact h
    · exact onGroup_canonical h

theorem jquitBody_canonical {o is} (h : s.Canonical) : (jquitBody o is s).Canonical := onGroup_canonical h

theorem jwaitBody_canonical {o is} (h : s.Canonical) : (jwaitBody o is s).Canonical := by
  unfold jwaitBody
  split
  · exact h
  · dsimp only
    split
    · exact h
    · split
      · exact setGroup_canonical h
      · split
        · exact h
        · exact setGroup_canonical h

theorem jgetBody_canonical {o is} (h : s.Canonical) : (jgetBody o is s).Canonical := onGroup_canonical h

theorem jsaveBody_canonical {o is} (h : s.Canonical) : (jsaveBody o is s).Canonical := onGroup_canonical h

theorem jrestBody_canonical {o is} (h : s.Canonical) : (jrestBody o is s).Canonical := by
  unfold jrestBody
  dsimp only
  split
  · exact h
  · exact onGroup_canonical h

/-! ### Machine/Lane -/

theorem slotAhead_canonical {reg publishes} : (slotAhead reg publishes).Canonical := by
  intro is s v e h
  dsimp only [slotAhead] at e
  generalize (if publishes then _ else _) = bad at e
  split at e <;> cases e
  exact h

theorem execPub_canonical {o} (h : s.Canonical) : Outcome.Canonical (execPub o s) := by
  refine run_canonical h (fun is s h => ?_) slotAhead_canonical
  dsimp only
  split
  · exact h
  · exact verdict_ite_canonical h (onGroup_canonical (setLaunch_canonical h))

theorem execChst_canonical {o} (h : s.Canonical) : Outcome.Canonical (execChst o s) := by
  refine run_canonical h (fun is s h => ?_) slotAhead_canonical
  split
  · exact h
  · exact onGroup_canonical h

theorem execChainValueArrival_canonical {core slot} (h : s.Canonical) : Outcome.Canonical (execChainValueArrival core slot s) := by
  unfold execChainValueArrival
  dsimp only
  split
  · exact h
  · split
    · exact h
    · split
      · exact h
      · exact setGroup_canonical h

theorem execLongLatencyResult_canonical {core slot} (h : s.Canonical) : Outcome.Canonical (execLongLatencyResult core slot s) := by
  unfold execLongLatencyResult
  dsimp only
  split
  · exact h
  · split
    · exact h
    · exact onGroup_canonical (draw_canonical h)

/-! ### Machine/Registers -/

theorem openEvq_canonical {a} (h : s.Canonical) : (openEvq s a).Canonical := h.congr rfl

theorem execRegisterWrite_canonical {fn off value} (h : s.Canonical) : Outcome.Canonical (execRegisterWrite fn off value s) := by
  unfold execRegisterWrite
  split
  · exact h
  · split
    · exact openEvq_canonical (setFunc_canonical h)
    · split
      · exact writeReplay_canonical h
      · split
        · exact h.congr rfl
        · exact setFunc_canonical h

/-! ### Machine/Spawn -/

theorem spawnLaunch_canonical {x addr} (h : s.Canonical) : (spawnLaunch s x addr).2.Canonical := by
  unfold spawnLaunch
  split
  · exact h
  · refine ite_snd_canonical h ?_
    split
    next e1 => exact (enterLaunch_canonical h).ok e1
    next e1 => exact (enterLaunch_canonical h).bad e1
    · exact logDevFault_canonical h

theorem execSpawn_canonical {rd rs1} (h : s.Canonical) : Outcome.Canonical (execSpawn rd rs1 s) := by
  unfold execSpawn
  split
  · exact (spawnLaunch_canonical h).congr rfl
  · exact trivial

/-! ### Machine/Dispatch -/

/-- One bullet for each arm of `exec`, in its order; a run of arms that one lemma settles takes one line. -/
theorem exec_canonical {i} (h : s.Canonical) : Outcome.Canonical (exec i s) := by
  unfold exec
  split
  · exact (draw_canonical h).congr rfl
  · exact execStackTrainingComplete_canonical h
  · exact execAutoRestore_canonical h
  · exact execPlaneArrayIdle_canonical h
  · exact execRampStep_canonical h
  · exact execCoreIdle_canonical h
  · exact setCore_canonical h
  · exact execTeamPlacement_canonical h
  · exact execGroupRetire_canonical h
  · exact execLineRefetch_canonical h
  · exact execLongLatencyResult_canonical h
  · exact execStandpipeRotation_canonical h
  · exact execPartitionHandover_canonical h
  · exact execEvictedGroupRestore_canonical h
  · exact execDuplicateCopy_canonical h
  · exact execCreate_canonical h
  · exact execResume_canonical h
  · exact execSuspend_canonical h
  · exact execKill_canonical h
  · exact execKillComplete_canonical h
  · exact execCheckpoint_canonical h
  · exact execCheckpointInterval_canonical h
  · exact execCheckpointComplete_canonical h
  · exact sliceNow_canonical (killFirst_canonical h)
  · exact execSaveComplete_canonical h
  · exact execDeadline_canonical h
  · exact execSliceTableExchange_canonical h
  · exact execTimeSyncLost_canonical h
  · exact execErrqHeadPoll_canonical h
  · exact execRegisterWrite_canonical h
  · exact execEnable_canonical h
  · exact execDisable_canonical h
  · exact execRestart_canonical h
  · exact ite_canonical (moveQueue_canonical h) h
  · exact execDoorbell_canonical h
  · exact ite_canonical (testSlot_canonical h) h
  · exact execUnitAssignment_canonical h
  · exact testSlot_canonical h
  iterate 3 exact ite_canonical (performPacket_canonical h) h -- `nopPacket` to `copy`
  · exact execCopyComplete_canonical h
  · exact ite_canonical (performPacket_canonical h) h
  · exact ite_canonical (recheckWait_canonical h) h
  iterate 3 exact ite_canonical (performPacket_canonical h) h -- `writeval` to `program`
  · exact ite_canonical (rerunProgram_canonical h) h
  · exact execQK_canonical h
  · exact execQK_canonical h
  iterate 10 exact execQA_canonical h -- `qadd` to `qmaxu`
  iterate 4 exact execQK_canonical h -- `qaddi` to `qshri`
  · exact execQld_canonical h
  · exact execQst_canonical h
  · exact busoron_canonical h (fun _ _ _ _ => putReg_canonical)
  · exact busoron_canonical h (fun _ _ _ _ h' => h')
  iterate 5 exact execQJ_canonical h -- `qbeq` to `qjmp`
  · exact busoron_canonical h (fun _ _ _ _ h' => h')
  · exact execQbucket_canonical h
  · exact execQact_canonical h
  · exact execQnvme_canonical h
  · exact busoron_canonical h (fun _ _ _ _ => consume_canonical)
  · exact execQpass_canonical h
  · exact busoron_canonical h (fun _ _ _ _ => blockQueue_canonical)
  · exact busoron_canonical h (fun _ _ _ _ h' => failPacket_canonical (setQueue_canonical h'))
  · exact execSpawn_canonical h
  · exact execS_canonical (fun _ _ h' => h') h
  · exact execTrap_canonical h
  · exact run_canonical h (fun _ _ => tretBody_canonical) ahead_canonical
  · exact execS_canonical (fun _ _ => onGroup_canonical) h
  · exact execWsp_canonical h
  · exact execRgn_canonical h
  · exact execPause_canonical h
  · exact onGroup_canonical h
  · exact run_canonical h (fun _ _ => jumpBody_canonical) branchAhead_canonical
  · exact run_canonical h (fun _ _ => jumpBody_canonical) branchAhead_canonical
  · exact run_canonical h (fun _ _ => callBody_canonical) branchAhead_canonical
  · exact run_canonical h (fun _ _ => callBody_canonical) branchAhead_canonical
  · exact run_canonical h (fun _ _ => retBody_canonical) ahead_canonical
  · exact run_canonical h (fun _ _ => exitBody_canonical) ahead_canonical
  · exact run_canonical h (fun _ _ => jenterBody_canonical) ahead_canonical
  · exact run_canonical h (fun _ _ => jquitBody_canonical) ahead_canonical
  · exact run_canonical h (fun _ _ => jwaitBody_canonical) ahead_canonical
  · exact run_canonical h (fun _ _ => jgetBody_canonical) ahead_canonical
  · exact run_canonical h (fun _ _ => jsaveBody_canonical) ahead_canonical
  · exact run_canonical h (fun _ _ => jrestBody_canonical) ahead_canonical
  iterate 4 exact run_canonical h (fun _ _ => onGroup_canonical) ahead_canonical -- `vote` to `lanes`
  · exact execPub_canonical h
  · exact execChst_canonical h
  · exact run_canonical h (fun _ _ => onGroup_canonical) ahead_canonical
  · exact execChainValueArrival_canonical h
  iterate 26 exact execV_canonical h -- `add` to `sel`
  · exact execMov_canonical h
  · exact execV_canonical h
  · exact run_canonical h (fun _ _ => onGroup_canonical) ahead_canonical
  iterate 19 exact execV_canonical h -- `fadd` to `cvt`
  · exact run_canonical h (fun _ _ => planeBody_canonical) planeAhead_canonical
  iterate 4 exact execV_canonical h -- `pk` to `tern`
  · exact run_canonical h (fun _ _ => distBody_canonical) chainAhead_canonical
  · exact run_canonical h (fun _ _ => topkBody_canonical) chainAhead_canonical
  · exact run_canonical h (fun _ _ => topmBody_canonical) chainAhead_canonical
  iterate 4 exact execCombine_canonical h -- `redadd` to `scan`
  · exact execLd_canonical h
  · exact execSt_canonical h
  · exact execLdb_canonical h
  · exact execStb_canonical h
  · exact run_canonical h (fun _ _ h' => h') ahead_canonical
  · exact execCtag_canonical h
  · exact execCins_canonical h
  · exact execCinv_canonical h
  · exact execHalloc_canonical h
  · exact execHfree_canonical h
  · exact execM_canonical (fun _ _ => atomBody_canonical) h
  · exact execM_canonical (fun _ _ => atomBody_canonical) h
  · exact run_canonical h (fun _ _ h' => afterOrder_canonical (fun _ _ h'' => h'') h') ahead_canonical
  · exact execM_canonical (fun _ _ => ratomBody_canonical) h
  · exact execRpoll_canonical h
  · exact execRatomTimeout_canonical h
  · exact execTcfg_canonical h
  · exact execE_canonical (fun _ _ => onGroup_canonical) h ahead_canonical
  · exact execTset_canonical h
  · exact execE_canonical (fun _ _ => onTile_canonical) h ahead_canonical
  · exact execTld_canonical h
  · exact execTst_canonical h
  · exact execE_canonical (fun _ _ => setCtx_canonical) h ahead_canonical
  · exact execE_canonical (fun _ _ => onGroup_canonical) h ahead_canonical
  · exact execE_canonical (fun _ _ => onGroup_canonical) h ahead_canonical
  · exact execE_canonical (fun _ _ => mmaBody_canonical) h ahead_canonical
  · exact execE_canonical (fun _ _ => mmaBody_canonical) h ahead_canonical
  · exact execMatrixOpComplete_canonical h
  · exact execE_canonical (fun _ _ => onGroup_canonical) h ahead_canonical
  · exact execE_canonical (fun _ _ => gateBody_canonical) h ahead_canonical
  · exact execGateOpComplete_canonical h
  · exact execGcfg_canonical h
  · exact execCpy_canonical h
  · exact execE_canonical (fun _ _ h' => withPump_canonical h' (planeIssue_canonical h')) h ahead_canonical
  · exact execE_canonical (fun _ _ => onGroup_canonical) h ahead_canonical
  · exact execCcwait_canonical h
  · exact execE_canonical (fun _ _ => onGroup_canonical) h ahead_canonical
  · exact execE_canonical (fun _ _ h' => withPump_canonical h' (streamJob_canonical h')) h ahead_canonical
  · exact execE_canonical (fun _ _ h' => withPump_canonical h' (streamJob_canonical h')) h ahead_canonical
  · exact execSrst_canonical h
  · exact execJobStart_canonical h
  · exact execPumpSector_canonical h
  · exact execStreamJobComplete_canonical h
  · exact execBarrier_canonical (fun _ _ => barBody_canonical) h
  · exact execBarrier_canonical (fun _ _ h' => onGroup_canonical (arriveBar_canonical h')) h
  · exact execBarw_canonical h
  · exact execBarrier_canonical (fun _ _ => barBody_canonical) h
  · exact execQcfg_canonical h
  · exact execQpush_canonical h
  · exact execQpop_canonical h
  · exact execInval_canonical h
  · exact replay_canonical h
  · exact replay_canonical h
  · exact execPin_canonical h
  · exact execUnpin_canonical h
  · exact execFaultRecordWrite_canonical h
  · exact execPlacementHint_canonical h
  · exact execIvtab_canonical h
  · exact execIvopen_canonical h
  · exact execIvgo_canonical h
  · exact execE_canonical (fun _ _ h' => onGroup_canonical (denseQueries_canonical h')) h ahead_canonical
  · exact execE_canonical (fun _ _ => onGroup_canonical) h ahead_canonical
  · exact execIvwait_canonical h
  · exact execE_canonical (fun _ _ => putScal_canonical) h ahead_canonical
  · exact execIvclose_canonical h
  · exact execStageFormed_canonical h
  · exact execStageLaunchDone_canonical h
  · exact execSolveLaunchDone_canonical h
  · exact execEstimateFormed_canonical h
  · exact execEventLaunchDone_canonical h
  · exact execDieLinkBeat_canonical h
  · exact execFabricPortTraining_canonical h
  · exact execFlitWrite_canonical h
  · exact execFlitReadRequest_canonical h
  · exact execFlitReadReply_canonical h
  · exact execFlitAtomicRequest_canonical h
  · exact execFlitAtomicReply_canonical h
  · exact execFlitContribution_canonical h
  · exact execFlitResult_canonical h
  · exact execFlitExchangeToken_canonical h
  · exact receive_canonical h (fun _ h' => h'.congr rfl)
  · exact receive_canonical h (fun _ h' => ite_canonical (takePiece_canonical h') (takeAck_canonical h'))
  · exact execCollectiveTimeout_canonical h
  · exact execBind_canonical h
  · exact execFree_canonical h
  · exact execExchange_canonical h
  · exact execAssign_canonical h
  · exact execLoad_canonical h
  · exact execPortFirmwareStart_canonical h
  · exact execFuse_canonical h
  · exact execAttest_canonical h
  · exact execCert_canonical h
  · exact execFabcfgInboundLoad_canonical h
  · exact execCxlCacheDown_canonical h
  · exact execHostWrite_canonical h
  · exact h.congr rfl
  · exact execPeerRequestTimeout_canonical h

/-! ### Machine/Harts -/

theorem setHart_canonical {h0 x} (h : s.Canonical) : (s.setHart h0 x).Canonical := h.congr rfl

/-- An instruction of a RISC-V core leaves its memory as it was, or makes one write. -/
theorem rvMem_run_keeps {σ : Type} {P : σ → Prop} {m : RvMem σ} (hw : ∀ s p n v, P s → P (m.write s p n v)) {xl id w x} {s : σ} (h : P s) :
    P (m.run xl id w x s).2 := by
  delta RvMem.run
  extract_lets len past at_ value
  have ha {u a n} {k : Nat → Hart × σ} (hk : ∀ p, P (k p).2) : P (at_ u a n k).2 := by
    unfold at_
    split
    · exact h
    · exact hk _
  generalize at_ = at_ at *
  cases rvAct xl x w with
  | load | loadF | reserve => exact ha fun _ => h
  | store | amo => exact ha fun _ => hw _ _ _ _ h
  | conditional =>
    refine ha fun p => ?_
    dsimp only
    split
    · exact hw _ _ _ _ h
    · exact h
  | _ => exact h

theorem hartWord_canonical {n w} (h : s.Canonical) : (hartWord n w s).Canonical :=
  ite_canonical (setHart_canonical h) (ite_canonical (setHart_canonical h) (setHart_canonical
    (rvMem_run_keeps (P := State.Canonical) (fun _ _ _ _ => devStore_canonical) h)))

theorem endReservations_canonical {keys} (h : s.Canonical) : (endReservations keys s).Canonical := h.congr rfl

theorem runPortCore_canonical {p} (h : s.Canonical) : (runPortCore p s).Canonical := by
  unfold runPortCore
  split
  · exact h
  · dsimp only
    split <;> exact h.congr rfl

theorem setPortCore_canonical {p x} (h : s.Canonical) : (setPortCore p x s).Canonical := by
  unfold setPortCore
  split
  · exact h
  · exact h.congr rfl

/-! ### Machine/Schedule -/

theorem lineIssue_canonical {b pc} (h : s.Canonical) : (lineIssue s b pc).Canonical := by
  unfold lineIssue
  split <;> exact h

theorem noSlot_canonical {is b} (h : s.Canonical) : (noSlot s is b).Canonical := by
  unfold noSlot
  split <;> exact h

theorem slotIssue_canonical {is b} (h : s.Canonical) : (slotIssue s is b).Canonical := by
  unfold slotIssue
  split
  · exact lineIssue_canonical h
  · exact noSlot_canonical h

theorem lineArrives_canonical {is addr b} (h : s.Canonical) : (lineArrives s is addr b).Canonical := by
  unfold lineArrives
  split
  · exact onGroup_canonical (onGroup_canonical h)
  · exact slotIssue_canonical (onGroup_canonical h)

theorem fetchSlot_canonical {is} (h : s.Canonical) : (fetchSlot s is).Canonical := by
  unfold fetchSlot
  extract_lets addr
  clear_value addr
  generalize (s.ctx is.g.ctx).replayable = replays
  split
  · exact h
  · split
    · exact slotIssue_canonical h
    · split
      · exact askOnce_canonical h
      · exact lineArrives_canonical (used_canonical h)
      · exact h
      · exact logMalformed_canonical h
      · split
        · split
          · exact h
          next e => exact parkLanes_canonical h e
        · exact h

theorem as_canonical {a} (h : s.Canonical) : (s.as a).Canonical := h.congr rfl

theorem enterInstr_canonical {is w i} (h : s.Canonical) : Outcome.Canonical (enterInstr s is w i) := by
  unfold enterInstr
  split
  · exact exec_canonical (onGroup_canonical h)
  · exact conclude_canonical h h

theorem issueSlot_canonical {is w} (h : s.Canonical) : Outcome.Canonical (issueSlot s is w) := by
  unfold issueSlot
  split
  · exact conclude_canonical h h
  · split
    · exact conclude_canonical h h
    · exact conclude_canonical h h
    · split
      · exact enterInstr_canonical h
      · exact exec_canonical h

theorem issueGroup_canonical {key} (h : s.Canonical) : Outcome.Canonical (issueGroup s key) := by
  unfold issueGroup
  dsimp only
  split
  · exact trivial
  · split
    next e1 => exact finish_canonical ((fetchSlot_canonical (as_canonical h)).wait e1)
    next e1 => exact finish_canonical ((fetchSlot_canonical (as_canonical h)).parked e1)
    next e1 => exact conclude_canonical (as_canonical h) ((fetchSlot_canonical (as_canonical h)).trap e1)
    next e1 => exact issueSlot_canonical ((fetchSlot_canonical (as_canonical h)).slot e1)

theorem raceJobs_canonical {w keys} (h : t.Canonical) : (raceJobs w s keys t).Canonical := ite_canonical (h.congr rfl) h

theorem raceMatops_canonical {w keys} (h : t.Canonical) : (raceMatops w s keys t).Canonical := ite_canonical h (h.congr rfl)

theorem raceGates_canonical {keys} (h : t.Canonical) : (raceGates s keys t).Canonical := h.congr rfl

theorem noteStores_canonical {w} (h : t.Canonical) : (noteStores w s t).Canonical :=
  ite_canonical (h.congr rfl) (endReservations_canonical (wakeQueues_canonical
    (raceGates_canonical (raceMatops_canonical (raceJobs_canonical (h.congr rfl))))))

theorem issueSecond_canonical {before after key} (h : after.Canonical) : Outcome.Canonical (issueSecond before after key) := by
  have hi {g : Option Group} : Outcome.Canonical (issueGroup { after with env := { after.env with before := g } } key) :=
    issueGroup_canonical (h.congr rfl)
  unfold issueSecond
  split
  · split
    · exact h
    · split
      · split
        next e => exact noteStores_canonical ((hi.next e).congr rfl)
        · exact hi
      · exact h
  · exact h

theorem issueWith_canonical {pair key} (h : s.Canonical) : Outcome.Canonical (issueWith pair s key) := by
  unfold issueWith
  split
  next s' e =>
    have h' := (issueGroup_canonical h).next e
    have hp : Outcome.Canonical (if pair then issueSecond s (noteStores .other s s') key else .next s') :=
      outcome_ite_canonical (issueSecond_canonical (noteStores_canonical h')) h'
    refine outcome_ite_canonical h' ?_
    split
    next e => exact fitWords_canonical h (hp.next e)
    · exact hp
  · exact issueGroup_canonical h

theorem issueFirst_canonical {pair l} (h : s.Canonical) : Outcome.Canonical (issueFirst pair l s) := by
  fun_induction issueFirst pair l s
  · exact h
  next e _ ih => exact ih (((issueWith_canonical h).next e).congr rfl)
  next e _ => exact (issueWith_canonical h).next e
  · exact issueWith_canonical h

theorem issueCore_canonical {pair core} (h : s.Canonical) : Outcome.Canonical (issueCore pair core s) := issueFirst_canonical h

theorem lookAll_canonical (h : s.Canonical) : (lookAll s).Canonical := h.congr rfl

theorem interp_canonical {u} (h : s.Canonical) : Outcome.Canonical (interp u s) := by
  unfold interp
  split
  · exact h
  · split
    · exact h
    · split
      · split
        · exact exec_canonical (as_canonical h)
        · exact h
      · split
        · exact exec_canonical (as_canonical h)
        · exact h

theorem runHart_canonical {h0} (h : s.Canonical) : Outcome.Canonical (runHart h0 s) := by
  unfold runHart
  split
  · exact h
  · split
    · exact h
    · split
      · exact exec_canonical (as_canonical (setHart_canonical h))
      · exact hartWord_canonical (setHart_canonical h)

theorem passTime_canonical {n} (h : s.Canonical) : (passTime n s).Canonical := settleFused_canonical (h.congr rfl)

theorem onIntegrity_canonical {core slot f} (h : s.Canonical) : (onIntegrity s core slot f).Canonical := onGroup_canonical h

theorem fitEvent_canonical {i before after} (h : before.Canonical) (h' : after.Canonical) : (fitEvent i before after).Canonical := by
  unfold fitEvent
  split
  · exact (fitWords_canonical h h').congr rfl
  · exact h'

theorem forEvent_canonical {i} (h : s.Canonical) : (forEvent i s).Canonical := by
  unfold forEvent
  split
  · exact lookAll_canonical h
  · exact lookAll_canonical h
  · exact h

theorem turnStep_canonical {t} (h : s.Canonical) : Outcome.Canonical (turnStep t s) := by
  unfold turnStep
  split
  · exact issueCore_canonical h
  · exact issueCore_canonical h
  · exact interp_canonical h
  · exact runHart_canonical h
  · exact runPortCore_canonical h
  · split
    · split
      next e1 => exact fitEvent_canonical h ((exec_canonical (as_canonical (forEvent_canonical h))).next e1)
      · exact exec_canonical (as_canonical (forEvent_canonical h))
    · exact h
  · exact passTime_canonical (lookAll_canonical h)
  · exact onGroup_canonical h
  · exact onIntegrity_canonical h
  · exact onGroup_canonical h
  · split
    · exact logEvent_canonical h
    · exact h
  · exact onIntegrity_canonical h
  · exact onGroup_canonical h
  · exact h.congr rfl
  · exact onGroup_canonical h
  · exact h.congr rfl
  · exact countFills_canonical h
  · exact mapBar_canonical h
  · exact runAtomics_canonical h
  · exact hostAtomic_canonical h
  · exact hostLink_canonical h
  · exact setHart_canonical h
  · exact setHart_canonical h
  · exact setPortCore_canonical h

theorem nextMove_canonical (h : s.Canonical) : (nextMove s).2.Canonical := by
  unfold nextMove
  split <;> exact h.congr rfl

theorem move_canonical {t} (h : s.Canonical) : Outcome.Canonical (move t s) := by
  unfold move
  split
  next e => exact noteStores_canonical ((turnStep_canonical h).next e)
  · exact turnStep_canonical h

theorem step_canonical (h : s.Canonical) : Outcome.Canonical (step s) := move_canonical (nextMove_canonical h)

end Sys2Proof.Machine

namespace Sys2Proof.Claims
open Machine

/-- Settles O60: memory canonical is an invariant of the machine's step, from the one lemma that each function of the model has. -/
theorem stepKeepsMemoryCanonical : Obligations.StepKeepsMemoryCanonical := by
  unfold Obligations.StepKeepsMemoryCanonical
  intro s t h e
  exact ((step_canonical ⟨h⟩).next e).wf

end Sys2Proof.Claims
end

section
/-! SUPPORT. Tables of which a view is looked at, the groups of a machine in a view, and what a core does by itself with its groups: it gives and takes
partitions of the standpipe and duplicates of words, which `Group.bare` leaves out. -/
namespace Sys2Proof.Machine

variable {β : Type} {φ : Group → β} {r s t : State}

/-! ### Tables and lists -/

theorem lookup_map_snd {α : Type} (f : α → β) (l : List (Nat × α)) (k : Nat) : lookup (l.map (fun x => (x.1, f x.2))) k = (lookup l k).map f := by
  induction l with
  | nil => rfl
  | cons x l ih => by_cases h : x.1 = k <;> simp [lookup, h, ih]

theorem map_insert_of_lookup {α : Type} {f : Nat × α → β} {l : List (Nat × α)} {k : Nat} {x y : α} (h : lookup l k = some x) (e : f (k, y) = f (k, x)) :
    (insert l k y).map f = l.map f := by
  induction l with
  | nil => cases h
  | cons z l ih =>
    obtain ⟨a, z⟩ := z
    by_cases hk : a = k <;> simp_all [lookup, insert]

theorem erase_eq_filter {α : Type} (l : List (Nat × α)) (k : Nat) : erase l k = l.filter (fun x => x.1 != k) := by
  induction l with
  | nil => rfl
  | cons x l ih => by_cases h : x.1 = k <;> simp [erase, h, ih]

theorem mem_erase_iff {α : Type} {l : List (Nat × α)} {k : Nat} {x : Nat × α} : x ∈ erase l k ↔ x ∈ l ∧ x.1 ≠ k := by
  simp [erase_eq_filter]

theorem length_eraseDups_le (l : List Nat) : l.eraseDups.length ≤ l.length := by
  induction h : l.length using Nat.strongRecOn generalizing l with
  | _ n ih =>
    cases l with
    | nil => simp
    | cons a l =>
      have hf : (l.filter (fun b => !b == a)).length ≤ l.length := List.length_filter_le ..
      simp only [List.eraseDups_cons, List.length_cons] at h ⊢
      have hle := ih _ (by omega) (l.filter (fun b => !b == a)) rfl
      omega

theorem nodup_of_length_eraseDups {l : List Nat} (h : l.eraseDups.length = l.length) : l.Nodup := by
  induction l with
  | nil => exact List.nodup_nil
  | cons a l ih =>
    have hle := length_eraseDups_le (l.filter (fun b => !b == a))
    have hf : (l.filter (fun b => !b == a)).length ≤ l.length := List.length_filter_le ..
    simp only [List.eraseDups_cons, List.length_cons] at h
    have hall : l.filter (fun b => !b == a) = l := List.filter_eq_self.2 (List.length_filter_eq_length_iff.1 (by omega))
    rw [hall] at h
    have ha : a ∉ l := fun hm => by simpa using List.filter_eq_self.1 hall a hm
    exact List.nodup_cons.2 ⟨ha, ih (by omega)⟩

/-! ### Entries read back -/

theorem State.group_setGroup_same (s : State) (k : Nat) (g : Group) : (s.setGroup k g).group k = some g := lookup_insert_same ..

theorem State.group_setGroup_other (s : State) (k : Nat) (g : Group) {j : Nat} (h : j ≠ k) : (s.setGroup k g).group j = s.group j :=
  lookup_insert_other _ _ _ _ h

theorem State.group_onGroup_same {k : Nat} {g : Group} (f : Group → Group) (h : s.group k = some g) : (s.onGroup k f).group k = some (f g) := by
  unfold State.group at h ⊢
  rw [State.onGroup_groups s k f g h, lookup_insert_same]

theorem State.group_onGroup_other (s : State) (k : Nat) (f : Group → Group) {j : Nat} (h : j ≠ k) : (s.onGroup k f).group j = s.group j := by
  unfold State.onGroup
  split
  · exact s.group_setGroup_other k _ h
  · rfl

@[simp] theorem State.core_setCore_same (s : State) (c : Nat) (x : Core) : (s.setCore c x).core c = x := by
  simp [State.core]

theorem State.ctx_setCtx_same (s : State) (c : Nat) (x : Ctx) : (s.setCtx c x).ctx c = x := by simp [State.ctx]

/-! ### The groups in a view -/

/-- The groups of `s` as `φ` shows them. -/
def State.seen (φ : Group → β) (s : State) : List (Nat × β) := s.groups.map (fun x => (x.1, φ x.2))

theorem State.lookup_seen (s : State) (k : Nat) : lookup (s.seen φ) k = (s.group k).map φ := lookup_map_snd ..

/-- A group without its part of the standpipe and without what its core knows of its words' parity. -/
def Group.bare (g : Group) : Group := { g with partition := none, integrity := {} }

/-- `φ` shows the groups of `t` as those of `s`, and memory and launches stand as they were. -/
structure State.Alike (φ : Group → β) (s t : State) : Prop where
  seen : t.seen φ = s.seen φ
  mem : t.mem = s.mem
  launches : t.launches = s.launches

theorem State.Alike.refl : State.Alike φ s s := ⟨rfl, rfl, rfl⟩

theorem State.Alike.group (h : State.Alike φ s t) (k : Nat) : (t.group k).map φ = (s.group k).map φ := by
  rw [← t.lookup_seen, h.seen, s.lookup_seen]

/-- What `ψ` makes of a view shows no more than the view. -/
theorem State.Alike.view {γ : Type} (h : State.Alike φ s t) (ψ : β → γ) : State.Alike (fun g => ψ (φ g)) s t where
  seen := by
    have he := congrArg (List.map (fun x => (x.1, ψ x.2))) h.seen
    simpa only [State.seen, List.map_map, Function.comp_def] using he
  mem := h.mem
  launches := h.launches

theorem onGroup_alike {k : Nat} {f : Group → Group} (hf : ∀ g, φ (f g) = φ g) (h : r.Alike φ s) : r.Alike φ (s.onGroup k f) := by
  unfold State.onGroup
  split
  next e => exact ⟨(map_insert_of_lookup (f := fun x => (x.1, φ x.2)) e (congrArg (Prod.mk k) (hf _))).trans h.seen, h.mem, h.launches⟩
  · exact h

theorem setCore_alike {c x} (h : r.Alike φ s) : r.Alike φ (s.setCore c x) := ⟨h.seen, h.mem, h.launches⟩

theorem setTeam_alike {k x} (h : r.Alike φ s) : r.Alike φ (s.setTeam k x) := ⟨h.seen, h.mem, h.launches⟩

theorem givePart_alike {k} (h : r.Alike Group.bare s) : r.Alike Group.bare (givePart s k) := by
  unfold givePart
  split
  · exact h
  · exact setCore_alike (onGroup_alike (fun _ => rfl) h)

theorem fillParts_alike {c} (h : r.Alike Group.bare s) : r.Alike Group.bare (fillParts s c) := by
  unfold fillParts
  dsimp only
  split
  · exact h
  · exact givePart_alike h

theorem dropDups_alike {c} (h : r.Alike Group.bare s) : r.Alike Group.bare (dropDups s c) where
  seen := by
    rw [← h.seen]
    simp only [State.seen, dropDups, List.map_map]
    exact List.map_congr_left fun x _ => by
      dsimp only [Function.comp_apply]
      split <;> rfl
  mem := h.mem
  launches := h.launches

theorem makeWords_alike {c} (h : r.Alike Group.bare s) : r.Alike Group.bare (makeWords s c) := ite_keeps h (dropDups_alike h)

end Sys2Proof.Machine
end

section
/-! SUPPORT. The device's own accesses, its reports and the ends of packets and runs leave groups and launches as they were. Each function has one lemma,
`f_keepsWork`: what `s` kept of `r`, `f s` keeps. -/
namespace Sys2Proof.Machine

/-- The groups and launches of `s` stand in `t` as they were. -/
structure State.KeepsWork (s t : State) : Prop where
  groups : t.groups = s.groups
  launches : t.launches = s.launches

variable {r s t : State}

theorem State.KeepsWork.refl : s.KeepsWork s := ⟨rfl, rfl⟩

theorem State.KeepsWork.congr (h : r.KeepsWork s) (hg : t.groups = s.groups) (hl : t.launches = s.launches) : r.KeepsWork t :=
  ⟨hg.trans h.groups, hl.trans h.launches⟩

theorem poke_keepsWork {k b} (h : r.KeepsWork s) : r.KeepsWork (s.poke k b) := h.congr rfl rfl

theorem setCtx_keepsWork {c x} (h : r.KeepsWork s) : r.KeepsWork (s.setCtx c x) := h.congr rfl rfl

theorem cache_keepsWork {c va w pa} (h : r.KeepsWork s) : r.KeepsWork (s.cache c va w pa) := h.congr rfl rfl

theorem dirtyLeaf_keepsWork {p} (h : r.KeepsWork s) : r.KeepsWork (dirtyLeaf s p) := ite_keeps h (poke_keepsWork h)

theorem shareDirty_keepsWork {c w} (h : r.KeepsWork s) : r.KeepsWork (s.shareDirty c w) :=
  ite_keeps h (foldl_keeps (fun _ _ => dirtyLeaf_keepsWork) h)

theorem markDirty_keepsWork {c va w pa} (h : r.KeepsWork s) : r.KeepsWork (s.markDirty c va w pa) :=
  cache_keepsWork (shareDirty_keepsWork (ite_keeps h (poke_keepsWork h)))

theorem dirtyFrame_keepsWork {pa n} (h : r.KeepsWork s) : r.KeepsWork (s.dirtyFrame pa n) := foldl_keeps (fun _ _ => dirtyLeaf_keepsWork) h

theorem busWrite_keepsWork {a l} (h : r.KeepsWork s) : r.KeepsWork (busWrite a l s) := by
  fun_induction busWrite a l s
  · exact h
  next ih => exact ih (poke_keepsWork h)

theorem hostStore_keepsWork {a b} (h : r.KeepsWork s) : r.KeepsWork (s.hostStore a b) :=
  busWrite_keepsWork (foldl_keeps (fun _ _ h' => ite_keeps (dirtyFrame_keepsWork h') h') h)

theorem used_keepsWork {c va u w pa} (h : r.KeepsWork s) : r.KeepsWork (s.used c va u w pa) :=
  ite_keeps (markDirty_keepsWork h) (cache_keepsWork h)

theorem readVA_keepsWork {c va n u b} (h : r.KeepsWork s) (e : s.readVA c va n u = .ok (b, t)) : r.KeepsWork t := by
  unfold State.readVA at e
  split at e
  · cases e
  · obtain ⟨_, _, ⟨⟩⟩ := map_eq_ok e
    exact foldl_keeps (fun _ _ => used_keepsWork) h

theorem storePieces_keepsWork {c l b} (h : r.KeepsWork s) : r.KeepsWork (storePieces c l b s) := by
  induction l generalizing s b with
  | nil => exact h
  | cons x l ih =>
    unfold storePieces
    refine ih ?_
    split
    · exact poke_keepsWork (used_keepsWork h)
    · exact used_keepsWork h

theorem writeVA_keepsWork {c va bs} (h : r.KeepsWork s) (e : s.writeVA c va bs = .ok t) : r.KeepsWork t := by
  unfold State.writeVA at e
  split at e
  · cases e
  · obtain ⟨_, _, ⟨⟩⟩ := map_eq_ok e
    exact storePieces_keepsWork h

theorem signal_keepsWork {fn vec} (h : r.KeepsWork s) : r.KeepsWork (s.signal fn vec) := h.congr rfl rfl

theorem evWrite_keepsWork {b} (h : r.KeepsWork s) : r.KeepsWork (evWrite s b) :=
  ite_keeps h (signal_keepsWork ((hostStore_keepsWork (hostStore_keepsWork h)).congr rfl rfl))

theorem reportDevice_keepsWork {b} (h : r.KeepsWork s) : r.KeepsWork (reportDevice s b) :=
  ite_keeps h (ite_keeps (evWrite_keepsWork h) (ite_keeps (h.congr rfl rfl) ((hostStore_keepsWork h).congr rfl rfl)))

theorem errqWrite_keepsWork {c b} (h : r.KeepsWork s) (e : errqWrite s c b = .ok t) : r.KeepsWork t := by
  unfold errqWrite at e
  dsimp only at e
  split at e
  · cases e
  next e1 =>
    split at e
    · cases e
    next e2 =>
      cases e
      exact signal_keepsWork (setCtx_keepsWork (writeVA_keepsWork (writeVA_keepsWork h e1) e2))

theorem errqLost_keepsWork {c} (h : r.KeepsWork s) : r.KeepsWork (errqLost s c) := by
  unfold errqLost
  dsimp only
  split
  next e => exact writeVA_keepsWork (setCtx_keepsWork h) e
  · exact setCtx_keepsWork h

theorem report_keepsWork {c b} (h : r.KeepsWork s) : r.KeepsWork (report s c b) := by
  unfold report
  refine ite_keeps h (ite_keeps (ite_keeps (setCtx_keepsWork h) (errqLost_keepsWork h)) ?_)
  split
  · exact reportDevice_keepsWork h
  · exact setCtx_keepsWork h
  · split
    next e => exact errqWrite_keepsWork h e
    · exact reportDevice_keepsWork h

theorem logEvent_keepsWork {c corrected source core unit address v1 v2} (h : r.KeepsWork s) :
    r.KeepsWork (logEvent s c corrected source core unit address v1 v2) := report_keepsWork h

theorem logDevFault_keepsWork {c f} (h : r.KeepsWork s) : r.KeepsWork (logDevFault s c f) := by
  unfold logDevFault
  split
  · exact logEvent_keepsWork h
  · exact logEvent_keepsWork h
  · exact h

/-! ### The end of a launch, and of a team's runs -/

theorem complete_keepsWork {c q tag addr irq status} (h : r.KeepsWork s) : r.KeepsWork (complete s c q tag addr irq status) := by
  have hw : r.KeepsWork (match s.writeVA c addr (leBytes 8 (tag.toNat * 2 ^ 32 + status)) with
      | .ok s => s
      | .error f => report (logDevFault s c f) c (kind7 f.kind7 q 1 addr tag.toNat)) := by
    split
    next e => exact writeVA_keepsWork h e
    · exact report_keepsWork (logDevFault_keepsWork h)
  exact ite_keeps (signal_keepsWork (ite_keeps h hw)) (ite_keeps h hw)

theorem endWork_keepsWork {q w} (h : r.KeepsWork s) : r.KeepsWork (endWork s q w) := h.congr rfl rfl

theorem joinAdd_keepsWork {l} (h : r.KeepsWork s) : r.KeepsWork (joinAdd s l) := by
  have lost {f b} : r.KeepsWork (report (logDevFault s l.ctx f) l.ctx b) := report_keepsWork (logDevFault_keepsWork h)
  unfold joinAdd
  refine ite_keeps h ?_
  split
  · exact lost
  next e =>
    split
    · exact lost
    next e1 => exact writeVA_keepsWork (readVA_keepsWork h e) e1

theorem tellOrigin_keepsWork {id l status} (h : r.KeepsWork s) : r.KeepsWork (tellOrigin s id l status) := by
  unfold tellOrigin
  split
  · exact endWork_keepsWork (complete_keepsWork h)
  · exact h
  · split
    · exact h.congr rfl rfl
    · exact h

theorem writeBack_keepsWork {x} (h : r.KeepsWork s) (e : writeBack s x = .ok t) : r.KeepsWork t := by
  unfold writeBack at e
  split at e
  · cases e
    exact poke_keepsWork (poke_keepsWork h)
  · dsimp only at e
    split at e
    · cases e
    next e1 => exact writeVA_keepsWork (writeVA_keepsWork h e1) e

theorem endPacket_keepsWork {id x status} (h : r.KeepsWork s) : r.KeepsWork (endPacket s id x status).1 := by
  unfold endPacket
  split
  · exact h
  · exact endWork_keepsWork (complete_keepsWork h)

theorem loseWork_keepsWork {x} (h : r.KeepsWork s) : r.KeepsWork (loseWork s x) := by
  unfold loseWork
  refine ite_keeps h (foldl_keeps (fun _ _ h' => ?_) h)
  split
  · exact h'.congr rfl rfl
  · exact h'

theorem restRun_keepsWork {id x phase cause} (h : r.KeepsWork s) : r.KeepsWork (restRun s id x phase cause) := by
  have ends {s x y status} {c : Bool} (h : r.KeepsWork s) : r.KeepsWork (if c then endPacket s id x status else (s, y)).1 :=
    ite_keeps (P := fun p : State × Run => r.KeepsWork p.1) (endPacket_keepsWork h) h
  unfold restRun
  dsimp only
  split
  next e =>
    have hw := writeBack_keepsWork (loseWork_keepsWork h) e
    exact ite_keeps ((ends hw).congr rfl rfl) ((ends hw).congr rfl rfl)
  · have hw {x f} : r.KeepsWork (logDevFault (loseWork s x) x.ctx f) := logDevFault_keepsWork (loseWork_keepsWork h)
    exact ite_keeps ((ends hw).congr rfl rfl) ((ends hw).congr rfl rfl)

theorem setRun_keepsWork {id x} (h : r.KeepsWork s) : r.KeepsWork (s.setRun id x) := h.congr rfl rfl

theorem failRun_keepsWork {id x cause} (h : r.KeepsWork s) : r.KeepsWork (failRun s id x cause) := restRun_keepsWork h

theorem retireTeamRuns_keepsWork {team} (h : r.KeepsWork s) : r.KeepsWork (retireTeamRuns s team) :=
  foldl_keeps (fun _ _ h' => ite_keeps (failRun_keepsWork h') (setRun_keepsWork h')) h

end Sys2Proof.Machine
end

section
/-! SUPPORT. RESET and bring-up, restoration, the placement of a team and the retirement of a group (O49). -/
namespace Sys2Proof.Machine

variable {r s t : State}

/-! ### A team's placement (R161 to R163) -/

/-- R161: the group that a placement puts into a slot at `clk`. -/
def firstGroup (id team t : Nat) (l : Launch) (g age clk : Nat) : Group := {
  ctx := l.ctx, launch := id, team, index := g, width := l.record.width, age, since := clk, entering := true, regs := firstRegs l g t
  lanes := (List.range l.record.width).map (fun k => if l.isOff (g * l.record.width + k) then .off else .run) }

theorem firstGroup_lane {id team t l g age clk k} (h : k < l.record.width) :
    (firstGroup id team t l g age clk).lane k = if l.isOff (g * l.record.width + k) then .off else .run := by
  simp [firstGroup, Group.lane, h]

section
variable {id team i : Nat} {l : Launch}

theorem dispatchGroup_eq (x : Nat × Nat) : dispatchGroup id team i l s x =
    givePart (s.fresh.2.setGroup x.1 (firstGroup id team i l x.2 s.nextId s.clk)) x.1 := rfl

theorem givePart_group_other (s : State) {k j : Nat} (h : j ≠ k) : (givePart s k).group j = s.group j := by
  unfold givePart
  split
  · rfl
  · exact s.group_onGroup_other k _ h

theorem givePart_teams (s : State) (k : Nat) : (givePart s k).teams = s.teams := by
  unfold givePart
  split
  · rfl
  · simp

theorem dispatchGroup_group_same (x : Nat × Nat) :
    ((dispatchGroup id team i l s x).group x.1).map Group.bare = some (firstGroup id team i l x.2 s.nextId s.clk) := by
  rw [dispatchGroup_eq, (givePart_alike .refl).group, State.group_setGroup_same]
  rfl

theorem dispatchGroup_group_other {x : Nat × Nat} {j : Nat} (h : j ≠ x.1) : (dispatchGroup id team i l s x).group j = s.group j := by
  rw [dispatchGroup_eq, givePart_group_other _ h, State.group_setGroup_other _ _ _ h]
  rfl

theorem dispatchGroups_group_other {ps : List (Nat × Nat)} {j : Nat} (h : j ∉ ps.map Prod.fst) :
    (ps.foldl (dispatchGroup id team i l) s).group j = s.group j := by
  induction ps generalizing s with
  | nil => rfl
  | cons x ps ih =>
    obtain ⟨hx, hps⟩ := not_or.1 (mt List.mem_cons.2 h)
    rw [List.foldl_cons, ih hps, dispatchGroup_group_other hx]

/-- Each slot of a list without repeats holds the group dispatched into it. -/
theorem dispatchGroups_group {ps : List (Nat × Nat)} (h : (ps.map Prod.fst).Nodup) {p : Nat × Nat} (hp : p ∈ ps) :
    ∃ age clk, ((ps.foldl (dispatchGroup id team i l) s).group p.1).map Group.bare = some (firstGroup id team i l p.2 age clk) := by
  induction ps generalizing s with
  | nil => cases hp
  | cons x ps ih =>
    obtain ⟨hx, hps⟩ := List.nodup_cons.1 h
    cases hp with
    | head => exact ⟨_, _, by rw [List.foldl_cons, dispatchGroups_group_other hx, dispatchGroup_group_same]⟩
    | tail _ hp => exact ih hps hp

theorem dispatchGroup_teams (x : Nat × Nat) : (dispatchGroup id team i l s x).teams = s.teams := givePart_teams ..

theorem dispatchGroups_teams (ps : List (Nat × Nat)) : (ps.foldl (dispatchGroup id team i l) s).teams = s.teams :=
  foldl_keeps (P := fun t : State => t.teams = s.teams) (fun _ _ => (dispatchGroup_teams _).trans) rfl

theorem makeWords_teams (s : State) (c : Nat) : (makeWords s c).teams = s.teams := by
  unfold makeWords
  split <;> rfl

theorem makeWordsAll_teams (cs : List Nat) : (cs.foldl makeWords s).teams = s.teams :=
  foldl_keeps (P := fun t : State => t.teams = s.teams) (fun _ _ => (makeWords_teams ..).trans) rfl

/-- The next number is a placed team's own; its record names its launch, its place and its slots, and each slot holds its group. -/
theorem placeTeam_places {seat : Seat} {keys : List Nat} (hgs : placedGroups l i ≠ []) (hk : keys.Nodup) (hlen : keys.length = (placedGroups l i).length) :
    (∃ x, lookup (placeTeam s id l i seat keys).teams s.nextId = some x ∧ x.launch = id ∧ x.index = i ∧ x.cores = seat.cores ∧ x.groups = keys) ∧
    ∀ p ∈ keys.zip (placedGroups l i), ∃ age clk, ((placeTeam s id l i seat keys).group p.1).map Group.bare =
      some (firstGroup id s.nextId i { l with started := true, reserve := none } p.2 age clk) := by
  have he : (placedGroups l i).isEmpty = false := by simpa using hgs
  unfold placeTeam
  simp only [he, Bool.false_eq_true, if_false]
  constructor
  · rw [makeWordsAll_teams, dispatchGroups_teams]
    exact ⟨_, lookup_insert_same .., rfl, rfl, rfl, rfl⟩
  · intro p hp
    rw [State.Alike.group (foldl_keeps (P := State.Alike Group.bare _) (fun _ _ => makeWords_alike) .refl)]
    exact dispatchGroups_group (by rwa [List.map_fst_zip (Nat.le_of_eq hlen)]) hp
end

/-- A reserve is the launch's; the rest of the machine stays. -/
theorem keepReserve_eq (s : State) (id : Nat) : keepReserve s id = { s with launches := (keepReserve s id).launches } := by
  unfold keepReserve
  split
  · rfl
  · split
    · rfl
    · split <;> rfl

theorem keepReserve_groups (s : State) (id : Nat) : (keepReserve s id).groups = s.groups := by rw [keepReserve_eq]

theorem keepReserve_teams (s : State) (id : Nat) : (keepReserve s id).teams = s.teams := by rw [keepReserve_eq]

/-- R164: a launch that takes its teams in one order takes the one at its counter. -/
theorem nextTeam_inOrder {l : Launch} (hr : l.returned = []) (ho : l.record.chain ≠ [] ∨ (diesOf (s.ctx l.ctx).desc).length ≤ 1) (hn : l.next < l.teams) :
    nextTeam s l = (some (l.next, { l with next := l.next + 1 }), s) := by
  have ho : (!l.record.chain.isEmpty || decide ((diesOf (s.ctx l.ctx).desc).length ≤ 1)) = true := by simpa using ho
  simp only [nextTeam, hr, ho, hn, if_true]

theorem execTeamPlacement_places {id : Nat} {l : Launch} {seat : Seat} {slots : List Nat} (hl : lookup s.launches id = some l)
    (ha : (s.ctx l.ctx).state = .active) (hlate : laterLaunch s l = false) {n : Nat} {l1 : Launch} (hnext : nextTeam s l = (some (n, l1), s))
    (hseat : seatFor s id l1 n = some seat) (hheld : noneHeld s id l1 n = true) (hslots : slotsOk s l1 seat (placedGroups l1 n) slots = true) :
    execTeamPlacement id slots s = .next (keepReserve (placeTeam s id l1 n seat slots) id) := by
  unfold execTeamPlacement
  simp [hl, ha, hlate, hnext, hseat, hheld, hslots]

theorem slotsOk_distinct {l : Launch} {seat : Seat} {gs keys : List Nat} (h : slotsOk s l seat gs keys = true) :
    keys.Nodup ∧ keys.length = gs.length := by
  simp only [slotsOk, Bool.and_eq_true, beq_iff_eq] at h
  obtain ⟨⟨hlen, hdups⟩, -⟩ := h
  exact ⟨nodup_of_length_eraseDups hdups, hlen⟩

/-! ### A group retires (R166) -/

/-- The group of a slot is gone from the table, and every other stays as `Group.bare` shows it. -/
theorem unseat_alike (s : State) (k : Nat) : State.Alike Group.bare { s with groups := erase s.groups k } (unseat s k) :=
  ite_keeps (P := State.Alike Group.bare _) ⟨rfl, rfl, rfl⟩ (fillParts_alike ⟨rfl, rfl, rfl⟩)

theorem releaseBar_alike {team n gen} (h : r.Alike Group.team s) : r.Alike Group.team (releaseBar s team n gen) where
  seen := by
    rw [← h.seen]
    simp only [State.seen, releaseBar, List.map_map]
    exact List.map_congr_left fun x _ => by
      dsimp only [Function.comp_apply]
      split
      · split <;> rfl
      · rfl
  mem := h.mem
  launches := h.launches

theorem settleBar_alike {team n} (h : r.Alike Group.team s) : r.Alike Group.team (settleBar s team n) := by
  unfold settleBar
  split
  · exact h
  · exact ite_keeps (releaseBar_alike (setTeam_alike h)) h

theorem leaveTeam_alike {team index} (h : r.Alike Group.team s) : r.Alike Group.team (leaveTeam s team index) := by
  unfold leaveTeam
  split
  · exact h
  · exact ite_keeps (setTeam_alike h) (foldl_keeps (fun _ _ => settleBar_alike) (setTeam_alike h))

theorem setLaunch_teamsLeft {id : Nat} {l m : Launch} (h : lookup s.launches id = some l) (e : m.teamsLeft = l.teamsLeft) :
    (s.setLaunch id m).launches.map (fun x => (x.1, x.2.teamsLeft)) = s.launches.map (fun x => (x.1, x.2.teamsLeft)) :=
  map_insert_of_lookup (f := fun x => (x.1, x.2.teamsLeft)) h (congrArg (Prod.mk id) e)

theorem keepReserve_teamsLeft (s : State) (id : Nat) :
    (keepReserve s id).launches.map (fun x => (x.1, x.2.teamsLeft)) = s.launches.map (fun x => (x.1, x.2.teamsLeft)) := by
  unfold keepReserve
  split
  · rfl
  next h =>
    split
    · exact setLaunch_teamsLeft h rfl
    · split
      · rfl
      · exact setLaunch_teamsLeft h rfl

theorem keepReserves_teamsLeft (s : State) (c k : Nat) :
    (lookup (keepReserves s c).launches k).map Launch.teamsLeft = (lookup s.launches k).map Launch.teamsLeft := by
  have h : (keepReserves s c).launches.map (fun x => (x.1, x.2.teamsLeft)) = s.launches.map (fun x => (x.1, x.2.teamsLeft)) :=
    foldl_keeps (P := fun t : State => t.launches.map (fun x => (x.1, x.2.teamsLeft)) = s.launches.map (fun x => (x.1, x.2.teamsLeft)))
      (fun _ _ => (keepReserve_teamsLeft ..).trans) rfl
  rw [← lookup_map_snd, ← lookup_map_snd, h]

theorem keepReserves_groups (s : State) (c : Nat) : (keepReserves s c).groups = s.groups :=
  foldl_keeps (P := fun t : State => t.groups = s.groups) (fun _ _ => (keepReserve_groups ..).trans) rfl

theorem endLaunch_groups (s : State) (id : Nat) : (endLaunch s id).groups = s.groups := by
  unfold endLaunch
  split
  · rfl
  · split
    · exact (joinAdd_keepsWork (tellOrigin_keepsWork .refl)).groups
    · rfl

theorem endLaunch_gone {id : Nat} (h : (lookup s.launches id).map Launch.teamsLeft = some 0) : lookup (endLaunch s id).launches id = none := by
  obtain ⟨l, h, h0⟩ := Option.map_eq_some_iff.1 h
  simp only [endLaunch, h, h0, beq_self_eq_true, if_true]
  rw [(joinAdd_keepsWork (tellOrigin_keepsWork .refl)).launches]
  exact lookup_erase_same ..

theorem endTeam_groups (s : State) (team id : Nat) : (endTeam s team id).groups = s.groups := by
  have hr : (retireTeamRuns { s with teams := erase s.teams team } team).groups = s.groups := (retireTeamRuns_keepsWork .refl).groups
  unfold endTeam
  split
  · rfl
  · dsimp only
    split
    · exact hr
    · rw [endLaunch_groups, keepReserves_groups]
      exact hr

/-- A team of which a group is left stays. -/
theorem endTeam_stays {team id : Nat} {x : Nat × Group} (hx : x ∈ s.groups) (ht : x.2.team = team) : endTeam s team id = s := by
  have hany : s.groups.any (fun x => x.2.team == team) = true := List.any_eq_true.2 ⟨x, hx, beq_iff_eq.2 ht⟩
  simp only [endTeam, hany, if_true]

/-- With the last group of its last team a launch goes. -/
theorem endTeam_endsLaunch {team id : Nat} {l : Launch} (ht : ∀ x ∈ s.groups, x.2.team ≠ team) (hl : lookup s.launches id = some l)
    (h1 : l.teamsLeft = 1) : lookup (endTeam s team id).launches id = none := by
  have hany : s.groups.any (fun x => x.2.team == team) = false := by simpa using ht
  have hr : lookup (retireTeamRuns { s with teams := erase s.teams team } team).launches id = some l := by
    rw [(retireTeamRuns_keepsWork .refl).launches]
    exact hl
  simp only [endTeam, hany, Bool.false_eq_true, if_false, hr]
  refine endLaunch_gone ?_
  rw [keepReserves_teamsLeft, State.setLaunch_launches, lookup_insert_same]
  simp [h1]

/-- The state when a group has left its slot and its team, and its launch counts it as gone. -/
def departed (s : State) (k : Nat) (g : Group) (l : Launch) : State :=
  (leaveTeam (unseat s k) g.team (g.index % l.record.team)).setLaunch g.launch { l with gone := l.gone ++ [g.index] }

theorem leaveTeam_unseat_alike (s : State) (k team index : Nat) :
    State.Alike Group.team { s with groups := erase s.groups k } (leaveTeam (unseat s k) team index) :=
  leaveTeam_alike ((unseat_alike s k).view Group.team)

theorem departed_mem (s : State) (k : Nat) (g : Group) (l : Launch) : (departed s k g l).mem = s.mem :=
  (leaveTeam_unseat_alike ..).mem

theorem departed_launch (s : State) (k : Nat) (g : Group) (l : Launch) :
    lookup (departed s k g l).launches g.launch = some { l with gone := l.gone ++ [g.index] } := lookup_insert_same ..

theorem departed_group (s : State) (k : Nat) (g : Group) (l : Launch) : (departed s k g l).group k = none := by
  have h := (leaveTeam_unseat_alike s k g.team (g.index % l.record.team)).group k
  have hgone : State.group { s with groups := erase s.groups k } k = none := lookup_erase_same ..
  rw [hgone] at h
  exact Option.map_eq_none_iff.1 h

/-- A team has a group left when one in another slot is of it. -/
theorem departed_team {s : State} {k : Nat} {g : Group} {l : Launch} {team : Nat} :
    (∃ x ∈ (departed s k g l).groups, x.2.team = team) ↔ ∃ x ∈ s.groups, x.1 ≠ k ∧ x.2.team = team := by
  have hs : (departed s k g l).seen Group.team = State.seen Group.team { s with groups := erase s.groups k } := (leaveTeam_unseat_alike ..).seen
  have hmem (u : State) : (∃ x ∈ u.groups, x.2.team = team) ↔ ∃ x ∈ u.seen Group.team, x.2 = team := by
    constructor
    · rintro ⟨x, hx, ht⟩
      exact ⟨_, List.mem_map.2 ⟨x, hx, rfl⟩, ht⟩
    · rintro ⟨y, hy, ht⟩
      obtain ⟨x, hx, rfl⟩ := List.mem_map.1 hy
      exact ⟨x, hx, ht⟩
  rw [hmem, hs, ← hmem]
  simp only [mem_erase_iff, and_assoc]

theorem execGroupRetire_retires {core slot : Nat} {g : Group} {l : Launch} (hg : s.group (groupKey core slot) = some g)
    (hl : lookup s.launches g.launch = some l) (ha : (s.ctx g.ctx).state = .active) (hm : mayRetire s (groupKey core slot) g = true) :
    execGroupRetire core slot s = .next (endTeam (departed s (groupKey core slot) g l) g.team g.launch) := by
  have hl' : lookup (leaveTeam (unseat s (groupKey core slot)) g.team (g.index % l.record.team)).launches g.launch = some l := by
    rw [(leaveTeam_unseat_alike ..).launches]
    exact hl
  simp [execGroupRetire, hg, hl, ha, hm, hl', departed]

theorem execGroupRetire_waits {core slot : Nat} {g : Group} (hg : s.group (groupKey core slot) = some g)
    (hm : mayRetire s (groupKey core slot) g = false) : execGroupRetire core slot s = .next s := by
  simp [execGroupRetire, hg, hm]

/-! ### RESET and bring-up (R25), and restoration after it (R133) -/

theorem execReset_eq (s : State) : execReset s = .next { State.reset with
    env := (s.draw 2).2.env, mem := (s.draw 2).2.mem, badLines := (s.draw 2).2.badLines, irqs := (s.draw 2).2.irqs, nextId := (s.draw 2).2.nextId
    sec := { fused := (s.draw 2).2.sec.fused, flash := (s.draw 2).2.sec.flash, failed := if (s.draw 2).1 == 0 then none else some .sDie } } := rfl

theorem execStackTrainingComplete_held {x : BringUp} (h : s.sec.failed ≠ none ∨ 16 ≤ s.sec.hbm) : execStackTrainingComplete x s = .next s := by
  have h : (s.sec.failed.isSome || decide (16 ≤ s.sec.hbm)) = true := by simpa [Option.isSome_iff_ne_none] using h
  simp only [execStackTrainingComplete, h, if_true]

theorem execStackTrainingComplete_next {x : BringUp} (hf : s.sec.failed = none) (hn : s.sec.hbm < 16) : execStackTrainingComplete x s = match x with
    | .trained => .next { s with sec := { s.sec with hbm := s.sec.hbm + 1 } }
    | .stackFails => .next { s with sec := { s.sec with failed := some (.stack s.sec.hbm) } }
    | .dieFails => .next (if s.sec.hbm % 4 == 0 then { s with sec := { s.sec with failed := some (.die (s.sec.hbm / 4)) } } else s) := by
  have h : (s.sec.failed.isSome || decide (16 ≤ s.sec.hbm)) = false := by simp [hf, hn]
  cases x <;> simp only [execStackTrainingComplete, h, Bool.false_eq_true, if_false]

theorem pokes_mem (ps : List (Nat × List Byte)) (s : State) :
    (ps.foldl (fun s p => s.poke p.1 p.2) s).mem = ps.foldl (fun m p => Memory.store m p.1 p.2) s.mem := by
  induction ps generalizing s with
  | nil => rfl
  | cons p ps ih => exact ih _

theorem pokes_launches_runs (ps : List (Nat × List Byte)) (s : State) :
    (ps.foldl (fun s p => s.poke p.1 p.2) s).launches = s.launches ∧ (ps.foldl (fun s p => s.poke p.1 p.2) s).runs = s.runs :=
  foldl_keeps (P := fun t : State => t.launches = s.launches ∧ t.runs = s.runs) (f := fun (s : State) (p : Nat × List Byte) => s.poke p.1 p.2)
    (fun _ _ h => h) ⟨rfl, rfl⟩

/-- A context that is not there, after bring-up: it waits without AUTO, and for the slots of its runs. -/
theorem execAutoRestore_waits {ctx : Nat} {g : Generation} (hgen : newestValid s ctx = some g)
    (h : g.ctx.desc.auto = false ∨ ∃ r ∈ g.runs, lookup s.runs r.1 ≠ none) : execAutoRestore ctx s = .next s := by
  have h : (!g.ctx.desc.auto || g.runs.any (fun x => (lookup s.runs x.1).isSome)) = true := by
    simpa [List.any_eq_true, Option.isSome_iff_ne_none] using h
  simp only [execAutoRestore, hgen, h, if_true]
  exact ite_self _

theorem execAutoRestore_restores {ctx : Nat} {g : Generation} (hup : 16 ≤ s.sec.hbm) (hfree : lookup s.ctxs ctx = none) (hgen : newestValid s ctx = some g)
    (ha : g.ctx.desc.auto = true) (hr : ∀ r ∈ g.runs, lookup s.runs r.1 = none) :
    ∃ t, execAutoRestore ctx s = .next t ∧ t.ctx ctx = revived g ∧ t.mem = g.pages.foldl (fun m p => Memory.store m p.1 p.2) s.mem ∧
      t.launches = s.launches ++ g.launches ∧ t.runs = s.runs ++ g.runs := by
  have hgo : (decide (s.sec.hbm < 16) || (lookup s.ctxs ctx).isSome) = false := by simp [hup, hfree]
  have h : (!g.ctx.desc.auto || g.runs.any (fun x => (lookup s.runs x.1).isSome)) = false := by simpa [ha] using hr
  simp only [execAutoRestore, hgo, hgen, h, Bool.false_eq_true, if_false]
  obtain ⟨hlaunches, hruns⟩ := pokes_launches_runs g.pages s
  exact ⟨_, rfl, State.ctx_setCtx_same .., pokes_mem .., congrArg (· ++ g.launches) hlaunches, congrArg (· ++ g.runs) hruns⟩

end Sys2Proof.Machine

namespace Sys2Proof.Claims
open Machine

/-- Settles O49: what RESET and bring-up leave, a restoration, a placement of which every slot holds its group, and a retirement that ends its team or leaves it. -/
theorem bringUpAndPlacement : Obligations.BringUpAndPlacement := by
  unfold Obligations.BringUpAndPlacement
  refine ⟨fun s => ?_, fun s => ⟨fun x h => ?_, fun hf hn => ⟨?_, ?_, fun h4 => ?_⟩, fun core => ?_⟩, fun s ctx g hup hfree hgen => ?_,
    fun s id l seat slots hl ha hlate hr ho hn => ?_, fun s core slot g l hg hl ha => ?_⟩
  · -- RESET
    exact ⟨_, execReset_eq s, by simp, by simp, rfl, rfl, rfl, rfl, rfl, rfl, rfl, rfl, rfl, rfl, rfl, rfl, rfl, rfl, rfl⟩
  · -- a stack that waits, and one that trains or fails
    exact execStackTrainingComplete_held h
  · exact execStackTrainingComplete_next (x := .trained) hf hn
  · exact execStackTrainingComplete_next (x := .stackFails) hf hn
  · refine (execStackTrainingComplete_next (x := .dieFails) hf hn).trans ?_
    simp only [h4, beq_self_eq_true, if_true]
  · -- a die that accepts dispatch
    exact decide_eq_true_iff
  · -- a restoration
    refine ⟨fun h => execAutoRestore_waits hgen (.inl h), fun _ h => execAutoRestore_waits hgen (.inr h), fun h hruns => ?_⟩
    obtain ⟨t, ht, hctx, hrest⟩ := execAutoRestore_restores hup hfree hgen h hruns
    exact ⟨t, ht, hctx, congrArg Ctx.state hctx, hrest⟩
  · -- a placement: every slot holds its group
    intro l1 gs hseat hheld hslots hgs
    obtain ⟨hnodup, hlen⟩ := slotsOk_distinct hslots
    obtain ⟨⟨x, hx, hlaunch, hindex, hcores, hslot⟩, hgroups⟩ := placeTeam_places (s := s) (id := id) (l := l1) (seat := seat) hgs hnodup hlen
    refine ⟨_, s.nextId, x, execTeamPlacement_places hl ha hlate (nextTeam_inOrder hr ho hn) hseat hheld hslots, ?_, hlaunch, hindex, hcores, hslot,
      fun p hp => ?_⟩
    · rw [keepReserve_teams]
      exact hx
    · obtain ⟨age, clk, hg⟩ := hgroups p hp
      obtain ⟨g, hg, hbare⟩ := Option.map_eq_some_iff.1 hg
      have hw : g.width = l.record.width := congrArg Group.width hbare
      refine ⟨g, ?_, congrArg Group.ctx hbare, congrArg Group.launch hbare, congrArg Group.team hbare, congrArg Group.index hbare, hw,
        congrArg Group.entering hbare, congrArg Group.regs hbare, fun k hk => ?_⟩
      · rw [State.group, keepReserve_groups]
        exact hg
      · exact (congrArg (fun g => Group.lane g k) hbare).trans (firstGroup_lane (hw ▸ hk))
  · -- a retirement that leaves its team, or ends it
    refine ⟨execGroupRetire_waits hg, fun hm => ⟨_, execGroupRetire_retires hg hl ha hm, ?_, fun hleft => ?_, fun hlast h1 => ?_⟩⟩
    · rw [State.group, endTeam_groups]
      exact departed_group ..
    · obtain ⟨x, hx, hteam⟩ := departed_team.2 hleft
      rw [endTeam_stays hx hteam]
      exact ⟨departed_mem .., departed_launch ..⟩
    · refine endTeam_endsLaunch (fun x hx hteam => ?_) (departed_launch ..) h1
      obtain ⟨y, hy, hslot, hyteam⟩ := departed_team.1 ⟨x, hx, hteam⟩
      exact hlast y hy hslot hyteam

end Sys2Proof.Claims
end

section
/-! SUPPORT. A core's own steps with its array, its lines, its standpipe and its main file (O50). -/
namespace Sys2Proof.Machine

variable {s : State}

/-! ### The plane array and a core's placements (R23, R24) -/

theorem execPlaneArrayIdle_idles {core : Nat} (hi : (s.core core).array.idle = false) (hb : arrayBusy s core = false)
    (ht : (s.core core).array.since + 4096 ≤ s.clk) :
    execPlaneArrayIdle core s = .next (s.setCore core { s.core core with array := { idle := true, since := s.clk } }) := by
  simp [execPlaneArrayIdle, arrayIdle, hi, hb, ht]

theorem execPlaneArrayIdle_stays {core : Nat} (h : (s.core core).array.idle = true ∨ arrayBusy s core = true ∨ s.clk < (s.core core).array.since + 4096) :
    execPlaneArrayIdle core s = .next s := by
  refine if_neg ?_
  rcases h with h | h | h
  · simp [h]
  · simp [arrayIdle, h]
  · simp [arrayIdle, Nat.not_le.2 h]

theorem execRampStep_steps {core : Nat} (hi : (s.core core).array.idle = false) (hs : (s.core core).array.step ≠ 0)
    (ht : (s.core core).array.stepAt + 256 ≤ s.clk) :
    execRampStep core s = .next (s.setCore core { s.core core with array := { (s.core core).array with
      step := if (s.core core).array.step = 16 then 0 else (s.core core).array.step + 1, stepAt := (s.core core).array.stepAt + 256 } }) := by
  simp [execRampStep, hi, hs, ht]

/-! ### A line fetched again (R73) -/

theorem issue_group {core slot : Nat} {pred : Fin 8} {neg : Bool} {is : Issue} (hc : s.env.cur = .group core slot) (h : s.issue pred neg = some is) :
    is.key = groupKey core slot ∧ ∃ g, s.group is.key = some g := by
  simp only [State.issue, hc] at h
  split at h
  · cases h
  next g hg =>
    split at h
    · cases h
      exact ⟨rfl, g, hg⟩
    · cases h

theorem execLineRefetch_eq {core slot : Nat} {is : Issue} (h : State.issue { s with env := { s.env with cur := .group core slot } } 0 false = some is) :
    execLineRefetch core slot s = if is.g.refetch then .next { refetchLine s is with env := s.env } else .next s := by
  simp only [execLineRefetch, h]

theorem refetchLine_reads {is : Issue} {b : List Byte} {w : Dword} {pa : Nat} {g : Group} (hg : s.group is.key = some g)
    (hf : fetchLine s is.g (lineOf is.pc) = .ok b w pa) :
    (refetchLine s is).group is.key = some { g with line := some { addr := lineOf is.pc, bytes := b }, refetch := false } := by
  simp only [refetchLine, hf]
  rw [State.group, (logEvent_keepsWork .refl).groups]
  refine State.group_onGroup_same _ ?_
  rw [State.group, (used_keepsWork .refl).groups]
  exact hg

/-! ### The standpipe (R107) -/

theorem handOver_gives {a b : Nat} {g x : Group} (ha : s.group a = some g) (hb : s.group b = some x) (hab : a ≠ b) :
    (handOver s a b).mem = s.mem ∧ (handOver s a b).group a = some { cleanStaged g with partition := none, staged := [], since := s.clk } ∧
      (handOver s a b).group b = some { x with partition := g.partition } := by
  simp only [handOver, ha]
  refine ⟨by simp, (State.group_onGroup_other _ _ _ hab).trans (State.group_setGroup_same ..), ?_⟩
  exact State.group_onGroup_same _ ((State.group_setGroup_other _ _ _ hab.symm).trans hb)

/-- Of two groups of which one holds a partition and one does not, each has its own slot. -/
theorem ne_of_partition {a b : Nat} {g x : Group} (ha : s.group a = some g) (hb : s.group b = some x) (hp : g.partition ≠ none)
    (hn : x.partition = none) : a ≠ b := by
  rintro rfl
  cases ha.symm.trans hb
  exact hp hn

theorem handOver_clk (s : State) (a b : Nat) : (handOver s a b).clk = s.clk := by
  unfold handOver
  split
  · rfl
  · simp

theorem leastOf_eq_none {l : List (Nat × Nat)} (h : leastOf l = none) : l = [] := by
  cases l with
  | nil => rfl
  | cons x l =>
    unfold leastOf at h
    split at h
    · cases h
    · split at h <;> cases h

theorem leastOf_mem_le {l : List (Nat × Nat)} {y : Nat × Nat} (h : leastOf l = some y) : y ∈ l ∧ ∀ z ∈ l, y.2 ≤ z.2 := by
  induction l generalizing y with
  | nil => cases h
  | cons x l ih =>
    unfold leastOf at h
    split at h
    next hl =>
      cases h
      simp [leastOf_eq_none hl]
    next z hz =>
      obtain ⟨hmem, hle⟩ := ih hz
      simp only [List.mem_cons, forall_eq_or_imp]
      split at h
      · cases h
        exact ⟨.inr hmem, by omega, hle⟩
      next hxz =>
        cases h
        exact ⟨.inl rfl, Nat.le_refl _, fun u hu => Nat.le_trans (Nat.not_lt.1 hxz) (hle u hu)⟩

/-- An entry below every other is the least. -/
theorem leastOf_eq {l : List (Nat × Nat)} {x : Nat × Nat} (h : x ∈ l) (hx : ∀ y ∈ l, y ≠ x → x.2 < y.2) : leastOf l = some x := by
  cases hy : leastOf l with
  | none => simp [leastOf_eq_none hy] at h
  | some y =>
    obtain ⟨hmem, hle⟩ := leastOf_mem_le hy
    by_cases hyx : y = x
    · rw [hyx]
    · exact absurd (hx y hmem hyx) (Nat.not_lt.2 (hle x h))

theorem execPartitionHandover_hands {core holder taker : Nat} {h x : Group} (hh : s.group (groupKey core holder) = some h)
    (hx : s.group (groupKey core taker) = some x) (hp : h.partition ≠ none) (hn : x.partition = none) (hw : waits s h = true) (ha : waits s x = false) :
    execPartitionHandover core holder taker s = .next (handOver s (groupKey core holder) (groupKey core taker)) := by
  have hp : h.partition.isSome = true := Option.isSome_iff_ne_none.2 hp
  simp [execPartitionHandover, hh, hx, hp, hn, hw, ha]

/-- The groups of a core. -/
def groupsOn (s : State) (core : Nat) : List (Nat × Group) := s.groups.filter (fun y => y.1 / 64 == core)

theorem execStandpipeRotation_rotates {core h : Nat} {x : Nat × Group}
    (hh : longestHolder s ((groupsOn s core).filter (fun y => y.2.partition.isSome)) core = some h)
    (hx : x ∈ groupsOn s core) (hn : x.2.partition = none) (ha : waits s x.2 = false)
    (hleast : ∀ y ∈ groupsOn s core, y.2.partition = none → waits s y.2 = false → y ≠ x → x.2.since < y.2.since)
    (hall : ∀ y ∈ groupsOn s core, y.2.partition ≠ none → waits s y.2 = false) (ht : (s.core core).rotated + 256 ≤ s.clk) :
    execStandpipeRotation core s = .next ((handOver s h x.1).setCore core { (handOver s h x.1).core core with rotated := (handOver s h x.1).clk }) := by
  have htaker : leastOf (((groupsOn s core).filter (fun y => y.2.partition.isNone && !waits s y.2)).map (fun y => (y.1, y.2.since))) = some (x.1, x.2.since) := by
    refine leastOf_eq (List.mem_map.2 ⟨x, List.mem_filter.2 ⟨hx, by simp [hn, ha]⟩, rfl⟩) fun z hz hne => ?_
    obtain ⟨y, hy, rfl⟩ := List.mem_map.1 hz
    obtain ⟨hy, hrest⟩ := List.mem_filter.1 hy
    simp only [Bool.and_eq_true, Option.isNone_iff_eq_none, Bool.not_eq_true'] at hrest
    exact hleast y hy hrest.1 hrest.2 fun e => hne (by rw [e])
  have hready : (((groupsOn s core).filter (fun y => y.2.partition.isSome)).all (fun y => !waits s y.2) && decide ((s.core core).rotated + 256 ≤ s.clk)) = true := by
    simpa [ht, Option.isSome_iff_ne_none] using fun a b hab => Decidable.or_iff_not_imp_left.2 (hall (a, b) hab)
  simp only [groupsOn] at hh htaker hready
  simp only [execStandpipeRotation, hh, htaker, hready, if_true]

/-! ### The main file (R106, R113) -/

theorem refillGroup_regs {g : Group} {x : RegBlock} (h : readRegs g.width g.saved = some x) : (refillGroup g).regs = (x.put g).regs := by
  simp only [refillGroup, h]

theorem execEvictedGroupRestore_restores {core slot : Nat} {g : Group} (hg : s.group (groupKey core slot) = some g) (he : g.evicted = true)
    (hfits : coreWords s core + groupWords g ≤ mainFileWords) :
    ∃ t g', execEvictedGroupRestore core slot s = .next t ∧ t.mem = s.mem ∧ t.group (groupKey core slot) = some g' ∧ g'.bare = (refillGroup g).bare := by
  have h : State.Alike Group.bare (s.setGroup (groupKey core slot) (refillGroup g)) (makeWords (fillParts (s.setGroup (groupKey core slot) (refillGroup g)) core) core) :=
    makeWords_alike (fillParts_alike .refl)
  have hgroup := h.group (groupKey core slot)
  rw [State.group_setGroup_same] at hgroup
  obtain ⟨g', hg', hbare⟩ := Option.map_eq_some_iff.1 hgroup
  exact ⟨_, g', by simp [execEvictedGroupRestore, hg, he, hfits], h.mem, hg', hbare⟩

theorem execEvictedGroupRestore_waits {core slot : Nat} {g : Group} (hg : s.group (groupKey core slot) = some g)
    (hfull : mainFileWords < coreWords s core + groupWords g) : execEvictedGroupRestore core slot s = .next s := by
  simp [execEvictedGroupRestore, hg, Nat.not_le.2 hfull]

theorem execDuplicateCopy_copies {core slot : Nat} {g : Group} {k : Fin 64} (hg : s.group (groupKey core slot) = some g) (he : g.evicted = false)
    (hpend : g.pend = []) (hstaged : g.staged = []) (hbad : g.integrity.bad = []) (hdups : g.integrity.dups = [])
    (hfits : coreWords s core + dupWords s core + regWords g (128 + k.val) ≤ mainFileWords) :
    execDuplicateCopy core slot (.s k) s = .next (s.setGroup (groupKey core slot) { g with
      integrity := { g.integrity with dups := (List.range (regWords g (128 + k.val))).map (fun l => { reg := 128 + k.val, word := l }) } }) := by
  have hall (ws : List RegWord) : ws.filter (fun _ => true) = ws := List.filter_eq_self.2 fun _ _ => rfl
  simp [execDuplicateCopy, dupCode, hg, he, hpend, hstaged, hbad, hdups, hfits, hall]

end Sys2Proof.Machine

namespace Sys2Proof.Claims
open Machine

/-- Settles O50: what each of a core's own steps leaves, where it is enabled and where it is not. -/
theorem coreHousekeeping : Obligations.CoreHousekeeping := by
  unfold Obligations.CoreHousekeeping
  intro s core c a
  refine ⟨execPlaneArrayIdle_idles, execPlaneArrayIdle_stays, execRampStep_steps, ?_, rfl, ?_, ?_, ?_, ?_, ?_⟩
  · -- a core's idleness
    exact (apply_ite Host.Outcome.next ..).symm
  · -- a line fetched again
    intro slot is b w pa hi
    obtain ⟨hkey, g, hg⟩ := issue_group rfl hi
    have he : exec (.lineRefetch core slot) s = if is.g.refetch then _ else .next s := execLineRefetch_eq hi
    refine ⟨fun hr => he.trans (if_neg (by simp [hr])), fun hr hf => ?_⟩
    have hread := refetchLine_reads (s := s) hg hf
    rw [hkey] at hread
    exact ⟨_, _, he.trans (if_pos hr), hread, rfl, rfl⟩
  · -- a partition handed over
    intro holder taker h x hh hx hp hn hw ha
    exact ⟨_, execPartitionHandover_hands hh hx hp hn hw ha, handOver_gives hh hx (ne_of_partition hh hx hp hn)⟩
  · -- the rotation
    intro hold part h x here hh hhold hp hx hn ha hxg hleast hall ht hpart
    obtain ⟨-, hholder, htaker⟩ := handOver_gives hhold hxg (ne_of_partition hhold hxg hp hn)
    refine ⟨_, execStandpipeRotation_rotates hh hx hn ha hleast hall ht, ?_, hholder, ?_⟩
    · rw [State.core_setCore_same]
      exact handOver_clk ..
    · rw [hpart]
      exact htaker
  · -- an evicted group
    intro slot g hg he
    refine ⟨fun hfits => ?_, execEvictedGroupRestore_waits hg⟩
    obtain ⟨t, g', ht, hmem, hg', hbare⟩ := execEvictedGroupRestore_restores hg he hfits
    have hregs : g'.bare.regs = (refillGroup g).bare.regs := congrArg Group.regs hbare
    have hback : g'.bare.evicted = (refillGroup g).bare.evicted := congrArg Group.evicted hbare
    exact ⟨t, g', ht, hg', hback, fun x hx => hregs.trans (refillGroup_regs hx), hmem⟩
  · -- duplicates
    rintro slot g n hg he hpend hstaged hbad hdups hfits k rfl
    exact execDuplicateCopy_copies hg he hpend hstaged hbad hdups hfits

end Sys2Proof.Claims
end
